-- ==== Sys2Proof/Word.lean ====
section
/-! DEFINITION. The unit sizes of R3. -/
namespace Sys2Proof

abbrev Byte := BitVec 8
abbrev Half := BitVec 16
abbrev Word := BitVec 32
abbrev Dword := BitVec 64
/-- A vector register (R96). -/
abbrev VReg := BitVec 512

end Sys2Proof
end

