-- ==== Sys2Proof/Config.lean ====
section
/-! DEFINITION. What the manual leaves open and an implementation fixes: constants without a body, so that nothing can be
proved of their values. -/
namespace Sys2Proof.Config

/-- The n-th value that the manual leaves undefined (log 7). -/
opaque freeValue : Nat → BitVec 64

/-- Nanoseconds that die `d`'s `c.now` counts during step `n` (R244, R341; log 4). -/
opaque tick : Nat → Nat → Nat

/-- The bytes of an SPDM measurement, by what is measured, and of the certificate chain (R375; log 27). -/
opaque measurement : List (BitVec 8) → List (BitVec 8)

end Sys2Proof.Config
end

