-- ==== Sys2Proof/Syntax.lean ====
section
/-! DEFINITION. The abstract syntax: one constructor of `Instr` for each row of spec/opcode_table.json (204 Delnis
words, 16 epilogue words, 97 machine events). A machine event has no encoding and no operand of its own: what it concerns stands in `State.arg`. -/
namespace Sys2Proof

/-- The rows of spec/opcode_table.json. -/
inductive Instr where
  /-- ADD, R71. If the predicate holds, writes gA + gB modulo 2^64 to gD. -/
  | add (d : BitVec 5) (a : BitVec 5) (b : BitVec 5) (p : BitVec 3)
  /-- SUB, R71. If the predicate holds, writes gA - gB modulo 2^64 to gD. -/
  | sub (d : BitVec 5) (a : BitVec 5) (b : BitVec 5) (p : BitVec 3)
  /-- AND, R71. If the predicate holds, writes gA AND gB to gD. -/
  | and (d : BitVec 5) (a : BitVec 5) (b : BitVec 5) (p : BitVec 3)
  /-- OR, R71. If the predicate holds, writes gA OR gB to gD. -/
  | or (d : BitVec 5) (a : BitVec 5) (b : BitVec 5) (p : BitVec 3)
  /-- XOR, R71. If the predicate holds, writes gA XOR gB to gD. -/
  | xor (d : BitVec 5) (a : BitVec 5) (b : BitVec 5) (p : BitVec 3)
  /-- ANDN, R71. If the predicate holds, writes gA AND NOT gB to gD. -/
  | andn (d : BitVec 5) (a : BitVec 5) (b : BitVec 5) (p : BitVec 3)
  /-- ORN, R71. If the predicate holds, writes gA OR NOT gB to gD. -/
  | orn (d : BitVec 5) (a : BitVec 5) (b : BitVec 5) (p : BitVec 3)
  /-- ADD_SAT, R71. Signed saturating add of gA and gB into gD. -/
  | addSat (d : BitVec 5) (a : BitVec 5) (b : BitVec 5) (p : BitVec 3)
  /-- SUB_SAT, R71. Signed saturating subtract of gB from gA into gD. -/
  | subSat (d : BitVec 5) (a : BitVec 5) (b : BitVec 5) (p : BitVec 3)
  /-- ADD_ZSAT, R71. Unsigned saturating add of gA and gB into gD. -/
  | addZsat (d : BitVec 5) (a : BitVec 5) (b : BitVec 5) (p : BitVec 3)
  /-- SUB_ZSAT, R71. Unsigned saturating subtract of gB from gA into gD. -/
  | subZsat (d : BitVec 5) (a : BitVec 5) (b : BitVec 5) (p : BitVec 3)
  /-- MUL, R72. Writes the low 64 bits of gA × gB to gD. -/
  | mul (d : BitVec 5) (a : BitVec 5) (b : BitVec 5) (p : BitVec 3)
  /-- MULH, R72. Writes the high 64 bits of the signed 128-bit product to gD. -/
  | mulh (d : BitVec 5) (a : BitVec 5) (b : BitVec 5) (p : BitVec 3)
  /-- MULHZ, R72. Writes the high 64 bits of the unsigned 128-bit product to gD. -/
  | mulhz (d : BitVec 5) (a : BitVec 5) (b : BitVec 5) (p : BitVec 3)
  /-- MUL_SAT, R72. Writes the signed product clamped to 64-bit range to gD. -/
  | mulSat (d : BitVec 5) (a : BitVec 5) (b : BitVec 5) (p : BitVec 3)
  /-- DIV, R73. Signed division truncated toward zero, with fixed results for zero divisor and overflow. -/
  | div (d : BitVec 5) (a : BitVec 5) (b : BitVec 5) (p : BitVec 3)
  /-- DIVZ, R73. Unsigned division, all ones for a zero divisor. -/
  | divz (d : BitVec 5) (a : BitVec 5) (b : BitVec 5) (p : BitVec 3)
  /-- REM, R73. Signed remainder with the sign of the dividend; gA for a zero divisor. -/
  | rem (d : BitVec 5) (a : BitVec 5) (b : BitVec 5) (p : BitVec 3)
  /-- REMZ, R73. Unsigned remainder; gA for a zero divisor. -/
  | remz (d : BitVec 5) (a : BitVec 5) (b : BitVec 5) (p : BitVec 3)
  /-- SLL, R74. Shifts gA left by gB[5:0] into gD. -/
  | sll (d : BitVec 5) (a : BitVec 5) (b : BitVec 5) (p : BitVec 3)
  /-- SRL, R74. Shifts gA logically right by gB[5:0] into gD. -/
  | srl (d : BitVec 5) (a : BitVec 5) (b : BitVec 5) (p : BitVec 3)
  /-- SRA, R74. Shifts gA arithmetically right by gB[5:0] into gD. -/
  | sra (d : BitVec 5) (a : BitVec 5) (b : BitVec 5) (p : BitVec 3)
  /-- ROR, R74. Rotates gA right by gB[5:0] into gD. -/
  | ror (d : BitVec 5) (a : BitVec 5) (b : BitVec 5) (p : BitVec 3)
  /-- CLZ, R75. Counts leading zero bits of gA into gD. -/
  | clz (d : BitVec 5) (a : BitVec 5) (p : BitVec 3)
  /-- CTZ, R75. Counts trailing zero bits of gA into gD. -/
  | ctz (d : BitVec 5) (a : BitVec 5) (p : BitVec 3)
  /-- PCNT, R75. Counts one bits of gA into gD. -/
  | pcnt (d : BitVec 5) (a : BitVec 5) (p : BitVec 3)
  /-- BREV, R75. Reverses the bit order of gA into gD. -/
  | brev (d : BitVec 5) (a : BitVec 5) (p : BitVec 3)
  /-- BSWAP, R75. Reverses the byte order of gA into gD. -/
  | bswap (d : BitVec 5) (a : BitVec 5) (p : BitVec 3)
  /-- CMP_EQ, R76. Writes all ones to kD when gA equals gB, else zero. -/
  | cmpEq (d : BitVec 3) (a : BitVec 5) (b : BitVec 5) (p : BitVec 3)
  /-- CMP_NE, R76. Writes all ones to kD when gA differs from gB. -/
  | cmpNe (d : BitVec 3) (a : BitVec 5) (b : BitVec 5) (p : BitVec 3)
  /-- CMP_LT, R76. Signed less-than compare into kD. -/
  | cmpLt (d : BitVec 3) (a : BitVec 5) (b : BitVec 5) (p : BitVec 3)
  /-- CMP_GE, R76. Signed greater-or-equal compare into kD. -/
  | cmpGe (d : BitVec 3) (a : BitVec 5) (b : BitVec 5) (p : BitVec 3)
  /-- CMP_LTU, R76. Unsigned less-than compare into kD. -/
  | cmpLtu (d : BitVec 3) (a : BitVec 5) (b : BitVec 5) (p : BitVec 3)
  /-- CMP_GEU, R76. Unsigned greater-or-equal compare into kD. -/
  | cmpGeu (d : BitVec 3) (a : BitVec 5) (b : BitVec 5) (p : BitVec 3)
  /-- KAND, R77. kD := kA AND kB. -/
  | kand (d : BitVec 3) (a : BitVec 3) (b : BitVec 3) (p : BitVec 3)
  /-- KOR, R77. kD := kA OR kB. -/
  | kor (d : BitVec 3) (a : BitVec 3) (b : BitVec 3) (p : BitVec 3)
  /-- KXOR, R77. kD := kA XOR kB. -/
  | kxor (d : BitVec 3) (a : BitVec 3) (b : BitVec 3) (p : BitVec 3)
  /-- KANDN, R77. kD := kA AND NOT kB. -/
  | kandn (d : BitVec 3) (a : BitVec 3) (b : BitVec 3) (p : BitVec 3)
  /-- KMOV, R77. Copies mask kA to kD. -/
  | kmov (d : BitVec 3) (a : BitVec 3) (p : BitVec 3)
  /-- GTOK, R77. Copies scalar gA to mask kD. -/
  | gtok (d : BitVec 3) (a : BitVec 5) (p : BitVec 3)
  /-- KTOG, R77. Copies mask kA to scalar gD. -/
  | ktog (d : BitVec 5) (a : BitVec 3) (p : BitVec 3)
  /-- SEL, R78. gD := gA if bit 0 of selector kK is 1, else gB. -/
  | sel (d : BitVec 5) (a : BitVec 5) (b : BitVec 5) (s : BitVec 3)
  /-- SEXT_8, R79. Sign-extends gA[7:0] into gD. -/
  | sext8 (d : BitVec 5) (a : BitVec 5) (p : BitVec 3)
  /-- SEXT_16, R79. Sign-extends gA[15:0] into gD. -/
  | sext16 (d : BitVec 5) (a : BitVec 5) (p : BitVec 3)
  /-- SEXT_32, R79. Sign-extends gA[31:0] into gD. -/
  | sext32 (d : BitVec 5) (a : BitVec 5) (p : BitVec 3)
  /-- ZEXT_8, R79. Zero-extends gA[7:0] into gD. -/
  | zext8 (d : BitVec 5) (a : BitVec 5) (p : BitVec 3)
  /-- ZEXT_16, R79. Zero-extends gA[15:0] into gD. -/
  | zext16 (d : BitVec 5) (a : BitVec 5) (p : BitVec 3)
  /-- ZEXT_32, R79. Zero-extends gA[31:0] into gD. -/
  | zext32 (d : BitVec 5) (a : BitVec 5) (p : BitVec 3)
  /-- MKPTR, R80. Puts segment number n in bits 63:61, clears P and keeps offset bits 59:0. -/
  | mkptr (d : BitVec 5) (a : BitVec 5) (n : BitVec 3) (p : BitVec 3)
  /-- SETP, R80. Sets the P bit (bit 60) of gA into gD. -/
  | setp (d : BitVec 5) (a : BitVec 5) (p : BitVec 3)
  /-- CLRP, R80. Clears the P bit (bit 60) of gA into gD. -/
  | clrp (d : BitVec 5) (a : BitVec 5) (p : BitVec 3)
  /-- ADDI, R81. Adds the sign-extended or prefixed immediate to gA into gD. -/
  | addi (d : BitVec 5) (a : BitVec 5) (i : BitVec 16)
  /-- ANDI, R81. ANDs gA with the zero-extended or prefixed immediate into gD. -/
  | andi (d : BitVec 5) (a : BitVec 5) (i : BitVec 16)
  /-- ORI, R81. ORs gA with the immediate into gD. -/
  | ori (d : BitVec 5) (a : BitVec 5) (i : BitVec 16)
  /-- XORI, R81. XORs gA with the immediate into gD. -/
  | xori (d : BitVec 5) (a : BitVec 5) (i : BitVec 16)
  /-- SLLI, R82. Shifts gA left by the immediate count n. -/
  | slli (d : BitVec 5) (a : BitVec 5) (n : BitVec 6)
  /-- SRLI, R82. Shifts gA logically right by the immediate count n. -/
  | srli (d : BitVec 5) (a : BitVec 5) (n : BitVec 6)
  /-- SRAI, R82. Shifts gA arithmetically right by the immediate count n. -/
  | srai (d : BitVec 5) (a : BitVec 5) (n : BitVec 6)
  /-- RORI, R82. Rotates gA right by the immediate count n. -/
  | rori (d : BitVec 5) (a : BitVec 5) (n : BitVec 6)
  /-- CMPI_EQ, R83. Writes kD all ones when gA equals the signed immediate. -/
  | cmpiEq (k : BitVec 3) (a : BitVec 5) (i : BitVec 16)
  /-- CMPI_NE, R83. Writes kD all ones when gA differs from the immediate. -/
  | cmpiNe (k : BitVec 3) (a : BitVec 5) (i : BitVec 16)
  /-- CMPI_LT, R83. Signed less-than compare of gA with the immediate into kD. -/
  | cmpiLt (k : BitVec 3) (a : BitVec 5) (i : BitVec 16)
  /-- CMPI_GE, R83. Signed greater-or-equal compare of gA with the immediate into kD. -/
  | cmpiGe (k : BitVec 3) (a : BitVec 5) (i : BitVec 16)
  /-- MOVHI, R84. gD := sext(imm16 : gD[15:0], 32). -/
  | movhi (d : BitVec 5) (i : BitVec 16)
  /-- MOVW, R84. gD := zero-extended imm16. -/
  | movw (d : BitVec 5) (i : BitVec 16)
  /-- BC, R85. Branches by disp22 words when bit 0 of kN equals s. -/
  | bc (k : BitVec 3) (s : BitVec 1) (d : BitVec 22)
  /-- CALL, R86. When bit 0 of kN equals s, writes the return address to g31 and branches. -/
  | call (k : BitVec 3) (s : BitVec 1) (d : BitVec 22)
  /-- NOP, R88. Changes nothing but the program counter. -/
  | nop
  /-- JR, R87. If the predicate holds, jumps to gA, trapping 0x04 when it is misaligned. -/
  | jr (a : BitVec 5) (p : BitVec 3)
  /-- CALLR, R87. If the predicate holds, writes the return address to g31 and jumps to the old gA. -/
  | callr (a : BitVec 5) (p : BitVec 3)
  /-- REPF, R94. Captures the next len words and replays them count times, staggering register fields by step. -/
  | repf (l : BitVec 4) (c : BitVec 6) (s : BitVec 3) (t : BitVec 2)
  /-- RALIGN, R91. Holds the slot at its address until its crew peers arrive or n cycles pass. -/
  | ralign (n : BitVec 15)
  /-- EXIT, R89. Stops fetching, waits for the slot's requests to perform, then retires with status DONE. -/
  | exit
  /-- YIELD, R90. Takes the slot out of the rotation until the other eligible slots have issued or 16 cycles pass. -/
  | yield
  /-- LD, R148. Loads 1 to 8 bytes, plain or acquire, sign- or zero-extended into gD. -/
  | ld (d : BitVec 5) (a : BitVec 5) (z : BitVec 3) (q : BitVec 1) (f : BitVec 11)
  /-- ST, R148. Stores 1 to 8 bytes of gD, plain or release, with tags as R133 gives. -/
  | st (d : BitVec 5) (a : BitVec 5) (z : BitVec 3) (q : BitVec 1) (f : BitVec 11)
  /-- LDF, R149. Waits until the word is full, loads it and marks it empty (acquire). -/
  | ldf (d : BitVec 5) (a : BitVec 5) (z : BitVec 2) (f : BitVec 11)
  /-- STE, R149. Waits until the word is empty, stores it and marks it full (release). -/
  | ste (d : BitVec 5) (a : BitVec 5) (z : BitVec 1) (f : BitVec 11)
  /-- ASWP, R150. Atomically swaps memory with gB, returning the old value to gD. -/
  | aswp (d : BitVec 5) (a : BitVec 5) (b : BitVec 5) (t : BitVec 2) (o : BitVec 2)
  /-- AADD, R150. Atomically adds gB to memory, returning the old value. -/
  | aadd (d : BitVec 5) (a : BitVec 5) (b : BitVec 5) (t : BitVec 2) (o : BitVec 2)
  /-- AAND, R150. Atomically ANDs gB into memory, returning the old value. -/
  | aand (d : BitVec 5) (a : BitVec 5) (b : BitVec 5) (t : BitVec 2) (o : BitVec 2)
  /-- AOR, R150. Atomically ORs gB into memory, returning the old value. -/
  | aor (d : BitVec 5) (a : BitVec 5) (b : BitVec 5) (t : BitVec 2) (o : BitVec 2)
  /-- AXOR, R150. Atomically XORs gB into memory, returning the old value. -/
  | axor (d : BitVec 5) (a : BitVec 5) (b : BitVec 5) (t : BitVec 2) (o : BitVec 2)
  /-- AMIN, R150. Atomic signed minimum of memory and gB. -/
  | amin (d : BitVec 5) (a : BitVec 5) (b : BitVec 5) (t : BitVec 2) (o : BitVec 2)
  /-- AMAX, R150. Atomic signed maximum of memory and gB. -/
  | amax (d : BitVec 5) (a : BitVec 5) (b : BitVec 5) (t : BitVec 2) (o : BitVec 2)
  /-- AMINU, R150. Atomic unsigned minimum of memory and gB. -/
  | aminu (d : BitVec 5) (a : BitVec 5) (b : BitVec 5) (t : BitVec 2) (o : BitVec 2)
  /-- AMAXU, R150. Atomic unsigned maximum of memory and gB. -/
  | amaxu (d : BitVec 5) (a : BitVec 5) (b : BitVec 5) (t : BitVec 2) (o : BitVec 2)
  /-- CAS, R150. Atomically writes gB when memory equals gD, returning the old value to gD. -/
  | cas (d : BitVec 5) (a : BitVec 5) (b : BitVec 5) (t : BitVec 2) (o : BitVec 2)
  /-- VLD, R152. Loads 64 aligned bytes into vD, plain or acquire. -/
  | vld (d : BitVec 5) (a : BitVec 5) (q : BitVec 1) (f : BitVec 11)
  /-- VST, R152. Stores 64 aligned bytes of vD with tag 00, plain or release. -/
  | vst (d : BitVec 5) (a : BitVec 5) (q : BitVec 1) (f : BitVec 11)
  /-- VLD_MASKED, R153. Loads only the active elements of vD from gA. -/
  | vldMasked (d : BitVec 5) (a : BitVec 5) (k : BitVec 3) (t : BitVec 4)
  /-- VST_MASKED, R153. Stores only the active elements of vD by byte enables. -/
  | vstMasked (d : BitVec 5) (a : BitVec 5) (k : BitVec 3) (t : BitVec 4)
  /-- VGATHER, R154. Loads each active element from gA plus its offset in vB. -/
  | vgather (d : BitVec 5) (a : BitVec 5) (b : BitVec 5) (k : BitVec 3) (t : BitVec 4)
  /-- VSCATTER, R154. Stores each active element to gA plus its offset in vB in ascending order. -/
  | vscatter (d : BitVec 5) (a : BitVec 5) (b : BitVec 5) (k : BitVec 3) (t : BitVec 4)
  /-- VAADD, R155. Posts atomic adds of the active elements of vB, one packet per line. -/
  | vaadd (a : BitVec 5) (b : BitVec 5) (k : BitVec 3) (t : BitVec 4)
  /-- VAMIN, R155. Posts atomic minimums of the active elements of vB. -/
  | vamin (a : BitVec 5) (b : BitVec 5) (k : BitVec 3) (t : BitVec 4)
  /-- VAMAX, R155. Posts atomic maximums of the active elements of vB. -/
  | vamax (a : BitVec 5) (b : BitVec 5) (k : BitVec 3) (t : BitVec 4)
  /-- VAAND, R155. Posts atomic ANDs of the active elements of vB. -/
  | vaand (a : BitVec 5) (b : BitVec 5) (k : BitVec 3) (t : BitVec 4)
  /-- VAOR, R155. Posts atomic ORs of the active elements of vB. -/
  | vaor (a : BitVec 5) (b : BitVec 5) (k : BitVec 3) (t : BitVec 4)
  /-- VAXOR, R155. Posts atomic XORs of the active elements of vB. -/
  | vaxor (a : BitVec 5) (b : BitVec 5) (k : BitVec 3) (t : BitVec 4)
  /-- FENCE, R307. Waits until the named kinds of earlier accesses in the scope have performed; sys scope also raises deferred remote faults. -/
  | fence (k : BitVec 2) (c : BitVec 3)
  /-- PUB, R311. Walks and publishes every object reachable from gA, then release-stores the root at gB. -/
  | pub (a : BitVec 5) (b : BitVec 5)
  /-- ZLINE, R156. Zeroes a 128-byte line at its home with tags 00 and empty states, waiting for acknowledgement. -/
  | zline (a : BitVec 5)
  /-- FLUSH, R156. Writes a dirty cached copy of the line back to its home. -/
  | flush (a : BitVec 5)
  /-- PREF, R156. Hints that the line be brought toward the issuing cluster. -/
  | pref (a : BitVec 5)
  /-- LDK, R151. Loads an aligned dword into mask kD. -/
  | ldk (d : BitVec 3) (a : BitVec 5) (q : BitVec 1) (f : BitVec 11)
  /-- VADD, R113. Adds active float elements with one rounding in the given mode. -/
  | vadd (d : BitVec 5) (a : BitVec 5) (b : BitVec 5) (k : BitVec 3) (m : BitVec 2) (t : BitVec 4)
  /-- VSUB, R113. Subtracts active float elements with one rounding. -/
  | vsub (d : BitVec 5) (a : BitVec 5) (b : BitVec 5) (k : BitVec 3) (m : BitVec 2) (t : BitVec 4)
  /-- VMUL, R113. Multiplies active float elements with one rounding. -/
  | vmul (d : BitVec 5) (a : BitVec 5) (b : BitVec 5) (k : BitVec 3) (m : BitVec 2) (t : BitVec 4)
  /-- VDIV, R113. Divides active float elements with one rounding. -/
  | vdiv (d : BitVec 5) (a : BitVec 5) (b : BitVec 5) (k : BitVec 3) (m : BitVec 2) (t : BitVec 4)
  /-- VFMA, R114. vD := d + a × b rounded once. -/
  | vfma (d : BitVec 5) (a : BitVec 5) (b : BitVec 5) (k : BitVec 3) (m : BitVec 2) (t : BitVec 4)
  /-- VFMS, R114. vD := d - a × b rounded once. -/
  | vfms (d : BitVec 5) (a : BitVec 5) (b : BitVec 5) (k : BitVec 3) (m : BitVec 2) (t : BitVec 4)
  /-- VFNMA, R114. vD := -(d + a × b) rounded once. -/
  | vfnma (d : BitVec 5) (a : BitVec 5) (b : BitVec 5) (k : BitVec 3) (m : BitVec 2) (t : BitVec 4)
  /-- VFNMS, R114. vD := a × b - d rounded once. -/
  | vfnms (d : BitVec 5) (a : BitVec 5) (b : BitVec 5) (k : BitVec 3) (m : BitVec 2) (t : BitVec 4)
  /-- VMIN, R115. Element-wise minimum with the float NaN rules. -/
  | vmin (d : BitVec 5) (a : BitVec 5) (b : BitVec 5) (k : BitVec 3) (t : BitVec 4)
  /-- VMAX, R115. Element-wise maximum with the float NaN rules. -/
  | vmax (d : BitVec 5) (a : BitVec 5) (b : BitVec 5) (k : BitVec 3) (t : BitVec 4)
  /-- VABS, R115. Element-wise absolute value. -/
  | vabs (d : BitVec 5) (a : BitVec 5) (k : BitVec 3) (t : BitVec 4)
  /-- VNEG, R115. Element-wise negation. -/
  | vneg (d : BitVec 5) (a : BitVec 5) (k : BitVec 3) (t : BitVec 4)
  /-- VCMP_EQ, R116. Writes kD bit i when element i of vA equals that of vB. -/
  | vcmpEq (d : BitVec 3) (a : BitVec 5) (b : BitVec 5) (k : BitVec 3) (t : BitVec 4)
  /-- VCMP_NE, R116. Vector not-equal compare into kD. -/
  | vcmpNe (d : BitVec 3) (a : BitVec 5) (b : BitVec 5) (k : BitVec 3) (t : BitVec 4)
  /-- VCMP_LT, R116. Vector less-than compare into kD. -/
  | vcmpLt (d : BitVec 3) (a : BitVec 5) (b : BitVec 5) (k : BitVec 3) (t : BitVec 4)
  /-- VCMP_LE, R116. Vector less-or-equal compare into kD. -/
  | vcmpLe (d : BitVec 3) (a : BitVec 5) (b : BitVec 5) (k : BitVec 3) (t : BitVec 4)
  /-- VCMP_UN, R116. Vector unordered compare into kD. -/
  | vcmpUn (d : BitVec 3) (a : BitVec 5) (b : BitVec 5) (k : BitVec 3) (t : BitVec 4)
  /-- VEXP2, R117. Correctly rounded 2^x per active element. -/
  | vexp2 (d : BitVec 5) (a : BitVec 5) (k : BitVec 3) (m : BitVec 2) (t : BitVec 4)
  /-- VLOG2, R117. Correctly rounded log2 x per active element. -/
  | vlog2 (d : BitVec 5) (a : BitVec 5) (k : BitVec 3) (m : BitVec 2) (t : BitVec 4)
  /-- VRCP, R117. Correctly rounded 1/x per active element. -/
  | vrcp (d : BitVec 5) (a : BitVec 5) (k : BitVec 3) (m : BitVec 2) (t : BitVec 4)
  /-- VRSQ, R117. Correctly rounded 1/sqrt x per active element. -/
  | vrsq (d : BitVec 5) (a : BitVec 5) (k : BitVec 3) (m : BitVec 2) (t : BitVec 4)
  /-- VRSUM, R118. Sums the active elements in order into element 0, zeroing the rest. -/
  | vrsum (d : BitVec 5) (a : BitVec 5) (k : BitVec 3) (t : BitVec 4)
  /-- VRMAX, R118. Maximum of the active elements into element 0. -/
  | vrmax (d : BitVec 5) (a : BitVec 5) (k : BitVec 3) (t : BitVec 4)
  /-- VRMIN, R118. Minimum of the active elements into element 0. -/
  | vrmin (d : BitVec 5) (a : BitVec 5) (k : BitVec 3) (t : BitVec 4)
  /-- VRAMAX, R118. Largest magnitude of the active elements into element 0. -/
  | vramax (d : BitVec 5) (a : BitVec 5) (k : BitVec 3) (t : BitVec 4)
  /-- VPERM, R119. Permutes elements of vA by the indices in vB. -/
  | vperm (d : BitVec 5) (a : BitVec 5) (b : BitVec 5) (k : BitVec 3) (t : BitVec 4)
  /-- VBCST, R119. Broadcasts element n of vA. -/
  | vbcst (d : BitVec 5) (a : BitVec 5) (n : BitVec 5) (k : BitVec 3) (t : BitVec 4)
  /-- VSHUP, R119. Shifts elements up by n, filling with zero. -/
  | vshup (d : BitVec 5) (a : BitVec 5) (n : BitVec 5) (k : BitVec 3) (t : BitVec 4)
  /-- VSHDN, R119. Shifts elements down by n, filling with zero. -/
  | vshdn (d : BitVec 5) (a : BitVec 5) (n : BitVec 5) (k : BitVec 3) (t : BitVec 4)
  /-- VZIP, R119. Interleaves elements of vA and vB. -/
  | vzip (d : BitVec 5) (a : BitVec 5) (b : BitVec 5) (k : BitVec 3) (t : BitVec 4)
  /-- VUNZIP, R119. De-interleaves even elements of vA and vB. -/
  | vunzip (d : BitVec 5) (a : BitVec 5) (b : BitVec 5) (k : BitVec 3) (t : BitVec 4)
  /-- VCVT, R120. Converts elements from source type S to destination type T. -/
  | vcvt (d : BitVec 5) (a : BitVec 5) (s : BitVec 5) (k : BitVec 3) (m : BitVec 2) (t : BitVec 4)
  /-- VDEC, R121. Decodes byte codes of vA through decode table A or B. -/
  | vdec (d : BitVec 5) (a : BitVec 5) (x : BitVec 1) (k : BitVec 3) (t : BitVec 4)
  /-- VENC, R122. Encodes float elements into byte codes by the seven-step search of a table. -/
  | venc (d : BitVec 5) (a : BitVec 5) (x : BitVec 1) (k : BitVec 3) (t : BitVec 4)
  /-- DTLOAD, R123. Loads 1,024 bytes and swaps a whole decode table in one cycle. -/
  | dtload (x : BitVec 1) (a : BitVec 5)
  /-- VIADD, R124. Integer vector add modulo 2^w. -/
  | viadd (d : BitVec 5) (a : BitVec 5) (b : BitVec 5) (k : BitVec 3) (t : BitVec 4)
  /-- VISUB, R124. Integer vector subtract modulo 2^w. -/
  | visub (d : BitVec 5) (a : BitVec 5) (b : BitVec 5) (k : BitVec 3) (t : BitVec 4)
  /-- VIMUL, R124. Integer vector multiply, low half. -/
  | vimul (d : BitVec 5) (a : BitVec 5) (b : BitVec 5) (k : BitVec 3) (t : BitVec 4)
  /-- VIMULH, R124. Integer vector multiply, high half. -/
  | vimulh (d : BitVec 5) (a : BitVec 5) (b : BitVec 5) (k : BitVec 3) (t : BitVec 4)
  /-- VIAND, R124. Integer vector AND. -/
  | viand (d : BitVec 5) (a : BitVec 5) (b : BitVec 5) (k : BitVec 3) (t : BitVec 4)
  /-- VIOR, R124. Integer vector OR. -/
  | vior (d : BitVec 5) (a : BitVec 5) (b : BitVec 5) (k : BitVec 3) (t : BitVec 4)
  /-- VIXOR, R124. Integer vector XOR. -/
  | vixor (d : BitVec 5) (a : BitVec 5) (b : BitVec 5) (k : BitVec 3) (t : BitVec 4)
  /-- VISLL, R124. Integer vector shift left by element counts. -/
  | visll (d : BitVec 5) (a : BitVec 5) (b : BitVec 5) (k : BitVec 3) (t : BitVec 4)
  /-- VISRL, R124. Integer vector logical shift right. -/
  | visrl (d : BitVec 5) (a : BitVec 5) (b : BitVec 5) (k : BitVec 3) (t : BitVec 4)
  /-- VISRA, R124. Integer vector arithmetic shift right. -/
  | visra (d : BitVec 5) (a : BitVec 5) (b : BitVec 5) (k : BitVec 3) (t : BitVec 4)
  /-- VIADD_SAT, R124. Integer vector saturating add. -/
  | viaddSat (d : BitVec 5) (a : BitVec 5) (b : BitVec 5) (k : BitVec 3) (t : BitVec 4)
  /-- VISUB_SAT, R124. Integer vector saturating subtract. -/
  | visubSat (d : BitVec 5) (a : BitVec 5) (b : BitVec 5) (k : BitVec 3) (t : BitVec 4)
  /-- VINS, R125. Inserts gA into element n of vD. -/
  | vins (d : BitVec 5) (a : BitVec 5) (n : BitVec 5) (t : BitVec 4)
  /-- VEXT, R125. Extracts element n of vA into gD. -/
  | vext (d : BitVec 5) (a : BitVec 5) (n : BitVec 5) (t : BitVec 4)
  /-- VSPLAT, R125. Writes gA into every active element of vD. -/
  | vsplat (d : BitVec 5) (a : BitVec 5) (k : BitVec 3) (t : BitVec 4)
  /-- MXFMT, R160. Sends a format word and a snapshot of the core's decode tables to a matrix unit's format context. -/
  | mxfmt (a : BitVec 5) (b : BitVec 5)
  /-- MZERO, R175. Sends a zero command record that writes +0 to live accumulator outputs. -/
  | mzero (a : BitVec 5)
  /-- MMA, R175. Reads a 64-byte record and sends an mma or eload command to a matrix unit, numbered on tl4. -/
  | mma (a : BitVec 5)
  /-- MMAC, R176. Sends a cooperative command spreading one tile over P partitions. -/
  | mmac (a : BitVec 5)
  /-- MDRAIN, R177. Sends a drain command to gB's target, numbered on tl5. -/
  | mdrain (a : BitVec 5) (b : BitVec 5)
  /-- MBSEND, R186. Fills an empty mailbox with gA, sender slot and strand (release), or reports failure. -/
  | mbsend (n : BitVec 3) (a : BitVec 5) (k : BitVec 3)
  /-- MBTAKE, R187. Empties a full mailbox into gD and c.mbsrc (acquire), or reports failure. -/
  | mbtake (d : BitVec 5) (n : BitVec 3) (k : BitVec 3)
  /-- CAPP, R193. Slot 15 appends up to 64 chain entries to a copy context, resolving their pointers. -/
  | capp (n : BitVec 2) (a : BitVec 5)
  /-- CADV, R194. Makes every entry appended to context n eligible to start. -/
  | cadv (n : BitVec 2)
  /-- WAITTL, R209. Holds the slot until timeline tlN reaches gA, then acquires. -/
  | waittl (n : BitVec 3) (a : BitVec 5)
  /-- WAITLC, R211. Queues the slot on a landing counter until it can subtract gA[31:0]. -/
  | waitlc (n : BitVec 4) (a : BitVec 5)
  /-- WAITM, R212. Watches a line and holds until a write to it performs after the last look. -/
  | waitm (a : BitVec 5)
  /-- KARR, R215. Sends an arrival to knot n (release), recording the phase parity. -/
  | karr (n : BitVec 6)
  /-- KWAIT, R215. Holds until the knot phase of the slot's arrival completes (acquire). -/
  | kwait (n : BitVec 6)
  /-- KARRW, R215. Arrives at knot n and waits for the phase to complete. -/
  | karrw (n : BitVec 6)
  /-- SWEXP, R218. Posts an expectation to a sync word, or arms a join record when gB bit 32 is set. -/
  | swexp (a : BitVec 5) (b : BitVec 5)
  /-- SWADD, R218. Posts an addition to a sync word's count. -/
  | swadd (a : BitVec 5) (b : BitVec 5)
  /-- SWWAIT, R218. Holds until the sync word's generation reaches gB[15:0] (acquire). -/
  | swwait (a : BitVec 5) (b : BitVec 5)
  /-- JADD, R221. Sends one join contribution of gB for party gC[3:0]. -/
  | jadd (c : BitVec 5) (a : BitVec 5) (b : BitVec 5)
  /-- ENQ, R232. Appends a task descriptor to queue q, writing its allowance, or reports a full queue. -/
  | enq (a : BitVec 5) (b : BitVec 5) (k : BitVec 3)
  /-- DEQ, R232. Removes the first live entry of queue q into gD, dropping ended entries it passes. -/
  | deq (d : BitVec 5) (a : BitVec 5) (k : BitVec 3)
  /-- TSPAWN, R232. Writes the spawner's strand, class, stage and hint into a descriptor and enqueues it on the crew's run queue. -/
  | tspawn (a : BitVec 5) (k : BitVec 3)
  /-- HSTART, R230. Starts the lowest free reserved helper slot at gA with argument gB. -/
  | hstart (d : BitVec 5) (a : BitVec 5) (b : BitVec 5)
  /-- HJOIN, R230. Holds until the helper slots named in gA have retired. -/
  | hjoin (a : BitVec 5)
  /-- CUT, R259. Ends strand or ply gA[23:0] on this die and sends the cut along its reach. -/
  | cut (a : BitVec 5)
  /-- PLY, R260. Creates a ply from a 16-byte member list, or returns an error code. -/
  | ply (d : BitVec 5) (a : BitVec 5)
  /-- ALW, R261. Returns the remaining allowance of the slot's strand on this die. -/
  | alw (d : BitVec 5)
  /-- SKFIND, R273. Fills the skein's segment register from the directory and returns its pointer. -/
  | skfind (d : BitVec 5) (a : BitVec 5)
  /-- SKREL, R274. Appends a release directory packet for skein gA to the VF's launch queue. -/
  | skrel (a : BitVec 5)
  /-- SKFLUSH, R275. Writes every share of the skein back to its backing copy and waits. -/
  | skflush (a : BitVec 5)
  /-- SKPIN, R274. Appends a pin directory packet for skein gA to the VF's launch queue. -/
  | skpin (a : BitVec 5)
  /-- SHSEND, R284. Takes a permit and queues a shuttle send of gB[16:0] bytes from gA, or reports no permit. -/
  | shsend (a : BitVec 5) (b : BitVec 5) (k : BitVec 3)
  /-- SHRECV, R285. Takes the next full landing slot, copies its payload to gD and returns its trailer. -/
  | shrecv (d : BitVec 5) (k : BitVec 3)
  /-- SHPERMIT, R286. Reserves up to gA[6:0] free ring slots and sends that many permits. -/
  | shpermit (a : BitVec 5)
  /-- AMSG, R295. Sends a 64-byte active message to the target core's service slot and waits for acceptance. -/
  | amsg (a : BitVec 5) (b : BitVec 5)
  /-- TRAP, R329. Enters the trap handler with cause 0x14 and value n. -/
  | trap (n : BitVec 10)
  /-- ERET, R329. Returns from a trap to c.epc, or ends a slot 13 service. -/
  | eret
  /-- HALT, R329. Holds the slot until its wake latch is 1, then clears it (acquire). -/
  | halt
  /-- BRK, R329. Enters the trap handler with cause 0x12. -/
  | brk
  /-- CSRR, R323. Reads a CSR into gD after the access check. -/
  | csrr (d : BitVec 5) (c : BitVec 8)
  /-- CSRW, R323. Writes gA into the writable fields of a CSR that has no behaviour of its own. -/
  | csrw (a : BitVec 5) (c : BitVec 8)
  /-- SEGW, R339. Privileged write of all 128 bits of segment register sgN. -/
  | segw (n : BitVec 3) (a : BitVec 5) (b : BitVec 5)
  /-- PTBW, R333. Installs or invalidates a position translation buffer entry. -/
  | ptbw (a : BitVec 5) (b : BitVec 5)
  /-- INVT, R336. Marks stale the cached translations of a 2 MiB page on every port and waits for their users to finish. -/
  | invt (a : BitVec 5)
  /-- WAKE, R334. Sends a wake (release) to a target coordinate. -/
  | wake (a : BitVec 5)
  /-- RNDK, R340. Computes a keyed hash of counter gB under key gA. -/
  | rndk (d : BitVec 5) (a : BitVec 5) (b : BitVec 5)
  /-- CLKR, R341. Writes the die's c.now to gD. -/
  | clkr (d : BitVec 5)
  /-- XIMM, R42. Constant prefix whose 26 bits widen the immediate or offset of the following word. -/
  | ximm (x : BitVec 26) (follower : BitVec 32)
  /-- ENOP, R182. Epilogue no-operation. -/
  | enop
  /-- EMUL, R182. Epilogue FP32 multiply of two registers. -/
  | emul (d : BitVec 3) (a : BitVec 3) (b : BitVec 3)
  /-- EADD, R182. Epilogue FP32 add of two registers. -/
  | eadd (d : BitVec 3) (a : BitVec 3) (b : BitVec 3)
  /-- ESCL, R182. Multiplies by the column's word of data memory. -/
  | escl (d : BitVec 3) (a : BitVec 3) (i : BitVec 6)
  /-- EBIAS, R182. Adds the column's word of data memory. -/
  | ebias (d : BitVec 3) (a : BitVec 3) (i : BitVec 6)
  /-- ETAB, R183. Applies a piecewise-linear activation from data memory. -/
  | etab (d : BitVec 3) (a : BitVec 3) (i : BitVec 6)
  /-- ECLMP, R182. Clamps a value between two epilogue registers. -/
  | eclmp (d : BitVec 3) (a : BitVec 3) (b : BitVec 3)
  /-- ECVT, R182. Converts a value to a store format and back to FP32. -/
  | ecvt (d : BitVec 3) (a : BitVec 3) (f : BitVec 3)
  /-- EMAX, R182. Epilogue maximum as vmax. -/
  | emax (d : BitVec 3) (a : BitVec 3) (b : BitVec 3)
  /-- EMIN, R182. Epilogue minimum as vmin. -/
  | emin (d : BitVec 3) (a : BitVec 3) (b : BitVec 3)
  /-- EABSMAX, R182. Keeps the running largest magnitude in e[d]. -/
  | eabsmax (d : BitVec 3) (a : BitVec 3)
  /-- EFLAG, R182. Sets ef from a float condition of two registers. -/
  | eflag (c : BitVec 3) (a : BitVec 3) (b : BitVec 3)
  /-- ESEL, R182. Selects between two registers by ef. -/
  | esel (d : BitVec 3) (a : BitVec 3) (b : BitVec 3)
  /-- ESTORE, R182. Converts a value and writes it into the drain target by byte enables. -/
  | estore (a : BitVec 3) (f : BitVec 3)
  /-- ESKIP, R182. Skips imm6 words when ef is 1. -/
  | eskip (i : BitVec 6)
  /-- EEND, R182. Ends the epilogue program for the element. -/
  | eend
  /-- NFSW_WRITE, R106. A write of c.nfsw sets the flag sync word and clears the posted set. -/
  | nfswWrite
  /-- BANKMODE_WRITE, R131. A write of c.bankmode switches each changed bank through drain, write-back and clearing. -/
  | bankmodeWrite
  /-- PTBCFG_WRITE, R333. A write of c.ptbcfg reconfigures translation, clears every buffer entry and resets the victim pointer. -/
  | ptbcfgWrite
  /-- VMROOT_WRITE, R336. A write of c.vmroot marks every cached translation of the VF stale and completes when their users finish. -/
  | vmrootWrite
  /-- REGION_WRITE, R140. A write of c.region0-3 marks a subpaged range, applied to walks that begin after it. -/
  | regionWrite
  /-- KNOT_WORD_WRITE, R213. A write of a knot word completes its current phase at once, device-wide for device knots. -/
  | knotWordWrite
  /-- SHRX_WRITE, R278. A write of c.shrx waits for in-flight sends, then sets the ring and empties every slot. -/
  | shrxWrite
  /-- SHTX_WRITE, R278. A write of c.shtx waits for in-flight sends and sets permits to 0. -/
  | shtxWrite
  /-- PRDAT_LOST_ACK, R287. Writing 1 to the lost bit of a peer table entry acknowledges peer loss on all eight dies. -/
  | prdatLostAck
  /-- FETCH_BLOCK_DELIVERY, R63. An instruction block arrives from the fetch port and its waiting slots return to the rotation. -/
  | fetchBlockDelivery
  /-- YIELD_RETURN, R90. A yielded slot returns to the rotation after the others issued or 16 cycles pass. -/
  | yieldReturn
  /-- RALIGN_RELEASE, R91. Held ralign slots are released together when peers arrive or the count expires. -/
  | ralignRelease
  /-- LOAD_REPLY, R144. A load reply arrives and is written, returning the slot to the rotation. -/
  | loadReply
  /-- STORE_PERFORM, R296. A store performs at its home after invalidations are acknowledged, with reach, escape and poison checks. -/
  | storePerform
  /-- ATOMIC_PACKET_PERFORM, R144. An atomic packet reads, applies and writes its bytes at the home line as one step. -/
  | atomicPacketPerform
  /-- POSTED_FAULT_RECORD, R293. A refusal of a posted access arrives and fills or marks the slot's remote-fault record. -/
  | postedFaultRecord
  /-- FAULT_RECORD_APPEND, R369. A memory port appends a fault record once the fault queue has room, then advances the tail. -/
  | faultRecordAppend
  /-- SHADOW_SERVICE_START, R331. Slot 13 starts serving the lowest queued slot at its c.tvec, privileged on strand 0. -/
  | shadowServiceStart
  /-- SLOT_RETIRE, R89. An exiting slot retires with DONE once its requests have performed. -/
  | slotRetire
  /-- WAKE_DELIVERY, R334. A wake arrives at a core and releases page-fault holds or sets the wake latch. -/
  | wakeDelivery
  /-- HALT_RETURN, R329. A halted slot returns when its wake latch becomes 1, clearing it. -/
  | haltReturn
  /-- FE_WORD_SERVE, R149. The home serves the oldest ldf or ste waiter when the word becomes full or empty. -/
  | feWordServe
  /-- CHAIN_ENTRY_START, R195. An eligible entry starts in number order, subject to serial and gate. -/
  | chainEntryStart
  /-- COPY_PACKET, R197. The engine moves one 256-byte packet of an entry, with tag 00 writes. -/
  | copyPacket
  /-- CHAIN_ENTRY_COMPLETE, R204. An entry writes status and stamp, updates its sync word and completes its number. -/
  | chainEntryComplete
  /-- WAITTL_SATISFIED, R209. A waittl slot returns when its timeline reaches the awaited number. -/
  | waittlSatisfied
  /-- WAITLC_SERVE, R211. The oldest waiter on a landing counter subtracts its count when enough packets have landed. -/
  | waitlcServe
  /-- WAITM_RETURN, R212. A waitm slot returns after a write to its watched line, or spuriously. -/
  | waitmReturn
  /-- MXFMT_APPLY, R160. The unit writes a format context once the commands naming it have completed. -/
  | mxfmtApply
  /-- MATRIX_COMMAND_ACCEPT, R170. A unit accepts a record and checks op, capability, context, operands and scales in order. -/
  | matrixCommandAccept
  /-- MATRIX_COMMAND_START, R171. The unit starts the highest-class runnable command not blocked by the region interlock. -/
  | matrixCommandStart
  /-- MATRIX_BLOCK_STEP, R166. The array performs one 16-deep K-step of one output block with one rounding per output. -/
  | matrixBlockStep
  /-- DRAIN_ELEMENT, R178. A live output passes through the epilogue program and is written by byte enables. -/
  | drainElement
  /-- MATRIX_COMMAND_COMPLETE, R172. A command delivers its wake, updates its sync word, writes status and completes its number. -/
  | matrixCommandComplete
  /-- SWADD_PERFORM, R218. A swadd adds to a sync word's count at its home and completes generations. -/
  | swaddPerform
  /-- SWEXP_PERFORM, R218. A swexp sets a sync word's target at its home. -/
  | swexpPerform
  /-- JOIN_ARM, R220. An arming swexp resets a join record and registers its parties' strands. -/
  | joinArm
  /-- JADD_PERFORM, R221. A join contribution adds to the sum and marks its party arrived at the home. -/
  | jaddPerform
  /-- SWWAIT_RETURN, R218. A swwait slot returns when the generation reaches its value. -/
  | swwaitReturn
  /-- KNOT_ARRIVAL, R214. An arrival increments a knot's count and completes the phase at need. -/
  | knotArrival
  /-- DEVICE_KNOT_COMPLETE, R214. A device knot completes when every participating die has counted its need, flipping P on all dies. -/
  | deviceKnotComplete
  /-- KWAIT_RELEASE, R215. A waiting member returns once its knot's parity has flipped. -/
  | kwaitRelease
  /-- LOOM_TERM_FIRE, R224. A term whose counters reach their thresholds fires, subtracts them and pulses its start lines. -/
  | loomTermFire
  /-- LAUNCH_PORT_TAKE, R368. The launch port takes the first ready submission head into the launch queue with a new id. -/
  | launchPortTake
  /-- LAUNCH_DISTRIBUTE, R227. Each die checks a queued launch packet, applies its skeins and places its crews by hash. -/
  | launchDistribute
  /-- SKEIN_EVICTION, R268. A victim skein is written back to its backing copy after its attachments end, freeing space. -/
  | skeinEviction
  /-- SKEIN_RESTORE_COMPLETE, R268. Every share of a restored skein has been read from its backing copy, releasing waiting crews. -/
  | skeinRestoreComplete
  /-- DIRECTORY_PACKET_APPLY, R274. A die applies a pin or release directory packet in queue order. -/
  | directoryPacketApply
  /-- STAGE_MAP_APPLY, R238. A die reads a stage-map packet and applies it to later packets. -/
  | stageMapApply
  /-- CREW_START, R228. A crew starts its control contexts once enough cores have the needed slots free. -/
  | crewStart
  /-- RETIREMENT_NOTICE, R269. A die's notice that a launch's crews retired ends attachments and skein waits on other dies. -/
  | retirementNotice
  /-- TASK_DISPATCH, R235. A landing slot starts the oldest prefetched entry as a task with the launch's segments. -/
  | taskDispatch
  /-- QUEUE_PREFETCH, R233. A free prefetch place fetches the first entry for the core's landing slots. -/
  | queuePrefetch
  /-- APPORTION_RECOMPUTE, R234. Every 65,536 cycles the arbiter recomputes the landing slot shares of the queues. -/
  | apportionRecompute
  /-- CLASS_PREEMPT, R236. A ready entry of higher class displaces the lowest-class latest-expiry task. -/
  | classPreempt
  /-- DISPLACED_TASK_RESUME, R236. A displaced task resumes on its slot once that slot is free and owned by its queue. -/
  | displacedTaskResume
  /-- LOAD_LEVEL, R237. Every 4,096 cycles the leveller re-hints entries from a busy cluster to its less loaded neighbour. -/
  | loadLevel
  /-- STRAND_EXPIRY, R247. A live strand entry ends when c.now reaches its expiry, annulling its work. -/
  | strandExpiry
  /-- STRAND_ENTRY_FREE, R247. An ended entry is freed 1,000,000 ns after it ended. -/
  | strandEntryFree
  /-- CUT_ARRIVAL, R254. A cut reaching a die ends the matching entry and forwards the cut along its reach. -/
  | cutArrival
  /-- PACKET_INGRESS, R249. An arriving request packet is dropped for an ended strand or zero allowance, else accepted. -/
  | packetIngress
  /-- SHUTTLE_SEND_TRANSMIT, R281. The send at the head of the cluster's queue begins transmission. -/
  | shuttleSendTransmit
  /-- SHUTTLE_PAYLOAD_PACKET, R281. One 256-byte payload packet moves to landing slot wr. -/
  | shuttlePayloadPacket
  /-- SHUTTLE_TRAILER_WRITE, R281. After the payload performs, the trailer is written and the ring counts advance. -/
  | shuttleTrailerWrite
  /-- SHUTTLE_SEND_COMPLETE, R281. The receiver acknowledges the trailer and the send's tl6 number completes. -/
  | shuttleSendComplete
  /-- PERMIT_ARRIVAL, R280. Granted permits reach the sending cluster or are returned to the receiver. -/
  | permitArrival
  /-- SHRECV_COPY_DONE, R285. The landing slot's payload has been copied, freeing the slot and returning the trailer. -/
  | shrecvCopyDone
  /-- PEER_REQUEST_ARRIVAL, R290. A peer request is checked against incarnations and performed or answered peer lost. -/
  | peerRequestArrival
  /-- PEER_LOST_ANSWER, R291. A peer lost answer marks the entry lost and completes outstanding requests as lost. -/
  | peerLostAnswer
  /-- PEER_TIMEOUT, R291. A peer request unanswered after 50 µs marks the device lost. -/
  | peerTimeout
  /-- PEER_PORT_DOWN, R292. A failed peer port holds new traffic until its outstanding requests end, then reroutes. -/
  | peerPortDown
  /-- ACTIVE_MESSAGE_START, R294. Slot 14 starts the next queued message's handler with its dwords in g1-g8. -/
  | activeMessageStart
  /-- XCLUSTER_ACCESS, R294. The service slot's port performs an xcluster access on local memory without running code. -/
  | xclusterAccess
  /-- AMSG_ACCEPT, R295. The target's acceptance or refusal of an active message releases the sender. -/
  | amsgAccept
  /-- WALK_VISIT, R312. The walker visits one object, marks its references, writes it back and publishes it. -/
  | walkVisit
  /-- WALK_ROOT_STORE, R311. After the walk, the root is release-stored with bit 60 and tl7 completes. -/
  | walkRootStore
  /-- INVT_COMPLETE, R336. Once stale translations have no users, they are dropped and invt returns. -/
  | invtComplete
  /-- REPLY_PENDING_WRITE, R342. A reply of an atomic marked reply pending is written into the saved record. -/
  | replyPendingWrite
  /-- PREEMPT_REQUEST, R370. Writing 1 to preempt bit 0 requests a VF pre-emption or is refused. -/
  | preemptRequest
  /-- VF_SAVE_COMPLETE, R345. Every record of the VF has been saved and the saved bit is set. -/
  | vfSaveComplete
  /-- RESUME, R370. Writing 1 to resume restores a saved VF and restarts its launch port. -/
  | resume
  /-- DOORBELL, R368. A doorbell write makes the launch port recheck a submission ring head. -/
  | doorbell
  /-- VF_REGISTER_WRITE, R366. A host write to a VF register with no behaviour of its own sets ring and queue locations. -/
  | vfRegisterWrite
  /-- BIAS_FLIP, R365. A write to the bias register drains and invalidates the losing side and flips a page's bias. -/
  | biasFlip
  /-- BACK_INVALIDATION_RETRY, R365. A back-invalidation colliding with a host request is retried after the host request completes. -/
  | backInvalidationRetry
  /-- SPDM_REQUEST, R375. An SPDM request over the DOE mailbox is answered with signed measurements. -/
  | spdmRequest
  /-- IDLE_ENTRY, R372. An idle device enters the deepest wake depth allowed by the latency tolerances. -/
  | idleEntry
  /-- WAKE_FROM_IDLE, R372. A doorbell, request, expiry or ring write wakes the device from its depth. -/
  | wakeFromIdle
  /-- POWER_CAP_THROTTLE, R22. On KQD8-M14 the measured draw reaching 1,400 W lowers the die clocks. -/
  | powerCapThrottle
  /-- POWER_ON_BOOT, R373. The boot ROM runs the start-up steps in order, logging each. -/
  | powerOnBoot
  /-- ECC_UNCORRECTABLE, R338. An uncorrectable error poisons the memory word, refetches a cache block or fails a matrix command. -/
  | eccUncorrectable
  /-- AGENT_DEATH_POISON, R137. An agent dying with the only modified copy of a line makes the directory poison the line. -/
  | agentDeathPoison
  /-- CARRIED_EXPIRY_DROP, R249. A plain memory packet held by a page fault at a memory port is dropped when its carried expiry passes on that port's die. -/
  | carriedExpiryDrop
  /-- INBOUND_HOST_REQUEST, R365. A host read or write of device memory arrives over the host link and is served under the page's bias. -/
  | inboundHostRequest
  /-- THROTTLING_END, R22. On KQD8-M14 the die clocks return to 1.7 GHz once the measured draw is back below the 1,400 W cap. -/
  | throttlingEnd
  /-- SKFLUSH_COMPLETE, R275. The share controllers' write-backs to the backing copies have all performed, and the flushing slot returns to the rotation with an acquire. -/
  | skflushComplete
  /-- SHARED_LINE_DROP, R136. A cluster cache silently drops a clean shared line, leaving the directory with a stale sharer. -/
  | sharedLineDrop
  deriving DecidableEq, Repr

end Sys2Proof
end

