-- ==== Sys2Proof/WellFormed.lean ====
section
/-! DEFINITION. Which terms of `Instr` are instructions: the field rules of R37, R39, R41, R44 and of the rows of R47 to
R54 that the formats alone do not say. -/
namespace Sys2Proof

/-- n(T) of R41: elements per vector register. -/
def elemCount (t : BitVec 4) : Nat :=
  match t.toNat with
  | 0 | 3 | 4 => 16
  | 1 | 2 | 5 | 6 => 32
  | 7 | 8 => 64
  | 9 => 8
  | _ => 0

/-- ty 0 to 9 (R41). -/
def tyAny (t : BitVec 4) : Bool := t.toNat ≤ 9
/-- The float types (R41). -/
def tyFloat (t : BitVec 4) : Bool := t.toNat ≤ 2
/-- The integer types (R41). -/
def tyInt (t : BitVec 4) : Bool := 3 ≤ t.toNat && t.toNat ≤ 9

/-- A mask destination is not k0 (R37). -/
def maskDest (k : BitVec 3) : Bool := k != 0

/-- The CSR numbers of R321. -/
def csrKnown (c : BitVec 8) : Bool :=
  let n := c.toNat
  n ≤ 0x11 || (0x40 ≤ n && n ≤ 0x44) || (0x60 ≤ n && n ≤ 0x67) || (0x80 ≤ n && n ≤ 0x8C)
    || (0xA0 ≤ n && n ≤ 0xA4) || (0xC0 ≤ n && n ≤ 0xC8)

/-- Every field of the term has a value that its row allows. -/
def Instr.wf : Instr → Bool
  | .cmpEq d .. | .cmpNe d .. | .cmpLt d .. | .cmpGe d .. | .cmpLtu d .. | .cmpGeu d .. => maskDest d
  | .kand d .. | .kor d .. | .kxor d .. | .kandn d .. | .kmov d .. | .gtok d .. => maskDest d
  | .cmpiEq k .. | .cmpiNe k .. | .cmpiLt k .. | .cmpiGe k .. => maskDest k
  | .ld _ _ z _ _ => z.toNat ≤ 6
  | .st _ _ z _ _ => z.toNat % 2 = 0
  | .ldf _ _ z _ => z.toNat ≤ 2
  | .aswp _ _ _ t _ | .aadd _ _ _ t _ | .aand _ _ _ t _ | .aor _ _ _ t _ | .axor _ _ _ t _ => t != 3
  | .amin _ _ _ t _ | .amax _ _ _ t _ | .aminu _ _ _ t _ | .amaxu _ _ _ t _ | .cas _ _ _ t _ => t != 3
  | .vldMasked _ _ _ t | .vstMasked _ _ _ t | .vgather _ _ _ _ t | .vscatter _ _ _ _ t => tyAny t
  | .vaadd _ _ _ t | .vamin _ _ _ t | .vamax _ _ _ t => tyAny t
  | .vaand _ _ _ t | .vaor _ _ _ t | .vaxor _ _ _ t => tyInt t
  | .fence k c => k != 0 && c.toNat ≤ 4
  | .ldk d .. => maskDest d
  | .vadd _ _ _ _ _ t | .vsub _ _ _ _ _ t | .vmul _ _ _ _ _ t | .vdiv _ _ _ _ _ t => tyFloat t
  | .vfma _ _ _ _ _ t | .vfms _ _ _ _ _ t | .vfnma _ _ _ _ _ t | .vfnms _ _ _ _ _ t => tyFloat t
  | .vmin _ _ _ _ t | .vmax _ _ _ _ t | .vabs _ _ _ t | .vneg _ _ _ t => tyAny t
  | .vcmpEq d _ _ _ t | .vcmpNe d _ _ _ t | .vcmpLt d _ _ _ t | .vcmpLe d _ _ _ t => maskDest d && tyAny t
  | .vcmpUn d _ _ _ t => maskDest d && tyFloat t
  | .vexp2 _ _ _ _ t | .vlog2 _ _ _ _ t | .vrcp _ _ _ _ t | .vrsq _ _ _ _ t => tyFloat t
  | .vrsum _ _ _ t | .vrmax _ _ _ t | .vrmin _ _ _ t | .vramax _ _ _ t => tyAny t
  | .vperm _ _ _ _ t | .vzip _ _ _ _ t | .vunzip _ _ _ _ t => tyAny t
  | .vbcst _ _ n _ t | .vshup _ _ n _ t | .vshdn _ _ n _ t => tyAny t && n.toNat < elemCount t
  | .vcvt _ _ s _ _ t => tyAny t && s.toNat ≤ 9
  | .vdec _ _ _ _ t | .venc _ _ _ _ t => tyFloat t
  | .viadd _ _ _ _ t | .visub _ _ _ _ t | .vimul _ _ _ _ t | .vimulh _ _ _ _ t => tyInt t
  | .viand _ _ _ _ t | .vior _ _ _ _ t | .vixor _ _ _ _ t => tyInt t
  | .visll _ _ _ _ t | .visrl _ _ _ _ t | .visra _ _ _ _ t => tyInt t
  | .viaddSat _ _ _ _ t | .visubSat _ _ _ _ t => tyInt t
  | .vins _ _ n t | .vext _ _ n t => tyAny t && n.toNat < elemCount t
  | .vsplat _ _ _ t => tyAny t
  | .mbsend _ _ k | .mbtake _ _ k => maskDest k
  | .karr n | .kwait n | .karrw n => n.toNat < 40
  | .enq _ _ k | .deq _ _ k | .tspawn _ k => maskDest k
  | .shsend _ _ k | .shrecv _ k => maskDest k
  | .csrr _ c => csrKnown c
  | .csrw _ c => csrKnown c
  | .ximm x _ => x != 0x3FFFFFF
  | .ecvt _ _ f | .estore _ f => f != 7
  | .eflag c _ _ => c != 7
  | _ => true

end Sys2Proof
end

