-- ==== Sys2Proof/Decode.lean ====
section
/-! DEFINITION. The decoder, total on any bytes and rejecting by name (R36 to R54, R44), and after it the encoder, both
from the encoding tables of spec/03_formats.md and spec/opcode_table.json. -/
namespace Sys2Proof

/-- The field of `len` bits at bit `lo` (R2). -/
def fld {n : Nat} (w : BitVec n) (lo len : Nat) : BitVec len := w.extractLsb' lo len

/-- Major opcode 0x01 (R46). -/
def group01 (w : Word) : Option Instr :=
  if fld w 0 8 == 0x0 then some (.add (fld w 21 5) (fld w 16 5) (fld w 11 5) (fld w 8 3))
  else if fld w 0 8 == 0x1 then some (.sub (fld w 21 5) (fld w 16 5) (fld w 11 5) (fld w 8 3))
  else if fld w 0 8 == 0x2 then some (.and (fld w 21 5) (fld w 16 5) (fld w 11 5) (fld w 8 3))
  else if fld w 0 8 == 0x3 then some (.or (fld w 21 5) (fld w 16 5) (fld w 11 5) (fld w 8 3))
  else if fld w 0 8 == 0x4 then some (.xor (fld w 21 5) (fld w 16 5) (fld w 11 5) (fld w 8 3))
  else if fld w 0 8 == 0x5 then some (.andn (fld w 21 5) (fld w 16 5) (fld w 11 5) (fld w 8 3))
  else if fld w 0 8 == 0x6 then some (.orn (fld w 21 5) (fld w 16 5) (fld w 11 5) (fld w 8 3))
  else if fld w 0 8 == 0x8 then some (.addSat (fld w 21 5) (fld w 16 5) (fld w 11 5) (fld w 8 3))
  else if fld w 0 8 == 0x9 then some (.subSat (fld w 21 5) (fld w 16 5) (fld w 11 5) (fld w 8 3))
  else if fld w 0 8 == 0xA then some (.addZsat (fld w 21 5) (fld w 16 5) (fld w 11 5) (fld w 8 3))
  else if fld w 0 8 == 0xB then some (.subZsat (fld w 21 5) (fld w 16 5) (fld w 11 5) (fld w 8 3))
  else none

/-- Major opcode 0x02 (R46). -/
def group02 (w : Word) : Option Instr :=
  if fld w 0 8 == 0x0 then some (.mul (fld w 21 5) (fld w 16 5) (fld w 11 5) (fld w 8 3))
  else if fld w 0 8 == 0x1 then some (.mulh (fld w 21 5) (fld w 16 5) (fld w 11 5) (fld w 8 3))
  else if fld w 0 8 == 0x2 then some (.mulhz (fld w 21 5) (fld w 16 5) (fld w 11 5) (fld w 8 3))
  else if fld w 0 8 == 0x3 then some (.mulSat (fld w 21 5) (fld w 16 5) (fld w 11 5) (fld w 8 3))
  else if fld w 0 8 == 0x4 then some (.div (fld w 21 5) (fld w 16 5) (fld w 11 5) (fld w 8 3))
  else if fld w 0 8 == 0x5 then some (.divz (fld w 21 5) (fld w 16 5) (fld w 11 5) (fld w 8 3))
  else if fld w 0 8 == 0x6 then some (.rem (fld w 21 5) (fld w 16 5) (fld w 11 5) (fld w 8 3))
  else if fld w 0 8 == 0x7 then some (.remz (fld w 21 5) (fld w 16 5) (fld w 11 5) (fld w 8 3))
  else none

/-- Major opcode 0x03 (R46). -/
def group03 (w : Word) : Option Instr :=
  if fld w 0 8 == 0x0 then some (.sll (fld w 21 5) (fld w 16 5) (fld w 11 5) (fld w 8 3))
  else if fld w 0 8 == 0x1 then some (.srl (fld w 21 5) (fld w 16 5) (fld w 11 5) (fld w 8 3))
  else if fld w 0 8 == 0x2 then some (.sra (fld w 21 5) (fld w 16 5) (fld w 11 5) (fld w 8 3))
  else if fld w 0 8 == 0x3 then some (.ror (fld w 21 5) (fld w 16 5) (fld w 11 5) (fld w 8 3))
  else if fld w 11 5 == 0x0 && fld w 0 8 == 0x4 then some (.clz (fld w 21 5) (fld w 16 5) (fld w 8 3))
  else if fld w 11 5 == 0x0 && fld w 0 8 == 0x5 then some (.ctz (fld w 21 5) (fld w 16 5) (fld w 8 3))
  else if fld w 11 5 == 0x0 && fld w 0 8 == 0x6 then some (.pcnt (fld w 21 5) (fld w 16 5) (fld w 8 3))
  else if fld w 11 5 == 0x0 && fld w 0 8 == 0x7 then some (.brev (fld w 21 5) (fld w 16 5) (fld w 8 3))
  else if fld w 11 5 == 0x0 && fld w 0 8 == 0x8 then some (.bswap (fld w 21 5) (fld w 16 5) (fld w 8 3))
  else none

/-- Major opcode 0x04 (R46). -/
def group04 (w : Word) : Option Instr :=
  if fld w 24 2 == 0x0 && fld w 0 8 == 0x0 then some (.cmpEq (fld w 21 3) (fld w 16 5) (fld w 11 5) (fld w 8 3))
  else if fld w 24 2 == 0x0 && fld w 0 8 == 0x1 then some (.cmpNe (fld w 21 3) (fld w 16 5) (fld w 11 5) (fld w 8 3))
  else if fld w 24 2 == 0x0 && fld w 0 8 == 0x2 then some (.cmpLt (fld w 21 3) (fld w 16 5) (fld w 11 5) (fld w 8 3))
  else if fld w 24 2 == 0x0 && fld w 0 8 == 0x3 then some (.cmpGe (fld w 21 3) (fld w 16 5) (fld w 11 5) (fld w 8 3))
  else if fld w 24 2 == 0x0 && fld w 0 8 == 0x4 then some (.cmpLtu (fld w 21 3) (fld w 16 5) (fld w 11 5) (fld w 8 3))
  else if fld w 24 2 == 0x0 && fld w 0 8 == 0x5 then some (.cmpGeu (fld w 21 3) (fld w 16 5) (fld w 11 5) (fld w 8 3))
  else if fld w 24 2 == 0x0 && fld w 19 2 == 0x0 && fld w 14 2 == 0x0 && fld w 0 8 == 0x8 then some (.kand (fld w 21 3) (fld w 16 3) (fld w 11 3) (fld w 8 3))
  else if fld w 24 2 == 0x0 && fld w 19 2 == 0x0 && fld w 14 2 == 0x0 && fld w 0 8 == 0x9 then some (.kor (fld w 21 3) (fld w 16 3) (fld w 11 3) (fld w 8 3))
  else if fld w 24 2 == 0x0 && fld w 19 2 == 0x0 && fld w 14 2 == 0x0 && fld w 0 8 == 0xA then some (.kxor (fld w 21 3) (fld w 16 3) (fld w 11 3) (fld w 8 3))
  else if fld w 24 2 == 0x0 && fld w 19 2 == 0x0 && fld w 14 2 == 0x0 && fld w 0 8 == 0xB then some (.kandn (fld w 21 3) (fld w 16 3) (fld w 11 3) (fld w 8 3))
  else if fld w 24 2 == 0x0 && fld w 19 2 == 0x0 && fld w 11 5 == 0x0 && fld w 0 8 == 0xC then some (.kmov (fld w 21 3) (fld w 16 3) (fld w 8 3))
  else if fld w 24 2 == 0x0 && fld w 11 5 == 0x0 && fld w 0 8 == 0xD then some (.gtok (fld w 21 3) (fld w 16 5) (fld w 8 3))
  else if fld w 19 2 == 0x0 && fld w 11 5 == 0x0 && fld w 0 8 == 0xE then some (.ktog (fld w 21 5) (fld w 16 3) (fld w 8 3))
  else none

/-- Major opcode 0x05 (R46). -/
def group05 (w : Word) : Option Instr :=
  if fld w 0 8 == 0x0 then some (.sel (fld w 21 5) (fld w 16 5) (fld w 11 5) (fld w 8 3))
  else if fld w 11 5 == 0x0 && fld w 0 8 == 0x1 then some (.sext8 (fld w 21 5) (fld w 16 5) (fld w 8 3))
  else if fld w 11 5 == 0x0 && fld w 0 8 == 0x2 then some (.sext16 (fld w 21 5) (fld w 16 5) (fld w 8 3))
  else if fld w 11 5 == 0x0 && fld w 0 8 == 0x3 then some (.sext32 (fld w 21 5) (fld w 16 5) (fld w 8 3))
  else if fld w 11 5 == 0x0 && fld w 0 8 == 0x4 then some (.zext8 (fld w 21 5) (fld w 16 5) (fld w 8 3))
  else if fld w 11 5 == 0x0 && fld w 0 8 == 0x5 then some (.zext16 (fld w 21 5) (fld w 16 5) (fld w 8 3))
  else if fld w 11 5 == 0x0 && fld w 0 8 == 0x6 then some (.zext32 (fld w 21 5) (fld w 16 5) (fld w 8 3))
  else if fld w 14 2 == 0x0 && fld w 0 8 == 0x7 then some (.mkptr (fld w 21 5) (fld w 16 5) (fld w 11 3) (fld w 8 3))
  else if fld w 11 5 == 0x0 && fld w 0 8 == 0x8 then some (.setp (fld w 21 5) (fld w 16 5) (fld w 8 3))
  else if fld w 11 5 == 0x0 && fld w 0 8 == 0x9 then some (.clrp (fld w 21 5) (fld w 16 5) (fld w 8 3))
  else none

/-- Major opcode 0x08 (R46). -/
def group08 (w : Word) : Option Instr :=
  some (.addi (fld w 21 5) (fld w 16 5) (fld w 0 16))

/-- Major opcode 0x09 (R46). -/
def group09 (w : Word) : Option Instr :=
  some (.andi (fld w 21 5) (fld w 16 5) (fld w 0 16))

/-- Major opcode 0x0A (R46). -/
def group0A (w : Word) : Option Instr :=
  some (.ori (fld w 21 5) (fld w 16 5) (fld w 0 16))

/-- Major opcode 0x0B (R46). -/
def group0B (w : Word) : Option Instr :=
  some (.xori (fld w 21 5) (fld w 16 5) (fld w 0 16))

/-- Major opcode 0x0C (R46). -/
def group0C (w : Word) : Option Instr :=
  if fld w 6 10 == 0x0 then some (.slli (fld w 21 5) (fld w 16 5) (fld w 0 6))
  else if fld w 6 10 == 0x1 then some (.srli (fld w 21 5) (fld w 16 5) (fld w 0 6))
  else if fld w 6 10 == 0x2 then some (.srai (fld w 21 5) (fld w 16 5) (fld w 0 6))
  else if fld w 6 10 == 0x3 then some (.rori (fld w 21 5) (fld w 16 5) (fld w 0 6))
  else none

/-- Major opcode 0x0D (R46). -/
def group0D (w : Word) : Option Instr :=
  if fld w 24 2 == 0x0 then some (.cmpiEq (fld w 21 3) (fld w 16 5) (fld w 0 16))
  else if fld w 24 2 == 0x1 then some (.cmpiNe (fld w 21 3) (fld w 16 5) (fld w 0 16))
  else if fld w 24 2 == 0x2 then some (.cmpiLt (fld w 21 3) (fld w 16 5) (fld w 0 16))
  else if fld w 24 2 == 0x3 then some (.cmpiGe (fld w 21 3) (fld w 16 5) (fld w 0 16))
  else none

/-- Major opcode 0x0E (R46). -/
def group0E (w : Word) : Option Instr :=
  if fld w 16 5 == 0x0 then some (.movhi (fld w 21 5) (fld w 0 16))
  else none

/-- Major opcode 0x0F (R46). -/
def group0F (w : Word) : Option Instr :=
  if fld w 16 5 == 0x0 then some (.movw (fld w 21 5) (fld w 0 16))
  else none

/-- Major opcode 0x10 (R46). -/
def group10 (w : Word) : Option Instr :=
  some (.bc (fld w 23 3) (fld w 22 1) (fld w 0 22))

/-- Major opcode 0x11 (R46). -/
def group11 (w : Word) : Option Instr :=
  some (.call (fld w 23 3) (fld w 22 1) (fld w 0 22))

/-- Major opcode 0x12 (R46). -/
def group12 (w : Word) : Option Instr :=
  if fld w 0 26 == 0x0 then some (.nop)
  else if fld w 21 5 == 0x0 && fld w 11 5 == 0x0 && fld w 0 8 == 0x1 then some (.jr (fld w 16 5) (fld w 8 3))
  else if fld w 21 5 == 0x0 && fld w 11 5 == 0x0 && fld w 0 8 == 0x2 then some (.callr (fld w 16 5) (fld w 8 3))
  else if fld w 0 11 == 0x3 then some (.repf (fld w 22 4) (fld w 16 6) (fld w 13 3) (fld w 11 2))
  else if fld w 0 11 == 0x4 then some (.ralign (fld w 11 15))
  else if fld w 0 26 == 0x5 then some (.exit)
  else if fld w 0 26 == 0x6 then some (.yield)
  else none

/-- Major opcode 0x14 (R46). -/
def group14 (w : Word) : Option Instr :=
  if fld w 12 1 == 0x0 then some (.ld (fld w 21 5) (fld w 16 5) (fld w 13 3) (fld w 11 1) (fld w 0 11))
  else none

/-- Major opcode 0x15 (R46). -/
def group15 (w : Word) : Option Instr :=
  if fld w 12 1 == 0x0 then some (.st (fld w 21 5) (fld w 16 5) (fld w 13 3) (fld w 11 1) (fld w 0 11))
  else none

/-- Major opcode 0x16 (R46). -/
def group16 (w : Word) : Option Instr :=
  if fld w 15 1 == 0x1 && fld w 11 2 == 0x2 then some (.ldf (fld w 21 5) (fld w 16 5) (fld w 13 2) (fld w 0 11))
  else if fld w 15 1 == 0x0 && fld w 11 3 == 0x2 then some (.ste (fld w 21 5) (fld w 16 5) (fld w 14 1) (fld w 0 11))
  else none

/-- Major opcode 0x17 (R46). -/
def group17 (w : Word) : Option Instr :=
  if fld w 4 7 == 0x0 then some (.aswp (fld w 21 5) (fld w 16 5) (fld w 11 5) (fld w 2 2) (fld w 0 2))
  else if fld w 4 7 == 0x1 then some (.aadd (fld w 21 5) (fld w 16 5) (fld w 11 5) (fld w 2 2) (fld w 0 2))
  else if fld w 4 7 == 0x2 then some (.aand (fld w 21 5) (fld w 16 5) (fld w 11 5) (fld w 2 2) (fld w 0 2))
  else if fld w 4 7 == 0x3 then some (.aor (fld w 21 5) (fld w 16 5) (fld w 11 5) (fld w 2 2) (fld w 0 2))
  else if fld w 4 7 == 0x4 then some (.axor (fld w 21 5) (fld w 16 5) (fld w 11 5) (fld w 2 2) (fld w 0 2))
  else if fld w 4 7 == 0x5 then some (.amin (fld w 21 5) (fld w 16 5) (fld w 11 5) (fld w 2 2) (fld w 0 2))
  else if fld w 4 7 == 0x6 then some (.amax (fld w 21 5) (fld w 16 5) (fld w 11 5) (fld w 2 2) (fld w 0 2))
  else if fld w 4 7 == 0x7 then some (.aminu (fld w 21 5) (fld w 16 5) (fld w 11 5) (fld w 2 2) (fld w 0 2))
  else if fld w 4 7 == 0x8 then some (.amaxu (fld w 21 5) (fld w 16 5) (fld w 11 5) (fld w 2 2) (fld w 0 2))
  else if fld w 4 7 == 0x9 then some (.cas (fld w 21 5) (fld w 16 5) (fld w 11 5) (fld w 2 2) (fld w 0 2))
  else none

/-- Major opcode 0x18 (R46). -/
def group18 (w : Word) : Option Instr :=
  if fld w 12 4 == 0x0 then some (.vld (fld w 21 5) (fld w 16 5) (fld w 11 1) (fld w 0 11))
  else if fld w 12 4 == 0x8 then some (.vst (fld w 21 5) (fld w 16 5) (fld w 11 1) (fld w 0 11))
  else none

/-- Major opcode 0x19 (R46). -/
def group19 (w : Word) : Option Instr :=
  if fld w 11 5 == 0x0 && fld w 4 4 == 0x0 then some (.vldMasked (fld w 21 5) (fld w 16 5) (fld w 8 3) (fld w 0 4))
  else if fld w 11 5 == 0x0 && fld w 4 4 == 0x1 then some (.vstMasked (fld w 21 5) (fld w 16 5) (fld w 8 3) (fld w 0 4))
  else if fld w 4 4 == 0x2 then some (.vgather (fld w 21 5) (fld w 16 5) (fld w 11 5) (fld w 8 3) (fld w 0 4))
  else if fld w 4 4 == 0x3 then some (.vscatter (fld w 21 5) (fld w 16 5) (fld w 11 5) (fld w 8 3) (fld w 0 4))
  else if fld w 21 5 == 0x0 && fld w 4 4 == 0x4 then some (.vaadd (fld w 16 5) (fld w 11 5) (fld w 8 3) (fld w 0 4))
  else if fld w 21 5 == 0x0 && fld w 4 4 == 0x5 then some (.vamin (fld w 16 5) (fld w 11 5) (fld w 8 3) (fld w 0 4))
  else if fld w 21 5 == 0x0 && fld w 4 4 == 0x6 then some (.vamax (fld w 16 5) (fld w 11 5) (fld w 8 3) (fld w 0 4))
  else if fld w 21 5 == 0x0 && fld w 4 4 == 0x7 then some (.vaand (fld w 16 5) (fld w 11 5) (fld w 8 3) (fld w 0 4))
  else if fld w 21 5 == 0x0 && fld w 4 4 == 0x8 then some (.vaor (fld w 16 5) (fld w 11 5) (fld w 8 3) (fld w 0 4))
  else if fld w 21 5 == 0x0 && fld w 4 4 == 0x9 then some (.vaxor (fld w 16 5) (fld w 11 5) (fld w 8 3) (fld w 0 4))
  else none

/-- Major opcode 0x1A (R46). -/
def group1A (w : Word) : Option Instr :=
  if fld w 0 21 == 0x0 then some (.fence (fld w 24 2) (fld w 21 3))
  else if fld w 21 5 == 0x0 && fld w 0 11 == 0x1 then some (.pub (fld w 16 5) (fld w 11 5))
  else if fld w 21 5 == 0x0 && fld w 0 16 == 0x2 then some (.zline (fld w 16 5))
  else if fld w 21 5 == 0x0 && fld w 0 16 == 0x3 then some (.flush (fld w 16 5))
  else if fld w 21 5 == 0x0 && fld w 0 16 == 0x4 then some (.pref (fld w 16 5))
  else none

/-- Major opcode 0x1B (R46). -/
def group1B (w : Word) : Option Instr :=
  if fld w 24 2 == 0x0 && fld w 12 4 == 0xC then some (.ldk (fld w 21 3) (fld w 16 5) (fld w 11 1) (fld w 0 11))
  else none

/-- Major opcode 0x1C (R46). -/
def group1C (w : Word) : Option Instr :=
  if fld w 6 2 == 0x0 then some (.vadd (fld w 21 5) (fld w 16 5) (fld w 11 5) (fld w 8 3) (fld w 4 2) (fld w 0 4))
  else if fld w 6 2 == 0x1 then some (.vsub (fld w 21 5) (fld w 16 5) (fld w 11 5) (fld w 8 3) (fld w 4 2) (fld w 0 4))
  else if fld w 6 2 == 0x2 then some (.vmul (fld w 21 5) (fld w 16 5) (fld w 11 5) (fld w 8 3) (fld w 4 2) (fld w 0 4))
  else if fld w 6 2 == 0x3 then some (.vdiv (fld w 21 5) (fld w 16 5) (fld w 11 5) (fld w 8 3) (fld w 4 2) (fld w 0 4))
  else none

/-- Major opcode 0x1D (R46). -/
def group1D (w : Word) : Option Instr :=
  if fld w 6 2 == 0x0 then some (.vfma (fld w 21 5) (fld w 16 5) (fld w 11 5) (fld w 8 3) (fld w 4 2) (fld w 0 4))
  else if fld w 6 2 == 0x1 then some (.vfms (fld w 21 5) (fld w 16 5) (fld w 11 5) (fld w 8 3) (fld w 4 2) (fld w 0 4))
  else if fld w 6 2 == 0x2 then some (.vfnma (fld w 21 5) (fld w 16 5) (fld w 11 5) (fld w 8 3) (fld w 4 2) (fld w 0 4))
  else if fld w 6 2 == 0x3 then some (.vfnms (fld w 21 5) (fld w 16 5) (fld w 11 5) (fld w 8 3) (fld w 4 2) (fld w 0 4))
  else none

/-- Major opcode 0x1E (R46). -/
def group1E (w : Word) : Option Instr :=
  if fld w 4 4 == 0x0 then some (.vmin (fld w 21 5) (fld w 16 5) (fld w 11 5) (fld w 8 3) (fld w 0 4))
  else if fld w 4 4 == 0x1 then some (.vmax (fld w 21 5) (fld w 16 5) (fld w 11 5) (fld w 8 3) (fld w 0 4))
  else if fld w 11 5 == 0x0 && fld w 4 4 == 0x2 then some (.vabs (fld w 21 5) (fld w 16 5) (fld w 8 3) (fld w 0 4))
  else if fld w 11 5 == 0x0 && fld w 4 4 == 0x3 then some (.vneg (fld w 21 5) (fld w 16 5) (fld w 8 3) (fld w 0 4))
  else if fld w 24 2 == 0x0 && fld w 4 4 == 0x4 then some (.vcmpEq (fld w 21 3) (fld w 16 5) (fld w 11 5) (fld w 8 3) (fld w 0 4))
  else if fld w 24 2 == 0x0 && fld w 4 4 == 0x5 then some (.vcmpNe (fld w 21 3) (fld w 16 5) (fld w 11 5) (fld w 8 3) (fld w 0 4))
  else if fld w 24 2 == 0x0 && fld w 4 4 == 0x6 then some (.vcmpLt (fld w 21 3) (fld w 16 5) (fld w 11 5) (fld w 8 3) (fld w 0 4))
  else if fld w 24 2 == 0x0 && fld w 4 4 == 0x7 then some (.vcmpLe (fld w 21 3) (fld w 16 5) (fld w 11 5) (fld w 8 3) (fld w 0 4))
  else if fld w 24 2 == 0x0 && fld w 4 4 == 0x8 then some (.vcmpUn (fld w 21 3) (fld w 16 5) (fld w 11 5) (fld w 8 3) (fld w 0 4))
  else none

/-- Major opcode 0x1F (R46). -/
def group1F (w : Word) : Option Instr :=
  if fld w 11 5 == 0x0 && fld w 6 2 == 0x0 then some (.vexp2 (fld w 21 5) (fld w 16 5) (fld w 8 3) (fld w 4 2) (fld w 0 4))
  else if fld w 11 5 == 0x0 && fld w 6 2 == 0x1 then some (.vlog2 (fld w 21 5) (fld w 16 5) (fld w 8 3) (fld w 4 2) (fld w 0 4))
  else if fld w 11 5 == 0x0 && fld w 6 2 == 0x2 then some (.vrcp (fld w 21 5) (fld w 16 5) (fld w 8 3) (fld w 4 2) (fld w 0 4))
  else if fld w 11 5 == 0x0 && fld w 6 2 == 0x3 then some (.vrsq (fld w 21 5) (fld w 16 5) (fld w 8 3) (fld w 4 2) (fld w 0 4))
  else none

/-- Major opcode 0x20 (R46). -/
def group20 (w : Word) : Option Instr :=
  if fld w 11 5 == 0x0 && fld w 4 4 == 0x0 then some (.vrsum (fld w 21 5) (fld w 16 5) (fld w 8 3) (fld w 0 4))
  else if fld w 11 5 == 0x0 && fld w 4 4 == 0x1 then some (.vrmax (fld w 21 5) (fld w 16 5) (fld w 8 3) (fld w 0 4))
  else if fld w 11 5 == 0x0 && fld w 4 4 == 0x2 then some (.vrmin (fld w 21 5) (fld w 16 5) (fld w 8 3) (fld w 0 4))
  else if fld w 11 5 == 0x0 && fld w 4 4 == 0x3 then some (.vramax (fld w 21 5) (fld w 16 5) (fld w 8 3) (fld w 0 4))
  else none

/-- Major opcode 0x21 (R46). -/
def group21 (w : Word) : Option Instr :=
  if fld w 4 4 == 0x0 then some (.vperm (fld w 21 5) (fld w 16 5) (fld w 11 5) (fld w 8 3) (fld w 0 4))
  else if fld w 4 4 == 0x1 then some (.vbcst (fld w 21 5) (fld w 16 5) (fld w 11 5) (fld w 8 3) (fld w 0 4))
  else if fld w 4 4 == 0x2 then some (.vshup (fld w 21 5) (fld w 16 5) (fld w 11 5) (fld w 8 3) (fld w 0 4))
  else if fld w 4 4 == 0x3 then some (.vshdn (fld w 21 5) (fld w 16 5) (fld w 11 5) (fld w 8 3) (fld w 0 4))
  else if fld w 4 4 == 0x4 then some (.vzip (fld w 21 5) (fld w 16 5) (fld w 11 5) (fld w 8 3) (fld w 0 4))
  else if fld w 4 4 == 0x5 then some (.vunzip (fld w 21 5) (fld w 16 5) (fld w 11 5) (fld w 8 3) (fld w 0 4))
  else none

/-- Major opcode 0x22 (R46). -/
def group22 (w : Word) : Option Instr :=
  if fld w 6 2 == 0x0 then some (.vcvt (fld w 21 5) (fld w 16 5) (fld w 11 5) (fld w 8 3) (fld w 4 2) (fld w 0 4))
  else if fld w 12 4 == 0x0 && fld w 4 4 == 0x4 then some (.vdec (fld w 21 5) (fld w 16 5) (fld w 11 1) (fld w 8 3) (fld w 0 4))
  else if fld w 12 4 == 0x0 && fld w 4 4 == 0x5 then some (.venc (fld w 21 5) (fld w 16 5) (fld w 11 1) (fld w 8 3) (fld w 0 4))
  else if fld w 22 4 == 0x0 && fld w 0 16 == 0x60 then some (.dtload (fld w 21 1) (fld w 16 5))
  else none

/-- Major opcode 0x23 (R46). -/
def group23 (w : Word) : Option Instr :=
  if fld w 4 4 == 0x0 then some (.viadd (fld w 21 5) (fld w 16 5) (fld w 11 5) (fld w 8 3) (fld w 0 4))
  else if fld w 4 4 == 0x1 then some (.visub (fld w 21 5) (fld w 16 5) (fld w 11 5) (fld w 8 3) (fld w 0 4))
  else if fld w 4 4 == 0x2 then some (.vimul (fld w 21 5) (fld w 16 5) (fld w 11 5) (fld w 8 3) (fld w 0 4))
  else if fld w 4 4 == 0x3 then some (.vimulh (fld w 21 5) (fld w 16 5) (fld w 11 5) (fld w 8 3) (fld w 0 4))
  else if fld w 4 4 == 0x4 then some (.viand (fld w 21 5) (fld w 16 5) (fld w 11 5) (fld w 8 3) (fld w 0 4))
  else if fld w 4 4 == 0x5 then some (.vior (fld w 21 5) (fld w 16 5) (fld w 11 5) (fld w 8 3) (fld w 0 4))
  else if fld w 4 4 == 0x6 then some (.vixor (fld w 21 5) (fld w 16 5) (fld w 11 5) (fld w 8 3) (fld w 0 4))
  else if fld w 4 4 == 0x7 then some (.visll (fld w 21 5) (fld w 16 5) (fld w 11 5) (fld w 8 3) (fld w 0 4))
  else if fld w 4 4 == 0x8 then some (.visrl (fld w 21 5) (fld w 16 5) (fld w 11 5) (fld w 8 3) (fld w 0 4))
  else if fld w 4 4 == 0x9 then some (.visra (fld w 21 5) (fld w 16 5) (fld w 11 5) (fld w 8 3) (fld w 0 4))
  else if fld w 4 4 == 0xA then some (.viaddSat (fld w 21 5) (fld w 16 5) (fld w 11 5) (fld w 8 3) (fld w 0 4))
  else if fld w 4 4 == 0xB then some (.visubSat (fld w 21 5) (fld w 16 5) (fld w 11 5) (fld w 8 3) (fld w 0 4))
  else none

/-- Major opcode 0x24 (R46). -/
def group24 (w : Word) : Option Instr :=
  if fld w 4 7 == 0x0 then some (.vins (fld w 21 5) (fld w 16 5) (fld w 11 5) (fld w 0 4))
  else if fld w 4 7 == 0x1 then some (.vext (fld w 21 5) (fld w 16 5) (fld w 11 5) (fld w 0 4))
  else if fld w 11 5 == 0x0 && fld w 4 4 == 0x2 then some (.vsplat (fld w 21 5) (fld w 16 5) (fld w 8 3) (fld w 0 4))
  else none

/-- Major opcode 0x28 (R46). -/
def group28 (w : Word) : Option Instr :=
  if fld w 21 5 == 0x0 && fld w 0 11 == 0x0 then some (.mxfmt (fld w 16 5) (fld w 11 5))
  else if fld w 21 5 == 0x0 && fld w 0 16 == 0x1 then some (.mzero (fld w 16 5))
  else none

/-- Major opcode 0x29 (R46). -/
def group29 (w : Word) : Option Instr :=
  if fld w 21 5 == 0x0 && fld w 0 16 == 0x0 then some (.mma (fld w 16 5))
  else if fld w 21 5 == 0x0 && fld w 0 16 == 0x1 then some (.mmac (fld w 16 5))
  else none

/-- Major opcode 0x2A (R46). -/
def group2A (w : Word) : Option Instr :=
  if fld w 21 5 == 0x0 && fld w 0 11 == 0x0 then some (.mdrain (fld w 16 5) (fld w 11 5))
  else none

/-- Major opcode 0x2C (R46). -/
def group2C (w : Word) : Option Instr :=
  if fld w 24 2 == 0x0 && fld w 11 5 == 0x0 && fld w 0 8 == 0x0 then some (.mbsend (fld w 21 3) (fld w 16 5) (fld w 8 3))
  else if fld w 19 2 == 0x0 && fld w 11 5 == 0x0 && fld w 0 8 == 0x1 then some (.mbtake (fld w 21 5) (fld w 16 3) (fld w 8 3))
  else none

/-- Major opcode 0x2D (R46). -/
def group2D (w : Word) : Option Instr :=
  if fld w 23 3 == 0x0 && fld w 0 16 == 0x0 then some (.capp (fld w 21 2) (fld w 16 5))
  else if fld w 23 3 == 0x0 && fld w 0 21 == 0x1 then some (.cadv (fld w 21 2))
  else none

/-- Major opcode 0x2E (R46). -/
def group2E (w : Word) : Option Instr :=
  if fld w 24 2 == 0x0 && fld w 0 16 == 0x0 then some (.waittl (fld w 21 3) (fld w 16 5))
  else if fld w 25 1 == 0x0 && fld w 0 16 == 0x1 then some (.waitlc (fld w 21 4) (fld w 16 5))
  else if fld w 21 5 == 0x0 && fld w 0 16 == 0x2 then some (.waitm (fld w 16 5))
  else none

/-- Major opcode 0x30 (R46). -/
def group30 (w : Word) : Option Instr :=
  if fld w 0 20 == 0x0 then some (.karr (fld w 20 6))
  else if fld w 0 20 == 0x1 then some (.kwait (fld w 20 6))
  else if fld w 0 20 == 0x2 then some (.karrw (fld w 20 6))
  else none

/-- Major opcode 0x31 (R46). -/
def group31 (w : Word) : Option Instr :=
  if fld w 21 5 == 0x0 && fld w 0 11 == 0x0 then some (.swexp (fld w 16 5) (fld w 11 5))
  else if fld w 21 5 == 0x0 && fld w 0 11 == 0x1 then some (.swadd (fld w 16 5) (fld w 11 5))
  else if fld w 21 5 == 0x0 && fld w 0 11 == 0x2 then some (.swwait (fld w 16 5) (fld w 11 5))
  else if fld w 0 11 == 0x3 then some (.jadd (fld w 21 5) (fld w 16 5) (fld w 11 5))
  else none

/-- Major opcode 0x32 (R46). -/
def group32 (w : Word) : Option Instr :=
  if fld w 21 5 == 0x0 && fld w 0 8 == 0x0 then some (.enq (fld w 16 5) (fld w 11 5) (fld w 8 3))
  else if fld w 11 5 == 0x0 && fld w 0 8 == 0x1 then some (.deq (fld w 21 5) (fld w 16 5) (fld w 8 3))
  else if fld w 21 5 == 0x0 && fld w 11 5 == 0x0 && fld w 0 8 == 0x2 then some (.tspawn (fld w 16 5) (fld w 8 3))
  else none

/-- Major opcode 0x34 (R46). -/
def group34 (w : Word) : Option Instr :=
  if fld w 0 11 == 0x0 then some (.hstart (fld w 21 5) (fld w 16 5) (fld w 11 5))
  else if fld w 21 5 == 0x0 && fld w 0 16 == 0x1 then some (.hjoin (fld w 16 5))
  else none

/-- Major opcode 0x35 (R46). -/
def group35 (w : Word) : Option Instr :=
  if fld w 21 5 == 0x0 && fld w 0 16 == 0x0 then some (.cut (fld w 16 5))
  else if fld w 0 16 == 0x1 then some (.ply (fld w 21 5) (fld w 16 5))
  else if fld w 0 21 == 0x2 then some (.alw (fld w 21 5))
  else none

/-- Major opcode 0x36 (R46). -/
def group36 (w : Word) : Option Instr :=
  if fld w 0 16 == 0x0 then some (.skfind (fld w 21 5) (fld w 16 5))
  else if fld w 21 5 == 0x0 && fld w 0 16 == 0x1 then some (.skrel (fld w 16 5))
  else if fld w 21 5 == 0x0 && fld w 0 16 == 0x2 then some (.skflush (fld w 16 5))
  else if fld w 21 5 == 0x0 && fld w 0 16 == 0x3 then some (.skpin (fld w 16 5))
  else none

/-- Major opcode 0x38 (R46). -/
def group38 (w : Word) : Option Instr :=
  if fld w 21 5 == 0x0 && fld w 0 8 == 0x0 then some (.shsend (fld w 16 5) (fld w 11 5) (fld w 8 3))
  else if fld w 11 10 == 0x0 && fld w 0 8 == 0x1 then some (.shrecv (fld w 21 5) (fld w 8 3))
  else if fld w 21 5 == 0x0 && fld w 0 16 == 0x2 then some (.shpermit (fld w 16 5))
  else none

/-- Major opcode 0x39 (R46). -/
def group39 (w : Word) : Option Instr :=
  if fld w 21 5 == 0x0 && fld w 0 11 == 0x0 then some (.amsg (fld w 16 5) (fld w 11 5))
  else none

/-- Major opcode 0x3C (R46). -/
def group3C (w : Word) : Option Instr :=
  if fld w 0 16 == 0x0 then some (.trap (fld w 16 10))
  else if fld w 0 26 == 0x1 then some (.eret)
  else if fld w 0 26 == 0x2 then some (.halt)
  else if fld w 0 26 == 0x3 then some (.brk)
  else none

/-- Major opcode 0x3D (R46). -/
def group3D (w : Word) : Option Instr :=
  if fld w 16 5 == 0x0 && fld w 0 8 == 0x0 then some (.csrr (fld w 21 5) (fld w 8 8))
  else if fld w 21 5 == 0x0 && fld w 0 8 == 0x1 then some (.csrw (fld w 16 5) (fld w 8 8))
  else if fld w 24 2 == 0x0 && fld w 0 11 == 0x2 then some (.segw (fld w 21 3) (fld w 16 5) (fld w 11 5))
  else if fld w 21 5 == 0x0 && fld w 0 11 == 0x3 then some (.ptbw (fld w 16 5) (fld w 11 5))
  else if fld w 21 5 == 0x0 && fld w 0 16 == 0x4 then some (.invt (fld w 16 5))
  else none

/-- Major opcode 0x3E (R46). -/
def group3E (w : Word) : Option Instr :=
  if fld w 21 5 == 0x0 && fld w 0 16 == 0x0 then some (.wake (fld w 16 5))
  else if fld w 0 11 == 0x1 then some (.rndk (fld w 21 5) (fld w 16 5) (fld w 11 5))
  else if fld w 0 21 == 0x2 then some (.clkr (fld w 21 5))
  else none

/-- The instruction that a word's fields name (R46 to R54), before the checks of `Instr.wf`. A prefix is not read here: it is
one half of a pair (`decodePair`). -/
def rawWord (w : Word) : Option Instr :=
  match (fld w 26 6).toNat with
  | 0x01 => group01 w
  | 0x02 => group02 w
  | 0x03 => group03 w
  | 0x04 => group04 w
  | 0x05 => group05 w
  | 0x08 => group08 w
  | 0x09 => group09 w
  | 0x0A => group0A w
  | 0x0B => group0B w
  | 0x0C => group0C w
  | 0x0D => group0D w
  | 0x0E => group0E w
  | 0x0F => group0F w
  | 0x10 => group10 w
  | 0x11 => group11 w
  | 0x12 => group12 w
  | 0x14 => group14 w
  | 0x15 => group15 w
  | 0x16 => group16 w
  | 0x17 => group17 w
  | 0x18 => group18 w
  | 0x19 => group19 w
  | 0x1A => group1A w
  | 0x1B => group1B w
  | 0x1C => group1C w
  | 0x1D => group1D w
  | 0x1E => group1E w
  | 0x1F => group1F w
  | 0x20 => group20 w
  | 0x21 => group21 w
  | 0x22 => group22 w
  | 0x23 => group23 w
  | 0x24 => group24 w
  | 0x28 => group28 w
  | 0x29 => group29 w
  | 0x2A => group2A w
  | 0x2C => group2C w
  | 0x2D => group2D w
  | 0x2E => group2E w
  | 0x30 => group30 w
  | 0x31 => group31 w
  | 0x32 => group32 w
  | 0x34 => group34 w
  | 0x35 => group35 w
  | 0x36 => group36 w
  | 0x38 => group38 w
  | 0x39 => group39 w
  | 0x3C => group3C w
  | 0x3D => group3D w
  | 0x3E => group3E w
  | _ => none

/-- The epilogue instruction that a 16-bit word names (R182), before the checks of `Instr.wf`. -/
def rawEpi (w : BitVec 16) : Option Instr :=
  match (fld w 12 4).toNat with
  | 0x0 => if fld w 0 12 == 0x0 then some (.enop) else none
  | 0x1 => if fld w 0 3 == 0x0 then some (.emul (fld w 9 3) (fld w 6 3) (fld w 3 3)) else none
  | 0x2 => if fld w 0 3 == 0x0 then some (.eadd (fld w 9 3) (fld w 6 3) (fld w 3 3)) else none
  | 0x3 => some (.escl (fld w 9 3) (fld w 6 3) (fld w 0 6))
  | 0x4 => some (.ebias (fld w 9 3) (fld w 6 3) (fld w 0 6))
  | 0x5 => some (.etab (fld w 9 3) (fld w 6 3) (fld w 0 6))
  | 0x6 => if fld w 0 3 == 0x0 then some (.eclmp (fld w 9 3) (fld w 6 3) (fld w 3 3)) else none
  | 0x7 => if fld w 0 3 == 0x0 then some (.ecvt (fld w 9 3) (fld w 6 3) (fld w 3 3)) else none
  | 0x8 => if fld w 0 3 == 0x0 then some (.emax (fld w 9 3) (fld w 6 3) (fld w 3 3)) else none
  | 0x9 => if fld w 0 3 == 0x0 then some (.emin (fld w 9 3) (fld w 6 3) (fld w 3 3)) else none
  | 0xA => if fld w 0 6 == 0x0 then some (.eabsmax (fld w 9 3) (fld w 6 3)) else none
  | 0xB => if fld w 0 3 == 0x0 then some (.eflag (fld w 9 3) (fld w 6 3) (fld w 3 3)) else none
  | 0xC => if fld w 0 3 == 0x0 then some (.esel (fld w 9 3) (fld w 6 3) (fld w 3 3)) else none
  | 0xD => if fld w 9 3 == 0x0 && fld w 0 3 == 0x0 then some (.estore (fld w 6 3) (fld w 3 3)) else none
  | 0xE => if fld w 6 6 == 0x0 then some (.eskip (fld w 0 6)) else none
  | 0xF => if fld w 0 12 == 0x0 then some (.eend) else none
  | _ => none

/-- Why bytes are not an instruction. -/
inductive DecodeError where
  /-- Fewer bytes than the instruction has. -/
  | short
  /-- An illegal word (R44), with the word that `c.tval` reports (R45). -/
  | illegal (w : Word)
  /-- An epilogue word outside the table of R182. -/
  | illegalEpilogue (w : BitVec 16)
  deriving DecidableEq, Repr

/-- A word that stands alone (R44): a prefix is not one. -/
def decodeWord (w : Word) : Option Instr :=
  match rawWord w with
  | some i => if i.wf then some i else none
  | none => none

/-- A word is a prefix (R42); 0xFFFF_FFFF is illegal even where it would be one (R44). -/
def isPrefix (w : Word) : Bool := fld w 26 6 == 0x3F && w != 0xFFFFFFFF

/-- An epilogue word (R182). -/
def decodeEpi (w : BitVec 16) : Option Instr :=
  match rawEpi w with
  | some i => if i.wf then some i else none
  | none => none

/-- The follower words that R42 allows. -/
def followerOk (i : Instr) : Bool :=
  match i with
  | .addi .. | .andi .. | .ori .. | .xori .. => true
  | .cmpiEq .. | .cmpiNe .. | .cmpiLt .. | .cmpiGe .. => true
  | .ld .. | .st .. | .ldf .. | .ste .. | .vld .. | .vst .. | .ldk .. => true
  | _ => false

/-- The instruction at a word and, where the word is a prefix, its follower (R43). -/
def decodePair (w follower : Word) : Option Instr :=
  if isPrefix w then some (.ximm (fld w 0 26) follower) else decodeWord w

/-- The little-endian word of four bytes (R2). -/
def wordOfBytes (b0 b1 b2 b3 : Byte) : Word := b3 ++ b2 ++ b1 ++ b0

/-- Reads one Delnis instruction from a byte list and returns it with the rest of the list. -/
def decode : List Byte → Except DecodeError (Instr × List Byte)
  | b0 :: b1 :: b2 :: b3 :: rest =>
    let w := wordOfBytes b0 b1 b2 b3
    if isPrefix w then
      match rest with
      | c0 :: c1 :: c2 :: c3 :: rest' => .ok (.ximm (fld w 0 26) (wordOfBytes c0 c1 c2 c3), rest')
      | _ => .error .short
    else
      match decodeWord w with
      | some i => .ok (i, rest)
      | none => .error (.illegal w)
  | _ => .error .short

/-- Reads one epilogue instruction. -/
def decodeEpilogue : List Byte → Except DecodeError (Instr × List Byte)
  | b0 :: b1 :: rest =>
    match decodeEpi (b1 ++ b0 : BitVec 16) with
    | some i => .ok (i, rest)
    | none => .error (.illegalEpilogue (b1 ++ b0 : BitVec 16))
  | _ => .error .short

/-- The bytes of a word, lowest address first (R2). -/
def bytesOfWord (w : Word) : List Byte := [fld w 0 8, fld w 8 8, fld w 16 8, fld w 24 8]

/-- The instruction that the decoder reads from an instruction of `nbits` bits `w`, the bits above them zero. -/
def decodeTableWord (nbits w : Nat) : Option Instr :=
  if nbits ≤ 16 then
    match decodeEpilogue [BitVec.ofNat 8 w, BitVec.ofNat 8 (w / 256)] with
    | .ok (i, _) => some i
    | .error _ => none
  else
    match decode (bytesOfWord (BitVec.ofNat 32 w) ++ bytesOfWord (BitVec.ofNat 32 (w / 2 ^ 32))) with
    | .ok (i, _) => some i
    | .error _ => none

/-- A field's value at its place in a word. -/
def sh {n : Nat} (v : BitVec n) (lo : Nat) : Nat := v.toNat * 2 ^ lo

/-- A word from its fixed bits and its fields. -/
def enc32 (m : Nat) (fs : List Nat) : Word := BitVec.ofNat 32 (m + fs.sum)
def enc16 (m : Nat) (fs : List Nat) : BitVec 16 := BitVec.ofNat 16 (m + fs.sum)

/-- The 32-bit word of a Delnis instruction (for `ximm`, its prefix word), from the formats of R36 and the tables of R47 to
R54; none for an epilogue word or a machine event. -/
def encodeWord : Instr → Option Word
  | .add d a b p => some (enc32 0x04000000 [sh d 21, sh a 16, sh b 11, sh p 8])
  | .sub d a b p => some (enc32 0x04000001 [sh d 21, sh a 16, sh b 11, sh p 8])
  | .and d a b p => some (enc32 0x04000002 [sh d 21, sh a 16, sh b 11, sh p 8])
  | .or d a b p => some (enc32 0x04000003 [sh d 21, sh a 16, sh b 11, sh p 8])
  | .xor d a b p => some (enc32 0x04000004 [sh d 21, sh a 16, sh b 11, sh p 8])
  | .andn d a b p => some (enc32 0x04000005 [sh d 21, sh a 16, sh b 11, sh p 8])
  | .orn d a b p => some (enc32 0x04000006 [sh d 21, sh a 16, sh b 11, sh p 8])
  | .addSat d a b p => some (enc32 0x04000008 [sh d 21, sh a 16, sh b 11, sh p 8])
  | .subSat d a b p => some (enc32 0x04000009 [sh d 21, sh a 16, sh b 11, sh p 8])
  | .addZsat d a b p => some (enc32 0x0400000A [sh d 21, sh a 16, sh b 11, sh p 8])
  | .subZsat d a b p => some (enc32 0x0400000B [sh d 21, sh a 16, sh b 11, sh p 8])
  | .mul d a b p => some (enc32 0x08000000 [sh d 21, sh a 16, sh b 11, sh p 8])
  | .mulh d a b p => some (enc32 0x08000001 [sh d 21, sh a 16, sh b 11, sh p 8])
  | .mulhz d a b p => some (enc32 0x08000002 [sh d 21, sh a 16, sh b 11, sh p 8])
  | .mulSat d a b p => some (enc32 0x08000003 [sh d 21, sh a 16, sh b 11, sh p 8])
  | .div d a b p => some (enc32 0x08000004 [sh d 21, sh a 16, sh b 11, sh p 8])
  | .divz d a b p => some (enc32 0x08000005 [sh d 21, sh a 16, sh b 11, sh p 8])
  | .rem d a b p => some (enc32 0x08000006 [sh d 21, sh a 16, sh b 11, sh p 8])
  | .remz d a b p => some (enc32 0x08000007 [sh d 21, sh a 16, sh b 11, sh p 8])
  | .sll d a b p => some (enc32 0x0C000000 [sh d 21, sh a 16, sh b 11, sh p 8])
  | .srl d a b p => some (enc32 0x0C000001 [sh d 21, sh a 16, sh b 11, sh p 8])
  | .sra d a b p => some (enc32 0x0C000002 [sh d 21, sh a 16, sh b 11, sh p 8])
  | .ror d a b p => some (enc32 0x0C000003 [sh d 21, sh a 16, sh b 11, sh p 8])
  | .clz d a p => some (enc32 0x0C000004 [sh d 21, sh a 16, sh p 8])
  | .ctz d a p => some (enc32 0x0C000005 [sh d 21, sh a 16, sh p 8])
  | .pcnt d a p => some (enc32 0x0C000006 [sh d 21, sh a 16, sh p 8])
  | .brev d a p => some (enc32 0x0C000007 [sh d 21, sh a 16, sh p 8])
  | .bswap d a p => some (enc32 0x0C000008 [sh d 21, sh a 16, sh p 8])
  | .cmpEq d a b p => some (enc32 0x10000000 [sh d 21, sh a 16, sh b 11, sh p 8])
  | .cmpNe d a b p => some (enc32 0x10000001 [sh d 21, sh a 16, sh b 11, sh p 8])
  | .cmpLt d a b p => some (enc32 0x10000002 [sh d 21, sh a 16, sh b 11, sh p 8])
  | .cmpGe d a b p => some (enc32 0x10000003 [sh d 21, sh a 16, sh b 11, sh p 8])
  | .cmpLtu d a b p => some (enc32 0x10000004 [sh d 21, sh a 16, sh b 11, sh p 8])
  | .cmpGeu d a b p => some (enc32 0x10000005 [sh d 21, sh a 16, sh b 11, sh p 8])
  | .kand d a b p => some (enc32 0x10000008 [sh d 21, sh a 16, sh b 11, sh p 8])
  | .kor d a b p => some (enc32 0x10000009 [sh d 21, sh a 16, sh b 11, sh p 8])
  | .kxor d a b p => some (enc32 0x1000000A [sh d 21, sh a 16, sh b 11, sh p 8])
  | .kandn d a b p => some (enc32 0x1000000B [sh d 21, sh a 16, sh b 11, sh p 8])
  | .kmov d a p => some (enc32 0x1000000C [sh d 21, sh a 16, sh p 8])
  | .gtok d a p => some (enc32 0x1000000D [sh d 21, sh a 16, sh p 8])
  | .ktog d a p => some (enc32 0x1000000E [sh d 21, sh a 16, sh p 8])
  | .sel d a b s => some (enc32 0x14000000 [sh d 21, sh a 16, sh b 11, sh s 8])
  | .sext8 d a p => some (enc32 0x14000001 [sh d 21, sh a 16, sh p 8])
  | .sext16 d a p => some (enc32 0x14000002 [sh d 21, sh a 16, sh p 8])
  | .sext32 d a p => some (enc32 0x14000003 [sh d 21, sh a 16, sh p 8])
  | .zext8 d a p => some (enc32 0x14000004 [sh d 21, sh a 16, sh p 8])
  | .zext16 d a p => some (enc32 0x14000005 [sh d 21, sh a 16, sh p 8])
  | .zext32 d a p => some (enc32 0x14000006 [sh d 21, sh a 16, sh p 8])
  | .mkptr d a n p => some (enc32 0x14000007 [sh d 21, sh a 16, sh n 11, sh p 8])
  | .setp d a p => some (enc32 0x14000008 [sh d 21, sh a 16, sh p 8])
  | .clrp d a p => some (enc32 0x14000009 [sh d 21, sh a 16, sh p 8])
  | .addi d a i => some (enc32 0x20000000 [sh d 21, sh a 16, sh i 0])
  | .andi d a i => some (enc32 0x24000000 [sh d 21, sh a 16, sh i 0])
  | .ori d a i => some (enc32 0x28000000 [sh d 21, sh a 16, sh i 0])
  | .xori d a i => some (enc32 0x2C000000 [sh d 21, sh a 16, sh i 0])
  | .slli d a n => some (enc32 0x30000000 [sh d 21, sh a 16, sh n 0])
  | .srli d a n => some (enc32 0x30000040 [sh d 21, sh a 16, sh n 0])
  | .srai d a n => some (enc32 0x30000080 [sh d 21, sh a 16, sh n 0])
  | .rori d a n => some (enc32 0x300000C0 [sh d 21, sh a 16, sh n 0])
  | .cmpiEq k a i => some (enc32 0x34000000 [sh k 21, sh a 16, sh i 0])
  | .cmpiNe k a i => some (enc32 0x35000000 [sh k 21, sh a 16, sh i 0])
  | .cmpiLt k a i => some (enc32 0x36000000 [sh k 21, sh a 16, sh i 0])
  | .cmpiGe k a i => some (enc32 0x37000000 [sh k 21, sh a 16, sh i 0])
  | .movhi d i => some (enc32 0x38000000 [sh d 21, sh i 0])
  | .movw d i => some (enc32 0x3C000000 [sh d 21, sh i 0])
  | .bc k s d => some (enc32 0x40000000 [sh k 23, sh s 22, sh d 0])
  | .call k s d => some (enc32 0x44000000 [sh k 23, sh s 22, sh d 0])
  | .nop => some (enc32 0x48000000 [])
  | .jr a p => some (enc32 0x48000001 [sh a 16, sh p 8])
  | .callr a p => some (enc32 0x48000002 [sh a 16, sh p 8])
  | .repf l c s t => some (enc32 0x48000003 [sh l 22, sh c 16, sh s 13, sh t 11])
  | .ralign n => some (enc32 0x48000004 [sh n 11])
  | .exit => some (enc32 0x48000005 [])
  | .yield => some (enc32 0x48000006 [])
  | .ld d a z q f => some (enc32 0x50000000 [sh d 21, sh a 16, sh z 13, sh q 11, sh f 0])
  | .st d a z q f => some (enc32 0x54000000 [sh d 21, sh a 16, sh z 13, sh q 11, sh f 0])
  | .ldf d a z f => some (enc32 0x58009000 [sh d 21, sh a 16, sh z 13, sh f 0])
  | .ste d a z f => some (enc32 0x58001000 [sh d 21, sh a 16, sh z 14, sh f 0])
  | .aswp d a b t o => some (enc32 0x5C000000 [sh d 21, sh a 16, sh b 11, sh t 2, sh o 0])
  | .aadd d a b t o => some (enc32 0x5C000010 [sh d 21, sh a 16, sh b 11, sh t 2, sh o 0])
  | .aand d a b t o => some (enc32 0x5C000020 [sh d 21, sh a 16, sh b 11, sh t 2, sh o 0])
  | .aor d a b t o => some (enc32 0x5C000030 [sh d 21, sh a 16, sh b 11, sh t 2, sh o 0])
  | .axor d a b t o => some (enc32 0x5C000040 [sh d 21, sh a 16, sh b 11, sh t 2, sh o 0])
  | .amin d a b t o => some (enc32 0x5C000050 [sh d 21, sh a 16, sh b 11, sh t 2, sh o 0])
  | .amax d a b t o => some (enc32 0x5C000060 [sh d 21, sh a 16, sh b 11, sh t 2, sh o 0])
  | .aminu d a b t o => some (enc32 0x5C000070 [sh d 21, sh a 16, sh b 11, sh t 2, sh o 0])
  | .amaxu d a b t o => some (enc32 0x5C000080 [sh d 21, sh a 16, sh b 11, sh t 2, sh o 0])
  | .cas d a b t o => some (enc32 0x5C000090 [sh d 21, sh a 16, sh b 11, sh t 2, sh o 0])
  | .vld d a q f => some (enc32 0x60000000 [sh d 21, sh a 16, sh q 11, sh f 0])
  | .vst d a q f => some (enc32 0x60008000 [sh d 21, sh a 16, sh q 11, sh f 0])
  | .vldMasked d a k t => some (enc32 0x64000000 [sh d 21, sh a 16, sh k 8, sh t 0])
  | .vstMasked d a k t => some (enc32 0x64000010 [sh d 21, sh a 16, sh k 8, sh t 0])
  | .vgather d a b k t => some (enc32 0x64000020 [sh d 21, sh a 16, sh b 11, sh k 8, sh t 0])
  | .vscatter d a b k t => some (enc32 0x64000030 [sh d 21, sh a 16, sh b 11, sh k 8, sh t 0])
  | .vaadd a b k t => some (enc32 0x64000040 [sh a 16, sh b 11, sh k 8, sh t 0])
  | .vamin a b k t => some (enc32 0x64000050 [sh a 16, sh b 11, sh k 8, sh t 0])
  | .vamax a b k t => some (enc32 0x64000060 [sh a 16, sh b 11, sh k 8, sh t 0])
  | .vaand a b k t => some (enc32 0x64000070 [sh a 16, sh b 11, sh k 8, sh t 0])
  | .vaor a b k t => some (enc32 0x64000080 [sh a 16, sh b 11, sh k 8, sh t 0])
  | .vaxor a b k t => some (enc32 0x64000090 [sh a 16, sh b 11, sh k 8, sh t 0])
  | .fence k c => some (enc32 0x68000000 [sh k 24, sh c 21])
  | .pub a b => some (enc32 0x68000001 [sh a 16, sh b 11])
  | .zline a => some (enc32 0x68000002 [sh a 16])
  | .flush a => some (enc32 0x68000003 [sh a 16])
  | .pref a => some (enc32 0x68000004 [sh a 16])
  | .ldk d a q f => some (enc32 0x6C00C000 [sh d 21, sh a 16, sh q 11, sh f 0])
  | .vadd d a b k m t => some (enc32 0x70000000 [sh d 21, sh a 16, sh b 11, sh k 8, sh m 4, sh t 0])
  | .vsub d a b k m t => some (enc32 0x70000040 [sh d 21, sh a 16, sh b 11, sh k 8, sh m 4, sh t 0])
  | .vmul d a b k m t => some (enc32 0x70000080 [sh d 21, sh a 16, sh b 11, sh k 8, sh m 4, sh t 0])
  | .vdiv d a b k m t => some (enc32 0x700000C0 [sh d 21, sh a 16, sh b 11, sh k 8, sh m 4, sh t 0])
  | .vfma d a b k m t => some (enc32 0x74000000 [sh d 21, sh a 16, sh b 11, sh k 8, sh m 4, sh t 0])
  | .vfms d a b k m t => some (enc32 0x74000040 [sh d 21, sh a 16, sh b 11, sh k 8, sh m 4, sh t 0])
  | .vfnma d a b k m t => some (enc32 0x74000080 [sh d 21, sh a 16, sh b 11, sh k 8, sh m 4, sh t 0])
  | .vfnms d a b k m t => some (enc32 0x740000C0 [sh d 21, sh a 16, sh b 11, sh k 8, sh m 4, sh t 0])
  | .vmin d a b k t => some (enc32 0x78000000 [sh d 21, sh a 16, sh b 11, sh k 8, sh t 0])
  | .vmax d a b k t => some (enc32 0x78000010 [sh d 21, sh a 16, sh b 11, sh k 8, sh t 0])
  | .vabs d a k t => some (enc32 0x78000020 [sh d 21, sh a 16, sh k 8, sh t 0])
  | .vneg d a k t => some (enc32 0x78000030 [sh d 21, sh a 16, sh k 8, sh t 0])
  | .vcmpEq d a b k t => some (enc32 0x78000040 [sh d 21, sh a 16, sh b 11, sh k 8, sh t 0])
  | .vcmpNe d a b k t => some (enc32 0x78000050 [sh d 21, sh a 16, sh b 11, sh k 8, sh t 0])
  | .vcmpLt d a b k t => some (enc32 0x78000060 [sh d 21, sh a 16, sh b 11, sh k 8, sh t 0])
  | .vcmpLe d a b k t => some (enc32 0x78000070 [sh d 21, sh a 16, sh b 11, sh k 8, sh t 0])
  | .vcmpUn d a b k t => some (enc32 0x78000080 [sh d 21, sh a 16, sh b 11, sh k 8, sh t 0])
  | .vexp2 d a k m t => some (enc32 0x7C000000 [sh d 21, sh a 16, sh k 8, sh m 4, sh t 0])
  | .vlog2 d a k m t => some (enc32 0x7C000040 [sh d 21, sh a 16, sh k 8, sh m 4, sh t 0])
  | .vrcp d a k m t => some (enc32 0x7C000080 [sh d 21, sh a 16, sh k 8, sh m 4, sh t 0])
  | .vrsq d a k m t => some (enc32 0x7C0000C0 [sh d 21, sh a 16, sh k 8, sh m 4, sh t 0])
  | .vrsum d a k t => some (enc32 0x80000000 [sh d 21, sh a 16, sh k 8, sh t 0])
  | .vrmax d a k t => some (enc32 0x80000010 [sh d 21, sh a 16, sh k 8, sh t 0])
  | .vrmin d a k t => some (enc32 0x80000020 [sh d 21, sh a 16, sh k 8, sh t 0])
  | .vramax d a k t => some (enc32 0x80000030 [sh d 21, sh a 16, sh k 8, sh t 0])
  | .vperm d a b k t => some (enc32 0x84000000 [sh d 21, sh a 16, sh b 11, sh k 8, sh t 0])
  | .vbcst d a n k t => some (enc32 0x84000010 [sh d 21, sh a 16, sh n 11, sh k 8, sh t 0])
  | .vshup d a n k t => some (enc32 0x84000020 [sh d 21, sh a 16, sh n 11, sh k 8, sh t 0])
  | .vshdn d a n k t => some (enc32 0x84000030 [sh d 21, sh a 16, sh n 11, sh k 8, sh t 0])
  | .vzip d a b k t => some (enc32 0x84000040 [sh d 21, sh a 16, sh b 11, sh k 8, sh t 0])
  | .vunzip d a b k t => some (enc32 0x84000050 [sh d 21, sh a 16, sh b 11, sh k 8, sh t 0])
  | .vcvt d a s k m t => some (enc32 0x88000000 [sh d 21, sh a 16, sh s 11, sh k 8, sh m 4, sh t 0])
  | .vdec d a x k t => some (enc32 0x88000040 [sh d 21, sh a 16, sh x 11, sh k 8, sh t 0])
  | .venc d a x k t => some (enc32 0x88000050 [sh d 21, sh a 16, sh x 11, sh k 8, sh t 0])
  | .dtload x a => some (enc32 0x88000060 [sh x 21, sh a 16])
  | .viadd d a b k t => some (enc32 0x8C000000 [sh d 21, sh a 16, sh b 11, sh k 8, sh t 0])
  | .visub d a b k t => some (enc32 0x8C000010 [sh d 21, sh a 16, sh b 11, sh k 8, sh t 0])
  | .vimul d a b k t => some (enc32 0x8C000020 [sh d 21, sh a 16, sh b 11, sh k 8, sh t 0])
  | .vimulh d a b k t => some (enc32 0x8C000030 [sh d 21, sh a 16, sh b 11, sh k 8, sh t 0])
  | .viand d a b k t => some (enc32 0x8C000040 [sh d 21, sh a 16, sh b 11, sh k 8, sh t 0])
  | .vior d a b k t => some (enc32 0x8C000050 [sh d 21, sh a 16, sh b 11, sh k 8, sh t 0])
  | .vixor d a b k t => some (enc32 0x8C000060 [sh d 21, sh a 16, sh b 11, sh k 8, sh t 0])
  | .visll d a b k t => some (enc32 0x8C000070 [sh d 21, sh a 16, sh b 11, sh k 8, sh t 0])
  | .visrl d a b k t => some (enc32 0x8C000080 [sh d 21, sh a 16, sh b 11, sh k 8, sh t 0])
  | .visra d a b k t => some (enc32 0x8C000090 [sh d 21, sh a 16, sh b 11, sh k 8, sh t 0])
  | .viaddSat d a b k t => some (enc32 0x8C0000A0 [sh d 21, sh a 16, sh b 11, sh k 8, sh t 0])
  | .visubSat d a b k t => some (enc32 0x8C0000B0 [sh d 21, sh a 16, sh b 11, sh k 8, sh t 0])
  | .vins d a n t => some (enc32 0x90000000 [sh d 21, sh a 16, sh n 11, sh t 0])
  | .vext d a n t => some (enc32 0x90000010 [sh d 21, sh a 16, sh n 11, sh t 0])
  | .vsplat d a k t => some (enc32 0x90000020 [sh d 21, sh a 16, sh k 8, sh t 0])
  | .mxfmt a b => some (enc32 0xA0000000 [sh a 16, sh b 11])
  | .mzero a => some (enc32 0xA0000001 [sh a 16])
  | .mma a => some (enc32 0xA4000000 [sh a 16])
  | .mmac a => some (enc32 0xA4000001 [sh a 16])
  | .mdrain a b => some (enc32 0xA8000000 [sh a 16, sh b 11])
  | .mbsend n a k => some (enc32 0xB0000000 [sh n 21, sh a 16, sh k 8])
  | .mbtake d n k => some (enc32 0xB0000001 [sh d 21, sh n 16, sh k 8])
  | .capp n a => some (enc32 0xB4000000 [sh n 21, sh a 16])
  | .cadv n => some (enc32 0xB4000001 [sh n 21])
  | .waittl n a => some (enc32 0xB8000000 [sh n 21, sh a 16])
  | .waitlc n a => some (enc32 0xB8000001 [sh n 21, sh a 16])
  | .waitm a => some (enc32 0xB8000002 [sh a 16])
  | .karr n => some (enc32 0xC0000000 [sh n 20])
  | .kwait n => some (enc32 0xC0000001 [sh n 20])
  | .karrw n => some (enc32 0xC0000002 [sh n 20])
  | .swexp a b => some (enc32 0xC4000000 [sh a 16, sh b 11])
  | .swadd a b => some (enc32 0xC4000001 [sh a 16, sh b 11])
  | .swwait a b => some (enc32 0xC4000002 [sh a 16, sh b 11])
  | .jadd c a b => some (enc32 0xC4000003 [sh c 21, sh a 16, sh b 11])
  | .enq a b k => some (enc32 0xC8000000 [sh a 16, sh b 11, sh k 8])
  | .deq d a k => some (enc32 0xC8000001 [sh d 21, sh a 16, sh k 8])
  | .tspawn a k => some (enc32 0xC8000002 [sh a 16, sh k 8])
  | .hstart d a b => some (enc32 0xD0000000 [sh d 21, sh a 16, sh b 11])
  | .hjoin a => some (enc32 0xD0000001 [sh a 16])
  | .cut a => some (enc32 0xD4000000 [sh a 16])
  | .ply d a => some (enc32 0xD4000001 [sh d 21, sh a 16])
  | .alw d => some (enc32 0xD4000002 [sh d 21])
  | .skfind d a => some (enc32 0xD8000000 [sh d 21, sh a 16])
  | .skrel a => some (enc32 0xD8000001 [sh a 16])
  | .skflush a => some (enc32 0xD8000002 [sh a 16])
  | .skpin a => some (enc32 0xD8000003 [sh a 16])
  | .shsend a b k => some (enc32 0xE0000000 [sh a 16, sh b 11, sh k 8])
  | .shrecv d k => some (enc32 0xE0000001 [sh d 21, sh k 8])
  | .shpermit a => some (enc32 0xE0000002 [sh a 16])
  | .amsg a b => some (enc32 0xE4000000 [sh a 16, sh b 11])
  | .trap n => some (enc32 0xF0000000 [sh n 16])
  | .eret => some (enc32 0xF0000001 [])
  | .halt => some (enc32 0xF0000002 [])
  | .brk => some (enc32 0xF0000003 [])
  | .csrr d c => some (enc32 0xF4000000 [sh d 21, sh c 8])
  | .csrw a c => some (enc32 0xF4000001 [sh a 16, sh c 8])
  | .segw n a b => some (enc32 0xF4000002 [sh n 21, sh a 16, sh b 11])
  | .ptbw a b => some (enc32 0xF4000003 [sh a 16, sh b 11])
  | .invt a => some (enc32 0xF4000004 [sh a 16])
  | .wake a => some (enc32 0xF8000000 [sh a 16])
  | .rndk d a b => some (enc32 0xF8000001 [sh d 21, sh a 16, sh b 11])
  | .clkr d => some (enc32 0xF8000002 [sh d 21])
  | .ximm x _ => some (BitVec.ofNat 32 (0xFC000000 + x.toNat))
  | _ => none

/-- The 16-bit word of an epilogue instruction (R181, R182). -/
def encodeEpi : Instr → Option (BitVec 16)
  | .enop => some (enc16 0x0000 [])
  | .emul d a b => some (enc16 0x1000 [sh d 9, sh a 6, sh b 3])
  | .eadd d a b => some (enc16 0x2000 [sh d 9, sh a 6, sh b 3])
  | .escl d a i => some (enc16 0x3000 [sh d 9, sh a 6, sh i 0])
  | .ebias d a i => some (enc16 0x4000 [sh d 9, sh a 6, sh i 0])
  | .etab d a i => some (enc16 0x5000 [sh d 9, sh a 6, sh i 0])
  | .eclmp d a b => some (enc16 0x6000 [sh d 9, sh a 6, sh b 3])
  | .ecvt d a f => some (enc16 0x7000 [sh d 9, sh a 6, sh f 3])
  | .emax d a b => some (enc16 0x8000 [sh d 9, sh a 6, sh b 3])
  | .emin d a b => some (enc16 0x9000 [sh d 9, sh a 6, sh b 3])
  | .eabsmax d a => some (enc16 0xA000 [sh d 9, sh a 6])
  | .eflag c a b => some (enc16 0xB000 [sh c 9, sh a 6, sh b 3])
  | .esel d a b => some (enc16 0xC000 [sh d 9, sh a 6, sh b 3])
  | .estore a f => some (enc16 0xD000 [sh a 6, sh f 3])
  | .eskip i => some (enc16 0xE000 [sh i 0])
  | .eend => some (enc16 0xF000 [])
  | _ => none

/-- The bytes of an instruction, lowest address first; none for a machine event. -/
def encode (i : Instr) : List Byte :=
  match encodeWord i with
  | some w =>
    match i with
    | .ximm _ f => bytesOfWord w ++ bytesOfWord f
    | _ => bytesOfWord w
  | none =>
    match encodeEpi i with
    | some h => [fld h 0 8, fld h 8 8]
    | none => []

end Sys2Proof
end

