-- ==== Sys2Proof/Machine/Tables.lean ====
section
/-! DEFINITION. Decode tables (R107, R108) and their presets (R111). -/
namespace Sys2Proof.Machine

/-- A decode table: 256 E8M10 encodings and the order bit (R107). -/
structure DTable where
  e : List (BitVec 19)
  order : Bool
  deriving DecidableEq, Repr

/-- Entry `c` of a table. -/
def DTable.get (t : DTable) (c : Byte) : BitVec 19 := t.e.getD c.toNat 0

/-- R108: the table is in order. -/
def inOrder (e : List (BitVec 19)) : Bool :=
  let at' (i : Nat) : Nat := (e.getD i 0).toNat
  (List.range 128).all (fun i => at' i < 0x40000)
    && (List.range 127).all (fun i => at' i % 0x40000 ≤ at' (i + 1) % 0x40000)
    && (List.range 128).all (fun i => (e.getD (128 + i) 0) == ((e.getD i 0) ^^^ 0x40000))

def DTable.ofList (e : List (BitVec 19)) : DTable := { e := e, order := inOrder e }

/-- The E8M10 encoding of `f × 2^x`, for `1 ≤ f < 2^11` and a normal result. -/
def e8m10OfScaled (f : Nat) (x : Int) : Nat :=
  let l := Nat.log2 f
  let ex := (x + l + 127).toNat
  ex * 1024 + (f <<< (10 - l)) % 1024

/-- Entry `c` below 128 of the E4M3 preset (R111). -/
def e4m3Entry (c : Nat) : Nat :=
  let e := c / 8
  let f := c % 8
  if c = 127 then 0x3FE00
  else if e = 0 then (if f = 0 then 0 else e8m10OfScaled f (-9))
  else e8m10OfScaled (8 + f) ((e : Int) - 7 - 3)

/-- Entry `c` below 128 of the E5M2 preset (R111). -/
def e5m2Entry (c : Nat) : Nat :=
  let e := c / 4
  let f := c % 4
  if c = 124 then 0x3FC00
  else if c > 124 then 0x3FE00
  else if e = 0 then (if f = 0 then 0 else e8m10OfScaled f (-16))
  else e8m10OfScaled (4 + f) ((e : Int) - 15 - 2)

/-- A preset from its lower half: entry 128 + c is entry c XOR 0x4_0000 (R111). -/
def presetOf (lower : Nat → Nat) : List (BitVec 19) :=
  (List.range 256).map fun c =>
    if c < 128 then BitVec.ofNat 19 (lower c) else BitVec.ofNat 19 (lower (c - 128)) ^^^ 0x40000

/-- The preset that firmware loads into table A (R107); it is in order (R111). -/
def presetE4M3 : DTable := { e := presetOf e4m3Entry, order := true }
/-- The preset that firmware loads into table B (R107); it is in order (R111). -/
def presetE5M2 : DTable := { e := presetOf e5m2Entry, order := true }

/-- Entry `c` of the s8 preset (R111): `c` read as a two's complement byte. -/
def s8Entry (c : Nat) : BitVec 19 :=
  if c = 0 then 0
  else if c < 128 then BitVec.ofNat 19 (e8m10OfScaled c 0)
  else BitVec.ofNat 19 (e8m10OfScaled (256 - c) 0) ||| 0x40000

def presetS8 : DTable := { e := (List.range 256).map s8Entry, order := false }

end Sys2Proof.Machine
end

