-- ==== Sys2Proof/Machine/State.lean ====
section
/-! DEFINITION. The state of the module: everything the spec names, as plain data, with its reset values; and the
reasons a step can stop. Slots, cores, clusters, dies, VFs and table entries are held sparsely: one that is not
listed is at its reset value. -/
namespace Sys2Proof.Machine

/-! ## Places and what events carry -/

/-- The place of a slot, core, cluster or die (R13): the fields of `c.coord` below the device number. -/
structure Coord where
  die : BitVec 3
  cluster : BitVec 6
  core : BitVec 3
  slot : BitVec 4
  deriving DecidableEq, Repr

/-- What an answer to a waited access at a home outside this device carries (R144, R293). -/
inductive Reply where
  /-- The bytes read, lowest address first. -/
  | data (bytes : List (Byte))
  /-- A refusal: the cause found at the target (R293), and the byte of the access whose word met it (R123, R152). -/
  | refused (cause : Byte) (byte : Nat)
  /-- A peer lost answer (R290). -/
  | lost
  /-- A page fault at the target holds the access, and its record is queued there (R141, kind 5). -/
  | faulted
  deriving DecidableEq, Repr

/-- The header of a request packet that arrives at a die (R249): strand or ply id, carried allowance, for a ply its
members with theirs (R250), the VF, and whether the packet registers its strand. -/
structure Ingress where
  id : BitVec 24
  carried : Nat
  members : List (BitVec 24 × Nat)
  vf : Nat
  registers : Bool
  deriving DecidableEq, Repr

/-- What a posted packet does at its home. -/
inductive PacketOp where
  /-- Bytes at flat addresses (at offsets from the VA for a peer), and the tag that each touched word takes (R133,
  R153). -/
  | store (bytes : List (Nat × Byte)) (tag : BitVec 2)
  /-- A vector atomic packet (R155): element type, operation 4 to 9, and for each active element its address (offset for
  a peer) and operand. -/
  | vatomic (ty : BitVec 4) (fn : BitVec 4) (elems : List (Nat × Dword))
  /-- A flag post: an OR into the dword at the address (R106). -/
  | flags (f : BitVec 16)
  | swadd (x : Word)
  | swexp (x : Word)
  /-- An engine's arrival at a sync word: it adds to the count and ORs flags (R172, R204). -/
  | arrival (x : Word) (f : BitVec 16)
  /-- An arming `swexp` (R220). -/
  | arm
  /-- R221: value, party, strand. -/
  | jadd (x : Dword) (party : BitVec 4) (strand : BitVec 24)
  /-- The fill of a mailbox of the slot's core, which comes after every earlier access of the slot (R186). -/
  | mail (n : BitVec 3)
  /-- The release of the shuttle send with this number of the slot's core, which comes after every earlier access of the slot
  (R284). -/
  | ship (num : Nat)
  /-- A `cut` of an id, which comes after every earlier access of the slot (R259). -/
  | cut (id : BitVec 24)
  deriving DecidableEq, Repr

/-- What a peer request asks at this device (R290), at a device VA there. -/
inductive PeerOp where
  | read (n : Nat)
  /-- The fetch of the word at the VA (R64); the answer carries its 32-byte block (R63). -/
  | fetch
  /-- A posted access: its addresses are offsets from the VA. -/
  | packet (op : PacketOp)
  /-- A value-returning atomic (R150): operation, width in bits, operand, compared value, tag. -/
  | atomic (fn w : Nat) (x expect : Dword) (tag : BitVec 2)
  /-- `zline` of a line, and whether it may clear poison (R156). -/
  | zline (priv : Bool)
  /-- A store whose sender waits for the acknowledgement (R137): its bytes at offsets from the VA, and its tag. -/
  | waitedStore (bytes : List (Nat × Byte)) (tag : BitVec 2)
  /-- An active message (R295): target core, sender's coordinate, dwords. -/
  | message (target : Coord) (sender : Dword) (dwords : List Dword)
  deriving DecidableEq, Repr

/-- A request from a peer device (R290), with the incarnations it carries; the issuing slot as `c.coord` gives it, its
consecutive page faults so far (R141), and the policy of its segment (R137). The header's VF is the one whose VA space serves
the access (R287). -/
structure PeerReq where
  source : BitVec 9
  sourceInc : BitVec 8
  targetInc : BitVec 8
  sender : Dword
  pf : Nat
  policy : BitVec 2
  va : BitVec 48
  op : PeerOp
  hdr : Ingress
  deriving DecidableEq, Repr

/-- What the host asks for over its link. -/
inductive HostOp where
  /-- A read of device memory (R365), at a device physical address. -/
  | read (addr : BitVec 43) (n : Nat)
  | write (addr : BitVec 43) (bytes : List Byte)
  /-- An AtomicOp on device memory with the device as completer (R364), in the forms of R150: operation (0 swap, 1 add, 9
  compare and swap), width in bits, operand, compared value. -/
  | atomic (addr : BitVec 43) (fn w : Nat) (x expect : Dword)
  /-- A read of `n` bytes at an offset of a VF's register block (R366). -/
  | readReg (vf off n : Nat)
  deriving DecidableEq, Repr

/-- Where an uncorrectable error is found (R338). -/
inductive EccTarget where
  | word (addr : Nat)
  | instructionBlock (c : Coord) (block : Nat)
  | accumulator (c : Coord) (element : Nat)
  deriving DecidableEq, Repr

/-- What a machine event of the table concerns (log 14): a slot, core, cluster or die; a VF; a number (block, word, entry,
index, knot, line or register offset, as the event's meaning says); a dword; and the packets that arrive from outside. -/
structure EvArg where
  c : Coord
  vf : Nat
  n : Nat
  v : Dword
  flag : Bool
  bytes : List Byte
  reply : Reply
  hdr : Ingress
  peer : Option PeerReq
  host : Option HostOp
  ecc : Option EccTarget
  /-- The requester's incarnation that a peer's reply carries (R290). -/
  inc : Byte
  deriving DecidableEq, Repr

def Coord.zero : Coord := { die := 0, cluster := 0, core := 0, slot := 0 }

/-- An event about a place. -/
def EvArg.at (c : Coord) : EvArg :=
  { c := c, vf := 0, n := 0, v := 0, flag := false, bytes := [], reply := .lost
    hdr := { id := 0, carried := 0, members := [], vf := 0, registers := false }
    peer := none, host := none, ecc := none, inc := 0 }

/-- A sparse table: key and value, an absent key standing for the reset value. -/
abbrev Sparse (α : Type) := List (Nat × α)

/-! ## Slots -/

/-- The state of a repeat frame (R94, R95). -/
structure Frame where
  base : Dword
  len : Nat
  count : Nat
  stagger : BitVec 3
  stride : BitVec 5
  pass : Nat
  idx : Nat
  buf : List Word
  deriving DecidableEq, Repr

/-- Why a slot is out of the rotation (R62), with what its return needs. -/
inductive Hold where
  /-- A fetch miss (R63): the physical block awaited. -/
  | fetch (block : Nat)
  /-- A page fault (R141). -/
  | pageFault
  /-- Queued for, or served by, slot 13 (R143, R331): the cause and the logical block of a miss. -/
  | service (cause : BitVec 8) (block : BitVec 52)
  /-- A waited access whose home is on another device, with that device's number (R144, R293). -/
  | load (i : Instr) (ptr : Dword) (dev : BitVec 9)
  /-- A waited access was dropped at the ingress of its home's die (R249): nothing answers it. -/
  | dropped
  /-- A fetch of a peer's block that a fence has made too old (R302): its answer is dropped, and the fetch is made again. -/
  | refetch (ptr : Dword) (dev : BitVec 9)
  /-- Earlier posted accesses are not yet acknowledged (R300, R307); the instruction reissues. -/
  | posted
  /-- Step 2 of `exit` (R89). -/
  | exiting
  /-- R90: the cycle of the yield, and the other slots that were eligible then. -/
  | yield (since : Nat) (others : BitVec 16)
  /-- R91: the count, and the cycle in which the slot was held. -/
  | ralign (n : BitVec 15) (since : Nat)
  /-- A waiting `ldf` or `ste` (R149). -/
  | fullEmpty (i : Instr) (word : Nat)
  /-- The limit of outstanding commands is reached (R171). -/
  | matrixFull
  /-- The limit of entries in flight is reached inside `capp` (R193), or its page fault: next pointer and count. -/
  | copyFull
  | waittl (n : BitVec 3) (v : Dword)
  | waitlc (n : BitVec 4) (e : Word)
  | waitm
  /-- `karr` waits for the previous phase, and reissues when it is over; or (`last`) `kwait` or `karrw` waits for the phase
  it arrived at, and completes (R215). -/
  | knot (n : BitVec 6) (last : Bool)
  | swwait (addr : Nat) (g : BitVec 16)
  | hjoin (mask : BitVec 10)
  | halt
  /-- `amsg` waits for acceptance (R295): gA, which names the target, and the number of its message. -/
  | message (target : Dword) (num : Nat)
  /-- `skflush` waits for its write-backs (R275). -/
  | skflush (name : Dword)
  /-- `skrel` or `skpin` waits for a launch-queue place (R274). -/
  | dirQueue
  /-- `invt` waits for the users of stale translations (R336). -/
  | invt
  /-- `pub` waits for its walk (R311). -/
  | walk
  /-- `shrecv` copies its landing slot (R285): mask, register, ring slot, and where each byte of the payload goes in the flat
  space. -/
  | shrecv (k : BitVec 3) (d : BitVec 5) (ringSlot : Nat) (dest : List Nat)
  /-- A `csrw` of `c.vmroot` waits for the users of stale translations (R336). -/
  | csrw
  /-- A `csrw` of `c.shrx` or `c.shtx` waits for the sends in flight (R278); it reissues. -/
  | ring
  deriving DecidableEq, Repr

/-- How the last task of a slot retired (R89, R255, R328). -/
inductive Retired where
  | done
  | cut
  | fault
  deriving DecidableEq, Repr

/-- An entry of a task queue, as captured at enqueue (R231). -/
structure QEntry where
  ptr : Dword
  strand : BitVec 24
  cls : BitVec 2
  stage : Nat
  hint : BitVec 16
  /-- Expiry on this die's `c.now`; none never expires (strand 0). -/
  expiry : Option Nat
  launch : Option Dword
  vf : Nat
  queue : Nat
  /-- Its number in the enqueue order of the die (R233). -/
  seq : Nat
  deriving DecidableEq, Repr

/-- The context of one slot. -/
structure Slot where
  /-- The slot runs a task (R15). -/
  live : Bool
  /-- The slot runs the movement-slot firmware of R26. -/
  fw : Bool
  vf : Nat
  pc : Dword
  /-- The scalar registers; entry 0 is never read (R65). -/
  g : Vector Dword 32
  v : Vector VReg 32
  /-- The mask registers; entry 0 is never read (R66). -/
  k : Vector Dword 8
  sg : Vector (BitVec 128) 8
  frame : Option Frame
  hold : Option Hold
  lastIssue : Option Nat
  /-- R319: th, ppriv, priv. -/
  status : BitVec 3
  strand : BitVec 24
  cls : BitVec 2
  cause : BitVec 8
  epc : Dword
  tval : Dword
  tvec : Dword
  crew : Dword
  qown : BitVec 6
  nfsw : Dword
  /-- The hidden posted set (R106). -/
  posted : BitVec 16
  tnan : BitVec 16
  stag : BitVec 3
  mbsrc : Dword
  shsrc : Dword
  rfault : Dword
  rfptr : Dword
  escv : Dword
  /-- The `waitm` watch: line and instant (R212). -/
  watch : Option (Nat × Nat)
  /-- The parity bits a[n] (R214). -/
  knotA : BitVec 40
  /-- The arrived bits (R214). -/
  knotArrived : BitVec 40
  /-- Knots at which an arrival of the slot has been sent and not yet counted (R215). -/
  knotFly : BitVec 40
  /-- Consecutive page faults of the current instruction (R141). -/
  pfCount : Nat
  /-- Entries of the current `capp` already appended and the next pointer (R193). -/
  cappPos : Option (Nat × Dword)
  /-- Answers of peers to the accesses that the current instruction has already made, element by element (R154, R155): the
  bytes of a load, nothing for a store. -/
  elems : List (List Byte)
  /-- The entry that `enq` or `tspawn` captured, while its store is on its way to a peer (R232). -/
  enq : Option QEntry
  /-- A refused reply that reached the saved context: the cause and value of the trap that the slot takes when it is restored
  (R325, R342). -/
  pend : Option (BitVec 8 × Dword)
  wakeLatch : Bool
  /-- The launch the slot's task belongs to (R228, R235), by VF and id. -/
  launch : Option Dword
  /-- The descriptor whose entry and argument a landing slot still has to read before its task starts (R235). -/
  starting : Option Dword
  /-- The owner that a landing slot takes when it next retires (R234). -/
  nextOwn : Option (BitVec 6)
  retired : Option Retired
  deriving DecidableEq, Repr

/-- A slot after core reset and before its first task. -/
def Slot.reset : Slot :=
  { live := false, fw := false, vf := 0, pc := 0
    g := Vector.replicate 32 0, v := Vector.replicate 32 0, k := Vector.replicate 8 0
    sg := Vector.replicate 8 0, frame := none, hold := none, lastIssue := none
    status := 0, strand := 0, cls := 0, cause := 0, epc := 0, tval := 0, tvec := 0, crew := 0, qown := 0
    nfsw := 0, posted := 0, tnan := 0x7F7F, stag := 0, mbsrc := 0, shsrc := 0, rfault := 0, rfptr := 0
    escv := 0, watch := none, knotA := 0, knotArrived := 0, knotFly := 0, pfCount := 0, cappPos := none, elems := [], enq := none
    pend := none, wakeLatch := false, launch := none, starting := none, nextOwn := none, retired := none }

/-! ## Pointers and posted packets -/

/-- A pointer resolved against a segment register (R165, R191): the pointer and the register's bits. -/
structure RPtr where
  p : Dword
  seg : BitVec 128
  deriving DecidableEq, Repr

/-- Where an access is performed (R130). -/
inductive Route where
  /-- A flat address of this device or of host memory (log 9). -/
  | here (addr : Nat)
  /-- Another device, and the VA there (R130, kind 5). -/
  | peer (dev : BitVec 9) (va : BitVec 48)
  deriving DecidableEq, Repr

/-- Where the task that made a packet stands: in its slot, saved with its VF (R342), displaced by a task of a higher class (R236) while
`depth` tasks were displaced from the slot already, or ended. -/
inductive Standing where
  | present
  | saved
  | displaced (depth : Nat)
  | ended
  deriving DecidableEq, Repr

/-- A posted packet in the port of its slot's core. -/
structure Packet where
  coord : Coord
  vf : Nat
  strand : BitVec 24
  /-- The pointer as the program formed it, for `c.rfptr` (R293). -/
  ptr : Dword
  route : Route
  op : PacketOp
  /-- The policy of the access (R137). -/
  policy : BitVec 2
  /-- Consecutive page faults of a flag post (R106); a held packet waits for `wake`, and is dropped when `c.now` of its die
  reaches the expiry that it carries (R249). -/
  pf : Nat
  held : Bool
  expires : Option Nat
  task : Standing
  /-- It is on its way to its peer; one packet of a slot is on its way to a device at a time (log 79). An access to this device that has
  still to perform: a later one of its slot has left for a peer, and it has left its core's port before that (R255). -/
  sent : Bool
  /-- The strand header with which it leaves its port (R249), for a packet that leaves before its strand ends and performs after that. -/
  hdr : Ingress
  /-- The pieces of its VF's spaces through which it is translated, or (held) waits to be (R142): host kind, VA, bytes; and
  whether an invalidation waits for it (R336). -/
  pages : List (Bool × Nat × Nat)
  stale : Bool
  /-- The packet goes through a service slot (xcluster, R294). -/
  xcluster : Bool
  /-- The timeline number that completes when the packet performs (root store, R311). -/
  completes : Option Nat
  /-- The launch of the task that made it, whose retirement notice waits for it (R269). -/
  launch : Option Dword
  deriving DecidableEq, Repr

/-- A waiter of a full/empty word (R149), in arrival order. -/
structure FeWaiter where
  word : Nat
  coord : Coord
  isLdf : Bool
  deriving DecidableEq, Repr

/-! ## Cores -/

structure Mailbox where
  value : Dword
  full : Bool
  /-- A send has succeeded and fills the mailbox once its sender's earlier accesses have performed (R186). -/
  coming : Bool
  slot : BitVec 4
  strand : BitVec 24
  deriving DecidableEq, Repr

def Mailbox.reset : Mailbox := { value := 0, full := false, coming := false, slot := 0, strand := 0 }

structure PtbEntry where
  valid : Bool
  logical : BitVec 52
  physical : BitVec 52
  deriving DecidableEq, Repr

def PtbEntry.reset : PtbEntry := { valid := false, logical := 0, physical := 0 }

/-- Progress of a chain entry (R195, R207). -/
inductive CopyPhase where
  | queued
  | running
  /-- Every payload packet has performed. -/
  | moved
  deriving DecidableEq, Repr

/-- A chain entry as `capp` appended it (R191 to R193). -/
structure CopyEntry where
  num : Nat
  entry : RPtr
  ctrl : Dword
  src : RPtr
  dst : RPtr
  stamp : RPtr
  shape : Dword
  strides : Dword
  opf : Dword
  strand : BitVec 24
  vf : Nat
  origin : BitVec 4
  status : BitVec 16
  truncated : Bool
  phase : CopyPhase
  /-- A gated entry whose pulse has come (R195). -/
  opened : Bool
  row : Nat
  /-- Bytes of the row already moved. -/
  col : Nat
  flags : BitVec 16
  /-- `qpack`'s snapshot (R201). -/
  table : DTable
  tnan : Byte
  /-- `selacc`'s fold (R202): maximum, sum, candidates (value, index), skipped. -/
  mx : Word
  sm : Word
  cands : List (Word × Word)
  skipped : Nat
  pf : Nat
  held : Bool
  /-- The peer whose answer the entry awaits (R290). -/
  asked : Option (BitVec 9)
  /-- Source bytes of the packet under way that peers have answered, by their offset; and all of them, once they are known. -/
  got : List (Nat × Byte)
  data : Option (List Byte)
  /-- Writes of its completion that have performed (R204): the record, then the status, then the stamp or sync word. -/
  stage : Nat
  deriving DecidableEq, Repr

/-- A copy context (R190): entries in flight, oldest first, and the highest number made eligible (R194). -/
structure CopyCtx where
  entries : List CopyEntry
  advanced : Nat
  deriving DecidableEq, Repr

/-- An active message (R294, R295). -/
structure Message where
  dwords : List Dword
  sender : Dword
  /-- The incarnation of the sender's device that an answer carries (R290). -/
  inc : Byte
  strand : BitVec 24
  vf : Nat
  /-- The message's number among those of this device, by which its sender knows the answer; 0 for a peer's. -/
  num : Nat
  deriving DecidableEq, Repr

structure Core where
  mb : Vector Mailbox 8
  lc : Vector Word 16
  tl : Vector Nat 8
  /-- The next number of each timeline. -/
  nextNum : Vector Nat 8
  /-- Numbers completed above the timeline's value: timeline and number. -/
  completed : List (Nat × Nat)
  /-- Waiters of landing counters in arrival order: counter, slot, amount (R211). -/
  lcWait : List (Nat × Coord × Word)
  tabA : DTable
  tabB : DTable
  ptb : Vector PtbEntry 64
  victim : BitVec 6
  ptbcfg : Dword
  pmiss : Dword
  /-- The slot that slot 13 serves (R331). -/
  serving : Option (BitVec 4)
  /-- The served slot's task was annulled during the service (R332). -/
  servedGone : Bool
  troute : Dword
  amvec : Dword
  amq : List Message
  /-- The rotation pointer P (R60). -/
  rot : BitVec 4
  cycle : Nat
  copy : Vector CopyCtx 4
  /-- The context whose packet the engine looks for next (R190). -/
  copyNext : Nat
  prefetch : List QEntry
  deriving DecidableEq, Repr

def Core.reset : Core :=
  { mb := Vector.replicate 8 Mailbox.reset, lc := Vector.replicate 16 0, tl := Vector.replicate 8 0
    nextNum := Vector.replicate 8 1, completed := [], lcWait := []
    tabA := presetE4M3, tabB := presetE5M2
    ptb := Vector.replicate 64 PtbEntry.reset, victim := 0, ptbcfg := 0, pmiss := 0, serving := none, servedGone := false
    troute := 0, amvec := 0, amq := [], rot := 0, cycle := 0
    copy := Vector.replicate 4 { entries := [], advanced := 0 }, copyNext := 0, prefetch := [] }

/-! ## Clusters -/

/-- A format context (R159). -/
structure FmtCtx where
  atype : BitVec 4
  btype : BitVec 4
  scale : Bool
  tabA : DTable
  tabB : DTable
  owner : Option Dword
  deriving DecidableEq, Repr

/-- R159 gives the types and the owner of a context after reset. That its scale mode is 0, and that its table copies hold the presets
of R107, is the model's choice (log 87). -/
def FmtCtx.reset : FmtCtx :=
  { atype := 15, btype := 15, scale := false, tabA := presetE4M3, tabB := presetE5M2, owner := none }

/-- The epilogue processor while it passes one element (R181): registers, flag, address, the element's place, the
stores the element has made so far, and the numerical flags. -/
structure EpiRun where
  e : Vector Word 8
  ef : Bool
  pc : Nat
  /-- The column index n (R181). -/
  n : Nat
  /-- The byte offset at which column 0 of the element's row starts in the target's local memory (R178). -/
  rowBase : Nat
  stores : List (Nat × List Byte)
  flags : BitVec 16
  /-- The element has ended (`eend`, or past address 255). -/
  ended : Bool
  /-- An illegal instruction was reached (R182). -/
  illegal : Bool
  deriving DecidableEq, Repr

def EpiRun.reset : EpiRun :=
  { e := Vector.replicate 8 0, ef := false, pc := 0, n := 0, rowBase := 0, stores := [], flags := 0
    ended := false, illegal := false }

inductive CmdPhase where
  /-- Sent and not yet accepted. -/
  | sent
  /-- Accepted; not started. -/
  | accepted
  /-- Started: its block steps run, or are suspended for a command of higher class. -/
  | running
  /-- Its drain is under way. -/
  | draining
  /-- Its last write has performed. -/
  | finished
  deriving DecidableEq, Repr

/-- A matrix command (R161, R174): the record as it was read at issue, its resolved pointers and its progress. -/
structure MCmd where
  num : Nat
  /-- Numbered on tl5 (`mdrain`) or tl4. -/
  onTl5 : Bool
  sender : Coord
  record : Vector Dword 8
  recPtr : RPtr
  a : RPtr
  b : RPtr
  sync : RPtr
  dest : BitVec 25
  strand : BitVec 24
  cls : BitVec 2
  vf : Nat
  /-- The instruction that sent it: 0 mma, 1 mmac, 2 mdrain, 3 mzero (R162). -/
  via : BitVec 2
  phase : CmdPhase
  /-- Held for the loom's pulse (R171). -/
  held : Bool
  status : BitVec 16
  flags : BitVec 16
  /-- The next block step: row block, column block, K-step. -/
  rb : Nat
  cb : Nat
  kb : Nat
  /-- The next output of the drain, and e4 to e7 (R181). -/
  dm : Nat
  dn : Nat
  persist : Vector Word 4
  /-- An epilogue ran for some element. -/
  ran : Bool
  pf : Nat
  faultHeld : Bool
  /-- The peer whose answer the command awaits, and the writes of its completion that have performed (R172): the sync word's, then
  the statistic, then the status. -/
  asked : Option (BitVec 9)
  stage : Nat
  deriving DecidableEq, Repr

/-- An `mxfmt` on its way to its unit (R160). -/
structure MxReq where
  num : Nat
  sender : Coord
  vf : Nat
  word : Dword
  tabA : DTable
  tabB : DTable
  deriving DecidableEq, Repr

/-- A shuttle send (R281, R284). -/
structure Send where
  src : RPtr
  srcAddr : Nat
  count : Nat
  head : Word
  held : Bool
  strand : BitVec 24
  core : BitVec 3
  slot : BitVec 4
  seq : Word
  num : Nat
  vf : Nat
  /-- Earlier accesses of its slot have still to perform (R284). -/
  waits : Bool
  /-- Its strand has been annulled on the die (R282). -/
  cut : Bool
  /-- Transmission has begun and the receiver accepted the send. -/
  started : Bool
  moved : Nat
  status : Byte
  /-- The trailer is written. -/
  trailed : Bool
  deriving DecidableEq, Repr

/-- A permit grant on its way (R280): permits, size field, granting cluster. -/
structure Grant where
  permits : Nat
  size : Byte
  source : BitVec 6
  deriving DecidableEq, Repr

/-- A publication walk (R311 to R314). -/
structure Walk where
  coord : Coord
  vf : Nat
  root : Dword
  slotPtr : Dword
  num : Nat
  /-- References still to be visited, top first; `spilled` older ones lie in the spill region. -/
  stack : List Dword
  spilled : Nat
  /-- References to be pushed next. -/
  todo : List Dword
  /-- Objects under another walk that this one waits for. -/
  waits : List Dword
  visits : Nat
  /-- Objects this walk holds in state 10: flat address of the header, and their arena (R256). -/
  marked : List (Nat × BitVec 20)
  /-- The root is walkable. -/
  walked : Bool
  suspended : Bool
  /-- Where the task that issued it stands (R342). -/
  task : Standing
  /-- Page faults in a row of the access that faulted last: its host kind and VA (R313). -/
  pf : Nat
  pfAt : Option (Bool × BitVec 48)
  held : Bool
  deriving DecidableEq, Repr

structure Cluster where
  bankmode : Word
  mcapsel : BitVec 6
  mcap : Sparse Dword
  /-- Accumulator elements that are not +0 (R158). -/
  acc : Sparse Word
  ctx : Vector FmtCtx 16
  epiI : Sparse (BitVec 16)
  epiD : Sparse Word
  epi : EpiRun
  cmds : List MCmd
  fmts : List MxReq
  /-- The command that the array works on: sender's key, and number with its timeline. -/
  running : Option (Coord × Bool × Nat)
  loomsel : Dword
  ct : Vector Dword 16
  term : Vector Dword 16
  line : Vector Dword 16
  shrx : Dword
  shtxEn : Bool
  shtxVf : BitVec 9
  shtxTarget : BitVec 6
  shtxSize : Byte
  permits : Nat
  seq : Word
  rd : Nat
  wr : Nat
  full : Nat
  resv : Nat
  /-- Slots whose `shrecv` copies a landing slot. -/
  taking : List Coord
  sends : List Send
  grants : List Grant
  walk : Option Walk
  walkQ : List Walk
  /-- Instruction blocks present in the cluster's instruction cache (R63), newest first: the number of the 32-byte block
  of the flat space, or 2^60 and a peer's block with its bytes. -/
  icache : List (Nat × List Byte)
  deriving DecidableEq, Repr

def Cluster.reset : Cluster :=
  { bankmode := 0x55550000, mcapsel := 0, mcap := [], acc := [], ctx := Vector.replicate 16 FmtCtx.reset
    epiI := [], epiD := [], epi := EpiRun.reset, cmds := [], fmts := [], running := none, loomsel := 0
    ct := Vector.replicate 16 0, term := Vector.replicate 16 0, line := Vector.replicate 16 0
    shrx := 0, shtxEn := false, shtxVf := 0, shtxTarget := 0, shtxSize := 0, permits := 0, seq := 0
    rd := 0, wr := 0, full := 0, resv := 0, taking := [], sends := [], grants := [], walk := none, walkQ := [], icache := [] }

/-! ## Dies -/

/-- A knot on a die (R213, R214). -/
structure Knot where
  word : Dword
  parity : Bool
  count : Nat
  /-- Core-mask rows, by cluster. -/
  rows : Sparse Byte
  /-- Arrivals sent and not yet counted. -/
  inFlight : List Coord
  deriving DecidableEq, Repr

def Knot.reset : Knot := { word := 0, parity := false, count := 0, rows := [], inFlight := [] }

structure Queue where
  /-- R231; the weight field resets to 1. -/
  cfg : Dword
  entries : List QEntry
  deriving DecidableEq, Repr

def Queue.reset : Queue := { cfg := 0x10000000000, entries := [] }

inductive StrandState where
  | free
  | live
  | ended (byCut : Bool)
  deriving DecidableEq, Repr

/-- A strand table entry (R246). -/
structure StrandEntry where
  state : StrandState
  isPly : Bool
  vf : Nat
  id : BitVec 24
  expiry : Nat
  ovf : Bool
  peers : List (BitVec 9)
  dies : Byte
  /-- Rows 6 and 7 of a strand. -/
  arenas : Vector Dword 2
  /-- Member strands of a ply. -/
  members : List (BitVec 24)
  deriving DecidableEq, Repr

def StrandEntry.reset : StrandEntry :=
  { state := .free, isPly := false, vf := 0, id := 0, expiry := 0, ovf := false, peers := [], dies := 0
    arenas := Vector.replicate 2 0, members := [] }

/-- A join record registered with a die's strand table (R220): its address and the watched parties. -/
structure JoinReg where
  addr : Nat
  parties : List (BitVec 4 × BitVec 24)
  deriving DecidableEq, Repr

inductive SkState where
  | resident
  | evicted
  | released
  deriving DecidableEq, Repr

/-- A directory entry (R262, R264, R266). -/
structure Skein where
  name : Dword
  /-- The packet that made the skein, which tells it from a later one of its name. -/
  made : Dword
  back : BitVec 27
  /-- Share size in units of 64 KiB. -/
  size : Nat
  banks : Bool
  matrixDies : Bool
  /-- Shares: die, cluster, byte offset within the die's stack or the cluster's banks. -/
  shares : List (BitVec 3 × BitVec 6 × Nat)
  lastAttach : Dword
  /-- The last-attach id before the latest attachment; the maker's own id for a skein that it made (R267). -/
  prevAttach : Dword
  pinned : Bool
  state : SkState
  /-- The id of the launch packet whose make or restore placed the shares (R267, R268); ids rise along a VF's launch queue, over a new
  base of it too. It tells the dies which placement of the skein has been brought in and which has been written back (`Vf.restored`,
  `Vf.wroteBack`; logs 17 and 54). -/
  placed : Nat
  /-- Open attachments: launch id and whether it is rw or make. -/
  attached : List (Dword × Bool)
  deriving DecidableEq, Repr

/-- A crew placed on a cluster of the die (R228). -/
structure Crew where
  launch : Dword
  index : Nat
  cluster : BitVec 6
  /-- The cores taken, in order; empty while the crew waits. -/
  cores : List (BitVec 3)
  started : Bool
  retired : Bool
  deriving DecidableEq, Repr

/-- A launch as a die knows it (R225, R227). -/
structure Launch where
  id : Dword
  vf : Nat
  packet : Vector Dword 16
  /-- Segment registers from the segment table (R226). -/
  segs : Vector (BitVec 128) 8
  skeins : List (Dword × Dword)
  supervisor : Bool
  crews : List Crew
  /-- Dies that placed crews of it and have not yet sent their retirement notice (R269). -/
  pending : List (BitVec 3)
  order : Nat
  deriving DecidableEq, Repr

structure Die where
  knsel : Dword
  knots : Sparse Knot
  qsel : BitVec 6
  queues : Sparse Queue
  occcfg : Dword
  stsel : Dword
  strands : Sparse StrandEntry
  linkb : Dword
  annsel : Dword
  /-- Annulment counters by VF × 16 + kind (R257). -/
  ann : Sparse Dword
  skvf : BitVec 9
  skcap : Sparse Dword
  dirs : Sparse (List Skein)
  walkspill : Sparse Dword
  killed : List (BitVec 20)
  joins : List JoinReg
  /-- Stage maps in force, by VF × 8 + die: one stage per cluster (R238). -/
  maps : Sparse (List Nat)
  launches : List Launch
  /-- Launches started so far, which orders "most recently started" (R231, R235). -/
  started : Nat
  /-- Queue entries appended so far, which orders those of equal expiry (R233). -/
  enqueued : Nat
  /-- Displaced tasks: slot key and queue, in the order in which they were displaced (R236). -/
  displaced : List (Nat × Nat)
  deriving DecidableEq, Repr

def Die.reset : Die :=
  { knsel := 0, knots := [], qsel := 0, queues := [], occcfg := 0, stsel := 0, strands := []
    linkb := 0x03E80FA00096003C, annsel := 0, ann := [], skvf := 0, skcap := [], dirs := [], walkspill := []
    killed := [], joins := [], maps := [], launches := [], started := 0, enqueued := 0
    displaced := [] }

/-! ## VFs and the device -/

/-- A fault record that waits for room in its queue (R141, R369). -/
structure FaultRec where
  dwords : List Dword
  deriving DecidableEq, Repr

/-- A slot record in the context area (R343): the slot, and the bytes 0xA00 to 0xA7F as they were written; and the record's bytes, while
those of a later task of the slot and VF lie in its place (log 50). -/
structure Saved where
  slot : Slot
  held : List Byte
  kept : Option (List Byte)
  deriving DecidableEq, Repr

/-- A whole-core record (R344): mailboxes, counters, tables, buffer and copy engine of the core, the movement slot that works
for it, the service of slot 13, and local memory with its tags and full states. -/
structure CoreRecord where
  mb : Vector Mailbox 8
  lc : Vector Word 16
  tl : Vector Nat 8
  nextNum : Vector Nat 8
  completed : List (Nat × Nat)
  tabA : DTable
  tabB : DTable
  ptb : Vector PtbEntry 64
  victim : BitVec 6
  copy : Vector CopyCtx 4
  mover : Slot
  serving : Option (BitVec 4)
  servedGone : Bool
  pmiss : Dword
  cells : List Host.Cell
  tags : Sparse (BitVec 2)
  full : List Nat
  deriving DecidableEq, Repr

/-- A cluster record (R344): accumulators, format contexts, epilogue images and held commands. -/
structure ClusterRecord where
  acc : Sparse Word
  ctx : Vector FmtCtx 16
  epiI : Sparse (BitVec 16)
  epiD : Sparse Word
  cmds : List MCmd
  fmts : List MxReq
  deriving DecidableEq, Repr

structure Vf where
  vmroot : Dword
  region : Vector Dword 4
  vftvec : Dword
  ctxarea : Dword
  fqwake : Dword
  domain : Vector Dword 8
  sqbase : Vector Dword 2
  sqsize : Vector Half 2
  lqbase : Dword
  lqsize : Half
  fqbase : Dword
  fqsize : Half
  ltol : Word
  /-- R366 offset 0x050: in progress, saved, refused. -/
  preempt : BitVec 3
  lastId : Dword
  /-- Directory packets and stage maps that wait for the launch port (R368), as their 16 dwords. -/
  portQ : List (Vector Dword 16)
  faults : List FaultRec
  /-- Slot contexts saved in the context area with the VF, by slot key (R342, R343). -/
  saved : Sparse Saved
  /-- The contexts of displaced tasks there: by how many tasks were displaced from the slot before, and then by slot key (R236). -/
  displaced : Sparse (Sparse Saved)
  /-- Whole-core records by core key and cluster records by cluster key (R344). -/
  savedCores : Sparse CoreRecord
  savedClusters : Sparse ClusterRecord
  /-- By a skein's name and the packet that made it, the last placement whose eviction has been written back (R268, log 17). -/
  wroteBack : List ((Dword × Dword) × Nat)
  /-- In the same way, the last placement whose shares have been cleared or read from their backing copies (R267, R268; log 54). -/
  restored : List ((Dword × Dword) × Nat)
  deriving DecidableEq, Repr

def Vf.reset : Vf :=
  { vmroot := 0, region := Vector.replicate 4 0, vftvec := 0, ctxarea := 0, fqwake := 0
    domain := Vector.replicate 8 0, sqbase := Vector.replicate 2 0, sqsize := Vector.replicate 2 0
    lqbase := 0, lqsize := 0, fqbase := 0, fqsize := 0, ltol := 0xFFFFFFFF, preempt := 0, lastId := 0
    portQ := [], faults := [], saved := [], displaced := [], savedCores := [], savedClusters := []
    wroteBack := [], restored := [] }

/-- Wake depths of R371. -/
inductive WakeDepth where
  | w0
  | w1
  | w2
  | w3
  deriving DecidableEq, Repr

/-- The outcome of a start-up step that the boot log holds (R373, R374). -/
inductive BootOutcome where
  | passed
  | failed
  | skipped
  deriving DecidableEq, Repr

structure Device where
  devno : BitVec 9
  /-- Ordering code KQD8-M14 (R1). -/
  m14 : Bool
  prsel : BitVec 9
  domsel : Dword
  peers : Sparse Dword
  incarn : Byte
  portsDown : BitVec 12
  /-- The incarnation recorded in the module flash (R287). -/
  flashIncarn : Byte
  /-- The boot log: step number and outcome, newest first (R373); number 9 stands for the success entry (R374). -/
  bootLog : List (BitVec 4 × BootOutcome)
  /-- Firmware slot in use: false A, true B (R373). -/
  fwSlotB : Bool
  /-- Optional steps skipped at the last start (R374). -/
  skipped : List (BitVec 4)
  /-- Firmware slots whose most recent start failed at a mandatory step: bit 0 A, bit 1 B (R374). -/
  failed : BitVec 2
  /-- The host link is held for recovery (R374). -/
  recovery : Bool
  booted : Bool
  /-- Queue entries that firmware copied into the flash (R376). -/
  flashCopy : List (Nat × List Byte)
  /-- Back-invalidations to be retried (R365). -/
  backInv : List Nat
  depth : WakeDepth
  /-- Dies whose clock is lowered (R22). -/
  throttled : Byte
  /-- Answers to SPDM requests given so far (R375): measurements with a signature. -/
  attested : List (List Byte)
  deriving DecidableEq, Repr

def Device.reset : Device :=
  { devno := 0, m14 := false, prsel := 0, domsel := 0, peers := [], incarn := 0, portsDown := 0
    flashIncarn := 0, bootLog := [], fwSlotB := false, skipped := [], failed := 0, recovery := false, booted := false
    flashCopy := [], backInv := [], depth := .w0, throttled := 0, attested := [] }

/-- An engine operation: the kind of engine, its owner's key and its number. -/
abbrev OpKey := Nat × Nat × Nat

/-- A cached translation (R142): the port's cluster key, VF, host kind, the VA's page (1 KiB units when subpaged, else
2 MiB), the leaf, its users and the stale mark (R336). -/
structure TEntry where
  port : Nat
  vf : Nat
  host : Bool
  page : Nat
  sub : Bool
  leaf : Dword
  /-- The engine operations that translate through the entry. -/
  users : List OpKey
  stale : Bool
  deriving DecidableEq, Repr

/-- What every request to a peer carries: the device, this device's incarnation and the one expected of the target (R290),
how many consecutive page faults the access has met (R141), and the strand header with its carried allowance (R249), whose VF is the
one whose VA space serves it there (R287). -/
structure OutHdr where
  dev : BitVec 9
  inc : Byte
  targetInc : Byte
  pf : Nat
  hdr : Ingress
  deriving DecidableEq, Repr

/-- What leaves the device for others to see. -/
inductive Out where
  /-- An answer to a peer's request, with the requester's incarnation (R290). -/
  | peerAnswer (dev : BitVec 9) (inc : Byte) (r : Reply)
  /-- A waited access of a slot, at a VA there, and the policy of its segment. -/
  | peerRequest (h : OutHdr) (c : Coord) (va : BitVec 48) (policy : BitVec 2) (op : PeerOp)
  /-- A posted access of a slot. -/
  | peerPosted (h : OutHdr) (c : Coord) (va : BitVec 48) (policy : BitVec 2) (op : PacketOp)
  /-- A read or write of an engine, at a VA there, for the core that handed the operation over. -/
  | peerRead (h : OutHdr) (c : Coord) (va : BitVec 48) (policy : BitVec 2) (n : Nat)
  | peerWrite (h : OutHdr) (c : Coord) (va : BitVec 48) (policy : BitVec 2) (op : PacketOp)
  /-- A message, wake or cut sent to a peer. -/
  | peerMessage (h : OutHdr) (num : Nat) (c : Dword) (dwords : List Dword)
  | peerWake (h : OutHdr) (c : Dword)
  | peerCut (h : OutHdr) (id : BitVec 24)
  /-- An answer to a host request (R365, R366). -/
  | hostAnswer (bytes : List Byte)
  deriving DecidableEq, Repr

/-! ## Memory -/

/-- All memory of the device and of its host as one flat space (log 9): bytes, tags, full/empty states, the
directory's PRIVATE owners with the owners' copies, and what the caches hold. An unlisted byte reads 0 (log 5). -/
structure Memory where
  cells : List Host.Cell
  /-- Tags by word number (R133). -/
  tags : Sparse (BitVec 2)
  /-- Words in the state full (R135), ascending. -/
  full : List Nat
  /-- Lines in state PRIVATE(c), with the key of cluster c (R309). -/
  owner : Sparse Nat
  /-- The owners' copies of PRIVATE lines. -/
  pcells : List Host.Cell
  ptags : Sparse (BitVec 2)
  /-- Coherent lines of which a cluster holds the only modified copy (R136). -/
  dirty : Sparse Nat
  /-- Clusters that the directory lists for a line (R136). -/
  sharers : Sparse (List Nat)
  /-- Clusters whose cache holds a copy of a line. -/
  copies : Sparse (List Nat)
  /-- Writes performed to a line so far (R212). -/
  vers : Sparse Nat
  /-- Lines whose last write came over the host link (R368). -/
  hostLines : List Nat
  /-- 4 KiB pages of host-shared memory in host bias (R365, log 24). -/
  hostBias : List Nat
  deriving DecidableEq, Repr

def Memory.reset : Memory :=
  { cells := [], tags := [], full := [], owner := [], pcells := [], ptags := [], dirty := [], sharers := []
    copies := [], vers := [], hostLines := [], hostBias := [] }

/-! ## The whole machine -/

/-- What the next step does. -/
inductive Turn where
  /-- One cycle of a core (R60). -/
  | cycle (c : Coord)
  /-- One epilogue word of the cluster's epilogue processor (R181). -/
  | epilogue (c : Coord)
  /-- A machine event of the table, and what it concerns. -/
  | event (i : Instr) (a : EvArg)
  deriving DecidableEq, Repr

/-- A request to a peer whose answer nothing of this device waits for: a wake, a cut, or an access of a task that has ended or been saved
meanwhile (R255, R291, R342). -/
structure Loose where
  coord : Coord
  dev : BitVec 9
  vf : Nat
  /-- The launch of the task that made it, and whether it writes: its retirement notice waits for that (R269). -/
  launch : Option Dword
  stores : Bool
  deriving DecidableEq, Repr

/-- A peer's packet that a page fault holds at the port of a die (R249): its sender, header, and the expiry that it carries by that die's
clock; and whether it has been dropped since. -/
structure HeldPeer where
  die : BitVec 3
  source : BitVec 9
  sender : Dword
  id : BitVec 24
  vf : Nat
  expires : Option Nat
  dropped : Bool
  deriving DecidableEq, Repr

structure State where
  agenda : List Turn
  focus : Coord
  cur : Coord
  /-- What the machine event that runs concerns (log 14). -/
  arg : EvArg
  unit : Coord
  steps : Nat
  fresh : Nat
  /-- `c.now` of each die (R244, R341). -/
  clock : Vector Nat 8
  mem : Memory
  port : List Packet
  feq : List FeWaiter
  tcache : List TEntry
  /-- Messages on their way or kept at their senders: target core, and the message. -/
  msgs : List (Coord × Message)
  /-- Active messages sent so far. -/
  msgNum : Nat
  loose : List Loose
  /-- Packets of peers that page faults hold at this device's ports. -/
  heldPeers : List HeldPeer
  out : List Out
  slots : Sparse Slot
  cores : Sparse Core
  clusters : Sparse Cluster
  dies : Sparse Die
  vfs : Sparse Vf
  dev : Device
  deriving DecidableEq, Repr

/-- Why the machine stops for good. -/
inductive Fault where
  /-- Raised by a step that finds no turn it can take because the device is held for recovery (R374): no core runs.
  Safe: the spec gives the device no further step. -/
  | recovery
  deriving DecidableEq, Repr

/-- Why a step has no meaning. -/
inductive Refusal where
  /-- An instruction that has no meaning yet, by its mnemonic: raised by its arm of `exec`. Safe. -/
  | notModelled (mnemonic : String)
  deriving DecidableEq, Repr

/-- The module right after reset. -/
def State.reset : State :=
  { agenda := [], focus := Coord.zero, cur := Coord.zero, arg := EvArg.at Coord.zero, unit := Coord.zero, steps := 0, fresh := 0
    clock := Vector.replicate 8 0
    mem := Memory.reset, port := [], feq := [], tcache := [], msgs := [], msgNum := 0, loose := [], heldPeers := []
    out := []
    slots := [], cores := [], clusters := [], dies := [], vfs := [], dev := Device.reset }

end Sys2Proof.Machine
end

