-- ==== Sys2Proof/Machine/Basic.lean ====
section
/-! DEFINITION. Small helpers: sparse tables, bit fields, byte order, coordinates (R2, R13, R14). -/
namespace Sys2Proof.Machine

/-- What a step answers. -/
abbrev Res := Host.Outcome State Fault Refusal

/-! ## Sparse tables -/

/-- The entry of a key, if listed. -/
def Sparse.find? {α : Type} (t : Sparse α) (k : Nat) : Option α :=
  match t with
  | [] => none
  | (k', v) :: r => if k' = k then some v else Sparse.find? r k

/-- The value of a key; `d` is the value of an unlisted key. -/
def Sparse.get {α : Type} (t : Sparse α) (k : Nat) (d : α) : α := (Sparse.find? t k).getD d

/-- Sets a key, keeping the keys ascending. -/
def Sparse.set {α : Type} (t : Sparse α) (k : Nat) (v : α) : Sparse α :=
  match t with
  | [] => [(k, v)]
  | (k', v') :: r =>
    if k' < k then (k', v') :: Sparse.set r k v
    else if k' = k then (k, v) :: r
    else (k, v) :: (k', v') :: r

/-- Removes a key. -/
def Sparse.erase {α : Type} (t : Sparse α) (k : Nat) : Sparse α :=
  match t with
  | [] => []
  | (k', v') :: r => if k' = k then Sparse.erase r k else (k', v') :: Sparse.erase r k

/-- Sets a key, or removes it where the value is the one an unlisted key has. -/
def Sparse.put {α : Type} [DecidableEq α] (t : Sparse α) (k : Nat) (v d : α) : Sparse α :=
  if v = d then Sparse.erase t k else Sparse.set t k v

/-! ## Fields -/

/-- A field as a number (R2). -/
def fldN {n : Nat} (w : BitVec n) (lo len : Nat) : Nat := (fld w lo len).toNat

/-- `w` with the field of `len` bits at `lo` replaced. -/
def putFld {n len : Nat} (w : BitVec n) (lo : Nat) (v : BitVec len) : BitVec n :=
  (w &&& ~~~((BitVec.allOnes len).setWidth n <<< lo)) ||| (v.setWidth n <<< lo)

/-- Bit `i`. -/
def bit {n : Nat} (w : BitVec n) (i : Nat) : Bool := w.getLsbD i

/-- R67: zero extension of the low `n` bits. -/
def zext (x : Dword) (n : Nat) : Dword := (x.setWidth n).setWidth 64
/-- R67: sign extension of the low `n` bits. -/
def sext (x : Dword) (n : Nat) : Dword := (x.setWidth n).signExtend 64

/-- All ones or all zeros (R66). -/
def ones (b : Bool) : Dword := if b then BitVec.allOnes 64 else 0

/-! ## Bytes -/

/-- The low `n` bytes of a number, lowest address first (R2). -/
def leBytes : Nat → Nat → List Byte
  | 0, _ => []
  | n + 1, x => BitVec.ofNat 8 x :: leBytes n (x / 256)

/-- The number that bytes hold, lowest address first (R2). -/
def leNat : List Byte → Nat
  | [] => 0
  | b :: r => b.toNat + 256 * leNat r

/-- Eight bytes as a dword. -/
def leDword (l : List Byte) : Dword := BitVec.ofNat 64 (leNat l)

/-- Consecutive dwords of a byte list. -/
def leDwords : Nat → List Byte → List Dword
  | 0, _ => []
  | n + 1, l => leDword (l.take 8) :: leDwords n (l.drop 8)

/-! ## Lists -/

/-- Maps a check over a list and stops at the first refusal. -/
def collect {α β ε : Type} (f : α → Except ε β) : List α → Except ε (List β)
  | [] => .ok []
  | a :: r =>
    match f a with
    | .error e => .error e
    | .ok b =>
      match collect f r with
      | .error e => .error e
      | .ok bs => .ok (b :: bs)

/-- Insertion in ascending order of a key, after equal keys. -/
def insertBy {α : Type} (key : α → Nat) (x : α) : List α → List α
  | [] => [x]
  | y :: r => if key x < key y then x :: y :: r else y :: insertBy key x r

/-- Stable sort in ascending order of a key. -/
def sortBy {α : Type} (key : α → Nat) (l : List α) : List α := l.foldl (fun acc x => insertBy key x acc) []

/-- The first element that satisfies `p`, and the list without it. -/
def takeFirst {α : Type} (p : α → Bool) : List α → Option (α × List α)
  | [] => none
  | x :: r =>
    if p x then some (x, r)
    else
      match takeFirst p r with
      | none => none
      | some (y, r') => some (y, x :: r')

/-- Replaces the first element that satisfies `p`. -/
def updFirst {α : Type} (p : α → Bool) (f : α → α) : List α → List α
  | [] => []
  | x :: r => if p x then f x :: r else x :: updFirst p f r

/-- Pieces of `[start, start + n)` that do not cross a multiple of `g`; `fuel` bounds their number, and `n` of it is enough. -/
def pieces (g : Nat) : Nat → Nat → Nat → List (Nat × Nat)
  | 0, _, _ => []
  | fuel + 1, start, n =>
    if n = 0 then []
    else
      let room := g - start % g
      if n ≤ room then [(start, n)] else (start, room) :: pieces g fuel (start + room) (n - room)

/-! ## Coordinates -/

/-- The number of clusters of a die (R10, R18). -/
def clusterCount (die : BitVec 3) : Nat := if die.getLsbD 2 then 48 else 24

/-- Matrix dies are dies 4 to 7 (R10). -/
def isMatrix (die : BitVec 3) : Bool := die.getLsbD 2

/-- R14: the coordinate names a cluster. -/
def Coord.ok (c : Coord) : Bool := c.cluster.toNat < clusterCount c.die

def Coord.clusterKey (c : Coord) : Nat := c.die.toNat * 64 + c.cluster.toNat
def Coord.coreKey (c : Coord) : Nat := c.clusterKey * 8 + c.core.toNat
def Coord.key (c : Coord) : Nat := c.coreKey * 16 + c.slot.toNat

/-- The coordinate whose key is `k`. -/
def Coord.ofKey (k : Nat) : Coord :=
  { die := BitVec.ofNat 3 (k / 8192), cluster := BitVec.ofNat 6 (k / 128), core := BitVec.ofNat 3 (k / 16)
    slot := BitVec.ofNat 4 k }

/-- The coordinate in bits 15:0 of a dword laid out as `c.coord` (R13). -/
def Coord.ofBits (x : Dword) : Coord :=
  { die := fld x 13 3, cluster := fld x 7 6, core := fld x 4 3, slot := fld x 0 4 }

/-- The layout of `c.coord` (R13) for a device. -/
def Coord.bits (dev : BitVec 9) (c : Coord) : Dword :=
  BitVec.ofNat 64 (dev.toNat * 65536 + c.die.toNat * 8192 + c.cluster.toNat * 128 + c.core.toNat * 16 + c.slot.toNat)

/-- A coordinate with another slot number. -/
def Coord.at (c : Coord) (slot : BitVec 4) : Coord := { c with slot := slot }

/-- The 16 slots of a core. -/
def Coord.slots (c : Coord) : List Coord := (List.range 16).map fun i => c.at (BitVec.ofNat 4 i)

/-- A die's place. -/
def dieCoord (die : BitVec 3) : Coord := { die := die, cluster := 0, core := 0, slot := 0 }

def allDies : List (BitVec 3) := [0, 1, 2, 3, 4, 5, 6, 7]

/-- The clusters of a die, ascending. -/
def clustersOf (die : BitVec 3) : List (BitVec 6) := (List.range (clusterCount die)).map (BitVec.ofNat 6)

/-! ## Access to the records of the state -/

def State.slot (s : State) (c : Coord) : Slot := s.slots.get c.key Slot.reset
def State.setSlot (s : State) (c : Coord) (x : Slot) : State := { s with slots := s.slots.set c.key x }
def State.modSlot (s : State) (c : Coord) (f : Slot → Slot) : State := s.setSlot c (f (s.slot c))
/-- The slot whose instruction runs. -/
def State.me (s : State) : Slot := s.slot s.cur
def State.modMe (s : State) (f : Slot → Slot) : State := s.modSlot s.cur f

def State.core (s : State) (c : Coord) : Core := s.cores.get c.coreKey Core.reset
def State.setCore (s : State) (c : Coord) (x : Core) : State := { s with cores := s.cores.set c.coreKey x }
def State.modCore (s : State) (c : Coord) (f : Core → Core) : State := s.setCore c (f (s.core c))

def State.cluster (s : State) (c : Coord) : Cluster := s.clusters.get c.clusterKey Cluster.reset
def State.setCluster (s : State) (c : Coord) (x : Cluster) : State :=
  { s with clusters := s.clusters.set c.clusterKey x }
def State.modCluster (s : State) (c : Coord) (f : Cluster → Cluster) : State := s.setCluster c (f (s.cluster c))

def State.die (s : State) (d : BitVec 3) : Die := s.dies.get d.toNat Die.reset
def State.setDie (s : State) (d : BitVec 3) (x : Die) : State := { s with dies := s.dies.set d.toNat x }
def State.modDie (s : State) (d : BitVec 3) (f : Die → Die) : State := s.setDie d (f (s.die d))

def State.vf (s : State) (v : Nat) : Vf := s.vfs.get v Vf.reset
def State.setVf (s : State) (v : Nat) (x : Vf) : State := { s with vfs := s.vfs.set v x }
def State.modVf (s : State) (v : Nat) (f : Vf → Vf) : State := s.setVf v (f (s.vf v))

/-- The VF is being pre-empted, or saved (R370). -/
def State.paused (s : State) (v : Nat) : Bool := fldN (s.vf v).preempt 0 2 != 0

/-- Puts a machine event at the end of the agenda (log 1). -/
def State.later (s : State) (i : Instr) (a : EvArg) : State := { s with agenda := s.agenda ++ [.event i a] }

/-- The same for several events. -/
def State.laters (s : State) (is : List (Instr × EvArg)) : State :=
  { s with agenda := s.agenda ++ is.map fun e => .event e.1 e.2 }

/-- An event about a place with a number. -/
def EvArg.num (c : Coord) (n : Nat) : EvArg := { EvArg.at c with n := n }
/-- An event about a VF. -/
def EvArg.ofVf (vf : Nat) : EvArg := { EvArg.at Coord.zero with vf := vf }
/-- An event about a VF on a die. -/
def EvArg.dieVf (d : BitVec 3) (vf : Nat) : EvArg := { EvArg.at (dieCoord d) with vf := vf }

/-! ## Registers of a slot (R65, R66, R96) -/

def Slot.rg (x : Slot) (r : BitVec 5) : Dword := if r = 0 then 0 else x.g.get r.toFin
def Slot.wg (x : Slot) (r : BitVec 5) (v : Dword) : Slot := if r = 0 then x else { x with g := x.g.set r.toNat v }
def Slot.rk (x : Slot) (k : BitVec 3) : Dword := if k = 0 then BitVec.allOnes 64 else x.k.get k.toFin
def Slot.wk (x : Slot) (k : BitVec 3) (v : Dword) : Slot := if k = 0 then x else { x with k := x.k.set k.toNat v }
def Slot.rv (x : Slot) (r : BitVec 5) : VReg := x.v.get r.toFin
def Slot.wv (x : Slot) (r : BitVec 5) (v : VReg) : Slot := { x with v := x.v.set r.toNat v }
def Slot.rsg (x : Slot) (n : BitVec 3) : BitVec 128 := x.sg.get n.toFin

/-- The segment register that a pointer selects (R126). -/
def Slot.segOf (x : Slot) (p : Dword) : BitVec 128 := x.rsg (fld p 61 3)

def State.rg (s : State) (r : BitVec 5) : Dword := s.me.rg r
def State.wg (s : State) (r : BitVec 5) (v : Dword) : State := s.modMe (·.wg r v)
def State.rk (s : State) (k : BitVec 3) : Dword := s.me.rk k
def State.wk (s : State) (k : BitVec 3) (v : Dword) : State := s.modMe (·.wk k v)
def State.rv (s : State) (r : BitVec 5) : VReg := s.me.rv r
def State.wv (s : State) (r : BitVec 5) (v : VReg) : State := s.modMe (·.wv r v)

/-- A pointer resolved through the current slot's segment registers (R165, R191). -/
def State.rptr (s : State) (p : Dword) : RPtr := { p := p, seg := s.me.segOf p }

/-- R318: slot 15 is always privileged. -/
def State.privileged (s : State) (c : Coord) : Bool := bit (s.slot c).status 0 || c.slot == 15

/-! ## Pointers and the program counter (R64, R126) -/

/-- Offset arithmetic modulo 2^60; bits 63:60 are kept. -/
def ptrAdd (p : Dword) (d : BitVec 60) : Dword := fld p 60 4 ++ (fld p 0 60 + d)

/-- The next state of a slot's pc and frame when its instruction of `n` bytes completes (R94). -/
def Slot.next (x : Slot) (n : Nat) : Slot :=
  match x.frame with
  | none => { x with pc := ptrAdd x.pc (BitVec.ofNat 60 n) }
  | some f =>
    if f.idx + 1 < f.len then
      { x with pc := ptrAdd f.base (BitVec.ofNat 60 (4 * (f.idx + 1))), frame := some { f with idx := f.idx + 1 } }
    else if f.pass + 1 < f.count then
      { x with pc := f.base, frame := some { f with idx := 0, pass := f.pass + 1 } }
    else { x with pc := ptrAdd f.base (BitVec.ofNat 60 (4 * f.len)), frame := none }

/-- The instruction is complete: the slot is in the rotation at the next instruction, and its page-fault count is 0
(R141). -/
def Slot.done (x : Slot) (n : Nat) : Slot :=
  { x.next n with hold := none, pfCount := 0, cappPos := none, elems := [] }

/-- The current slot's instruction of `n` bytes completes. -/
def State.advance (s : State) (n : Nat) : State := s.modMe (·.done n)

/-- A held slot's instruction completes when it returns (R62). -/
def State.complete (s : State) (c : Coord) (n : Nat) : State := s.modSlot c (·.done n)

/-- R62: the current slot leaves the rotation. -/
def State.leave (s : State) (h : Hold) : State := s.modMe fun x => { x with hold := some h }

/-! ## Eligibility (R60) -/

/-- R60: live, in the rotation, and not issued in the last 7 cycles. -/
def Slot.eligible (x : Slot) (cycle : Nat) : Bool :=
  x.live && x.hold.isNone && match x.lastIssue with | none => true | some l => l + 8 ≤ cycle

/-- The lowest full mailbox of mailboxes 0 to 3, which the firmware takes next (R26; log 13). -/
def Core.fwWork (k : Core) : Option Nat := (List.range 4).find? fun n => (k.mb.getD n Mailbox.reset).full

/-- The slot may issue in this cycle: an eligible slot, unless its VF is being pre-empted (R342); one that runs the firmware only where
a descriptor waits or a chain is unfinished (log 13). -/
def State.mayIssue (s : State) (c : Coord) : Bool :=
  let k := s.core c
  let x := s.slot c
  x.eligible k.cycle && (!x.fw || x.cappPos.isSome || k.fwWork.isSome) && !((!x.fw || x.cappPos.isSome) && s.paused x.vf)

end Sys2Proof.Machine
end

