-- ==== Sys2Proof/Machine/Mem.lean ====
section
/-! DEFINITION. Memory as data: bytes, tags, full/empty states, PRIVATE lines; and the way from a pointer to the bytes
it names: segments (R126 to R130), the position translation buffer (R143), paging (R138 to R142), and the checks at
the home (R146). -/
namespace Sys2Proof.Machine

/-! ## Bytes -/

/-- The byte at an address; an unlisted byte reads 0 (log 5). -/
def cellGet (l : List Host.Cell) (a : Nat) : Byte :=
  match l with
  | [] => 0
  | (x, y) :: r => if x = a then y else cellGet r a

/-- Writes one byte and keeps the canonical form: addresses rising, no zero listed. -/
def cellSet (l : List Host.Cell) (a : Nat) (b : Byte) : List Host.Cell :=
  match l with
  | [] => if b = 0 then [] else [(a, b)]
  | (x, y) :: r =>
    if x < a then (x, y) :: cellSet r a b
    else if x = a then (if b = 0 then r else (a, b) :: r)
    else if b = 0 then (x, y) :: r
    else (a, b) :: (x, y) :: r

/-- The canonical form of a cell list. -/
def cellsWf (l : List Host.Cell) : Bool :=
  match l with
  | [] => true
  | [(_, y)] => y != 0
  | (x, y) :: (x', y') :: r => y != 0 && x < x' && cellsWf ((x', y') :: r)

/-- The canonical form of memory. -/
def Memory.wf (m : Memory) : Bool := cellsWf m.cells && cellsWf m.pcells

/-- The line of an address (R3). -/
def lineOf (a : Nat) : Nat := a / 128
/-- The aligned 8-byte word of an address. -/
def wordOf (a : Nat) : Nat := a / 8

/-- Where host memory starts in the flat space (log 9). -/
def hostBase : Nat := 2 ^ 53
def localBase : Nat := 2 ^ 49
def bankBase : Nat := 2 ^ 48
def stackBase : Nat := 2 ^ 44

/-- The flat address of byte `b` of a core's local memory. -/
def localAddr (coreKey b : Nat) : Nat := localBase + coreKey * 2 ^ 16 + b
/-- The flat address of byte `b` of a cluster's banks. -/
def bankAddr (clusterKey b : Nat) : Nat := bankBase + clusterKey * 2 ^ 21 + b
/-- The flat address of byte `b` of a die's stack. -/
def stackAddr (die b : Nat) : Nat := stackBase + die * 2 ^ 40 + b
/-- The flat address of a device physical address (R138): die in bits 42:40. -/
def lpddrAddr (pa : Nat) : Nat := pa

/-- Local memory, banks, stack and LPDDR carry tags (R133). -/
def hasTag (a : Nat) : Bool := a < hostBase
/-- Local memory, banks and stack carry a full/empty state (R135). -/
def hasFull (a : Nat) : Bool := stackBase ≤ a && a < hostBase

/-- The home of an address (R298): the die, cluster and core that hold it, as far as it has one. -/
inductive Home where
  | core (key : Nat)
  | bank (clusterKey : Nat)
  | stack (die : Nat) (cluster : Nat)
  | lpddr (die : Nat)
  | host
  deriving DecidableEq, Repr

/-- The home of a flat address. -/
def homeOf (a : Nat) : Home :=
  if a < stackBase then .lpddr (a / 2 ^ 40)
  else if a < bankBase then
    let die := (a - stackBase) / 2 ^ 40
    .stack die (a % 2 ^ 40 / (if die < 4 then 2 ^ 26 else 2 ^ 24))
  else if a < localBase then .bank ((a - bankBase) / 2 ^ 21)
  else if a < hostBase then .core ((a - localBase) / 2 ^ 16)
  else .host

/-- The die that holds an address of the device. -/
def homeDie (a : Nat) : Option Nat :=
  match homeOf a with
  | .core k => some (k / 512)
  | .bank k => some (k / 64)
  | .stack d _ => some d
  | .lpddr d => some d
  | .host => none

/-- R298: a scope of `fence` (0 core to 4 sys) contains the home of an address, seen from a slot. A line held PRIVATE
by the slot's cluster is of cluster scope. -/
def inScope (scope : Nat) (c : Coord) (priv : Bool) (a : Nat) : Bool :=
  let mine : Nat :=
    match homeOf a with
    | .core k => if k = c.coreKey then 0 else if k / 512 = c.die.toNat then 2 else 3
    | .bank k => if k = c.clusterKey then 1 else if k / 64 = c.die.toNat then 2 else 3
    | .stack d cl =>
      if d = c.die.toNat then (if cl = c.cluster.toNat then 1 else 2) else 3
    | .lpddr d => if d = c.die.toNat then 2 else 3
    | .host => 4
  (if priv then min mine 1 else mine) ≤ scope

/-- The cluster that owns a line in state PRIVATE (R309). -/
def Memory.ownerOf (m : Memory) (a : Nat) : Option Nat := m.owner.find? (lineOf a)

/-- The byte an agent that may access the line reads. -/
def Memory.byte (m : Memory) (a : Nat) : Byte :=
  match m.ownerOf a with
  | some _ => cellGet m.pcells a
  | none => cellGet m.cells a

/-- The bytes at a list of addresses. -/
def Memory.bytesAt (m : Memory) (addrs : List Nat) : List Byte := addrs.map m.byte

/-- `n` consecutive bytes. -/
def Memory.read (m : Memory) (a n : Nat) : List Byte := (List.range n).map fun i => m.byte (a + i)

/-- A little-endian number of `n` bytes. -/
def Memory.readNat (m : Memory) (a n : Nat) : Nat := leNat (m.read a n)

def Memory.dword (m : Memory) (a : Nat) : Dword := BitVec.ofNat 64 (m.readNat a 8)

/-- The tag of the word that holds an address (R133). -/
def Memory.tag (m : Memory) (a : Nat) : BitVec 2 :=
  match m.ownerOf a with
  | some _ => m.ptags.get (wordOf a) 0
  | none => m.tags.get (wordOf a) 0

def Memory.setTag (m : Memory) (a : Nat) (t : BitVec 2) : Memory :=
  if hasTag a then
    match m.ownerOf a with
    | some _ => { m with ptags := m.ptags.put (wordOf a) t 0 }
    | none => { m with tags := m.tags.put (wordOf a) t 0 }
  else m

def Memory.setByte (m : Memory) (a : Nat) (b : Byte) : Memory :=
  match m.ownerOf a with
  | some _ => { m with pcells := cellSet m.pcells a b }
  | none => { m with cells := cellSet m.cells a b }

/-- Counts a write of the device to the line of an address (R212). -/
def Memory.bump (m : Memory) (a : Nat) : Memory :=
  { m with
    vers := m.vers.set (lineOf a) (m.vers.get (lineOf a) 0 + 1)
    hostLines := m.hostLines.filter (· != lineOf a) }

/-- One store event: bytes at addresses, and the tag of every word touched (R133). -/
def Memory.store (m : Memory) (bytes : List (Nat × Byte)) (tag : BitVec 2) : Memory :=
  bytes.foldl (fun m ab => ((m.setByte ab.1 ab.2).setTag ab.1 tag).bump ab.1) m

/-- The full/empty state of the word that holds an address. -/
def Memory.isFull (m : Memory) (a : Nat) : Bool := m.full.contains (wordOf a)

def Memory.setFull (m : Memory) (a : Nat) (f : Bool) : Memory :=
  let rest := m.full.filter (· != wordOf a)
  { m with full := if f then insertBy id (wordOf a) rest else rest }

/-- The words of a range lose full states. -/
def Memory.clearFull (m : Memory) (lo n : Nat) : Memory :=
  { m with full := m.full.filter fun w => w < lo / 8 || lo / 8 + n / 8 ≤ w }

/-! ## Lines -/

/-- The cells of a line. -/
def lineCells (l : List Host.Cell) (line : Nat) : List Host.Cell := l.filter fun c => lineOf c.1 == line

/-- The tags of a line. -/
def lineTags (t : Sparse (BitVec 2)) (line : Nat) : Sparse (BitVec 2) := t.filter fun e => e.1 / 16 == line

/-- The cells outside a line. -/
def dropLineCells (l : List Host.Cell) (line : Nat) : List Host.Cell := l.filter fun c => lineOf c.1 != line

def dropLineTags (t : Sparse (BitVec 2)) (line : Nat) : Sparse (BitVec 2) := t.filter fun e => e.1 / 16 != line

/-- Copies the owner's copy of a PRIVATE line to its home; the line stays PRIVATE (R156, flush). -/
def Memory.writeBack (m : Memory) (line : Nat) : Memory :=
  { m with
    cells := (lineCells m.pcells line).foldl (fun l c => cellSet l c.1 c.2) (dropLineCells m.cells line)
    tags := (lineTags m.ptags line).foldl (fun t e => t.set e.1 e.2) (dropLineTags m.tags line) }

/-- Drops the owner's copy: the line is published with the home's value (R256, R309). -/
def Memory.dropPrivate (m : Memory) (line : Nat) : Memory :=
  { m with
    owner := m.owner.erase line
    dirty := m.dirty.erase line
    pcells := dropLineCells m.pcells line
    ptags := dropLineTags m.ptags line }

/-- Writes back and publishes a PRIVATE line (R312). -/
def Memory.publish (m : Memory) (line : Nat) : Memory :=
  match m.owner.find? line with
  | some _ => ((m.writeBack line).dropPrivate line).bump (line * 128)
  | none => m

/-- What every cache holds of a line is dropped, and the directory lists nobody (R136). -/
def Memory.uncache (m : Memory) (line : Nat) : Memory :=
  { m with dirty := m.dirty.erase line, sharers := m.sharers.erase line, copies := m.copies.erase line }

/-- The line lies in a page of host bias, where the device's accesses go to the host for coherence (R365). -/
def Memory.hostBiased (m : Memory) (line : Nat) : Bool := m.hostBias.contains (line / 32)

/-- Every copy that the device holds of a line is invalidated, a PRIVATE one written back first (R365). -/
def Memory.invalidate (m : Memory) (line : Nat) : Memory :=
  (match m.owner.find? line with | some _ => (m.writeBack line).dropPrivate line | none => m).uncache line

/-- The owner of a PRIVATE line has modified its copy (R137). -/
def Memory.modified (m : Memory) (line : Nat) : Memory :=
  match m.owner.find? line with
  | some c => { m with dirty := m.dirty.set line c }
  | none => m

/-- `zline` at the home (R156, R309): zeros, tags 00, empty states, no cached copy; PRIVATE to `owner` if given. -/
def Memory.zeroLine (m : Memory) (line : Nat) (owner : Option Nat) : Memory :=
  let m := (m.dropPrivate line).uncache line
  let m := { m with cells := dropLineCells m.cells line, tags := dropLineTags m.tags line }
  let m := (m.clearFull (line * 128) 128).bump (line * 128)
  match owner with
  | some c => { m with owner := m.owner.set line c }
  | none => m

/-- A cluster takes a copy of a line; a cluster that has modified the line stays its owner, with the only modified copy (R136, R137). -/
def Memory.share (m : Memory) (line cl : Nat) : Memory :=
  let add (l : List Nat) : List Nat := if l.contains cl then l else insertBy id cl l
  { m with
    copies := m.copies.set line (add (m.copies.get line []))
    sharers := m.sharers.set line (add (m.sharers.get line [])) }

/-- A cluster writes a line through the directory and holds the only, modified copy (R136). -/
def Memory.own (m : Memory) (line cl : Nat) : Memory :=
  { m with copies := m.copies.set line [cl], sharers := m.sharers.set line [cl], dirty := m.dirty.set line cl }

/-- Tag 11 in every word of a line (R137). -/
def Memory.poisonLine (m : Memory) (line : Nat) : Memory :=
  (List.range 16).foldl (fun m i => m.setTag (line * 128 + i * 8) 3) m

/-- The modified copy of a line goes to its home, whichever cluster holds it, and stays valid and clean (R156). -/
def Memory.clean (m : Memory) (line : Nat) : Memory :=
  let m := match m.owner.find? line with | some _ => m.writeBack line | none => m
  { m with dirty := m.dirty.erase line }

/-- The directory's part of a write of the device's own to a line (R136): a PRIVATE line's owner holds it modified (R137), and the copies
of a published line are invalidated. -/
def Memory.deviceWrites (m : Memory) (line : Nat) : Memory :=
  match m.owner.find? line with
  | some _ => m.modified line
  | none => m.uncache line

/-- A range of memory becomes zero with tags 00 and empty states (R131), and no cache keeps a copy of it. -/
def Memory.clear (m : Memory) (lo n : Nat) : Memory :=
  let out (a : Nat) : Bool := a < lo || lo + n ≤ a
  let m := { m with
    cells := m.cells.filter fun c => out c.1
    tags := m.tags.filter fun e => out (e.1 * 8)
    owner := m.owner.filter fun e => out (e.1 * 128)
    pcells := m.pcells.filter fun c => out c.1
    ptags := m.ptags.filter fun e => out (e.1 * 8)
    dirty := m.dirty.filter fun e => out (e.1 * 128)
    sharers := m.sharers.filter fun e => out (e.1 * 128)
    copies := m.copies.filter fun e => out (e.1 * 128) }
  m.clearFull lo n

/-- The words of a range that hold poison. -/
def Memory.poisonedIn (m : Memory) (lo n : Nat) : List Nat :=
  ((m.tags ++ m.ptags).map (·.1)).eraseDups.filter fun w => lo ≤ 8 * w && 8 * w < lo + n && m.tag (8 * w) = 3

/-- A range becomes zero but for its words that hold poison, which stay as they are: the write is none of those that R146 and R338 list
(log 80). -/
def Memory.clearUnpoisoned (m : Memory) (lo n : Nat) : Memory :=
  let bad := m.poisonedIn lo n
  let kept := bad.flatMap fun w => (List.range 8).map fun j => (8 * w + j, m.byte (8 * w + j))
  bad.foldl (fun m w => m.setTag (8 * w) 3) (kept.foldl (fun m b => m.setByte b.1 b.2) (m.clear lo n))

/-! ## Home checks (R146) -/

/-- The first byte, by its index, whose access a home refuses for reach (0x07) or poison (0x09). -/
def firstRefused (m : Memory) (cl : Nat) (addrs : List Nat) : Option (BitVec 8 × Nat) :=
  let rec go (i : Nat) : List Nat → Option (BitVec 8 × Nat)
    | [] => none
    | a :: r =>
      match m.ownerOf a with
      | some c => if c = cl then (if m.tag a = 3 then some (0x09, i) else go (i + 1) r) else some (0x07, i)
      | none => if m.tag a = 3 then some (0x09, i) else go (i + 1) r
  go 0 addrs

/-- R146: the escape check of a store with tag 01; host memory holds no tag (R133). -/
def escapes (m : Memory) (addrs : List Nat) (tag : BitVec 2) (value : Dword) : Bool :=
  tag == 1 && !bit value 60 && hasTag (addrs.headD 0) && (m.ownerOf (addrs.headD 0)).isNone

/-- R146 in its order: reach, escape, poison. -/
def homeRefused (m : Memory) (cl : Nat) (policy : BitVec 2) (addrs : List Nat) (tag : BitVec 2) (value : Dword) :
    Option (BitVec 8 × Nat) :=
  match firstRefused m cl addrs with
  | some (0x07, j) => some (0x07, j)
  | r => if policy == 3 && escapes m addrs tag value then some (0x08, 0) else r

/-! ## Segments (R127 to R130) -/

/-- Why an access does not go on (R145). -/
inductive Stopped where
  | trap (cause : BitVec 8) (tval : Dword)
  /-- A miss of the position translation buffer: the logical block (R143). -/
  | miss (block : BitVec 52)
  /-- A page fault: host kind and VA (R141). -/
  | page (host : Bool) (va : BitVec 48)
  deriving DecidableEq, Repr

def rightR : BitVec 4 := 8
def rightW : BitVec 4 := 4
def rightX : BitVec 4 := 2
def rightA : BitVec 4 := 1

def sgKind (sg : BitVec 128) : BitVec 4 := fld sg 124 4
def sgRights (sg : BitVec 128) : BitVec 4 := fld sg 120 4
def sgPolicy (sg : BitVec 128) : BitVec 2 := fld sg 118 2
def sgLimit (sg : BitVec 128) : Nat := fldN sg 64 48
def sgBase (sg : BitVec 128) : Nat := fldN sg 0 64

/-- The byte part of an offset (R130). -/
def bytePart (kind : BitVec 4) (off : BitVec 60) : Nat :=
  if kind = 3 || kind = 5 then off.toNat % 2 ^ 51 else off.toNat

def State.peerEntry (s : State) (dev : BitVec 9) : Dword := s.dev.peers.get dev.toNat 0

/-- R289: the peer table lets the VF reach a device. -/
def State.peerOk (s : State) (vf : Nat) (dev : BitVec 9) : Bool :=
  bit (s.peerEntry dev) 63 && bit ((s.vf vf).domain.getD (dev.toNat / 64) 0) (dev.toNat % 64)

/-- Step 4 of R128: a field of the offset is out of range. -/
def State.kindFieldBad (s : State) (vf : Nat) (kind : BitVec 4) (off : BitVec 60) : Bool :=
  if kind = 3 then
    clusterCount (fld off 57 3) ≤ fldN off 51 6 || fldN off 19 32 != 0
  else if kind = 4 || kind = 6 then fldN off 48 12 != 0
  else if kind = 5 then fldN off 48 3 != 0 || !s.peerOk vf (fld off 51 9)
  else false

/-- R128, for an offset, with the pointer that a refusal reports. -/
def State.segCheck (s : State) (vf : Nat) (sg : BitVec 128) (off : BitVec 60) (n : Nat) (rights : BitVec 4)
    (tval : Dword) : Except Stopped Unit :=
  let kind := sgKind sg
  if kind = 0 || 8 ≤ kind.toNat then .error (.trap 0x06 tval)
  else if sgLimit sg < bytePart kind off + n then .error (.trap 0x05 tval)
  else if rights &&& sgRights sg ≠ rights then .error (.trap 0x06 tval)
  else if s.kindFieldBad vf kind off then .error (.trap 0x05 tval)
  else .ok ()

/-- The address that `ea` forms (R129). -/
inductive Ea where
  /-- A flat address; through the service slot's port for xcluster. -/
  | flat (a : Nat) (xcl : Bool)
  | paged (host : Bool) (va : BitVec 48)
  | peer (dev : BitVec 9) (va : BitVec 48)
  deriving DecidableEq, Repr

/-- The mode of bank `b` (R131). -/
def bankMode (m : Word) (b : Nat) : Nat := m.toNat / 4 ^ b % 4

/-- The stack bytes of a die (R18). -/
def stackSize (die : BitVec 3) : Nat := if isMatrix die then 768 * 2 ^ 20 else 1536 * 2 ^ 20
/-- The LPDDR bytes of a die (R18). -/
def lpddrSize (die : Nat) : Nat := if die < 4 then 2 ^ 37 else 2 ^ 35

/-- R129, R130: the address of an access of `n` bytes through `sg` by an agent at `c`. -/
def State.ea (s : State) (c : Coord) (sg : BitVec 128) (off : BitVec 60) (n : Nat) (tval : Dword) :
    Except Stopped Ea :=
  let kind := sgKind sg
  let sum := sgBase sg + bytePart kind off
  if kind = 1 then
    if sum + n ≤ 2 ^ 16 then .ok (.flat (localAddr c.coreKey sum) false) else .error (.trap 0x05 tval)
  else if kind = 2 then
    if sum + n ≤ 2 ^ 21 then
      let mode := (s.cluster c).bankmode
      if bankMode mode (sum / 2 ^ 17) = 1 && bankMode mode ((sum + (n - 1)) / 2 ^ 17) = 1 then
        .ok (.flat (bankAddr c.clusterKey sum) false)
      else .error (.trap 0x06 tval)
    else .error (.trap 0x05 tval)
  else if kind = 3 then
    if sum < 2 ^ 19 && sum / 2 ^ 16 = (sum + (n - 1)) / 2 ^ 16 then
      let ck := (fldN off 57 3 * 64 + fldN off 51 6) * 8 + sum / 2 ^ 16
      .ok (.flat (localAddr ck (sum % 2 ^ 16)) true)
    else .error (.trap 0x05 tval)
  else if kind = 4 then .ok (.paged false (BitVec.ofNat 48 sum))
  else if kind = 5 then .ok (.peer (fld off 51 9) (BitVec.ofNat 48 sum))
  else if kind = 6 then .ok (.paged true (BitVec.ofNat 48 sum))
  else
    if sum + n ≤ stackSize c.die then .ok (.flat (stackAddr c.die.toNat sum) false) else .error (.trap 0x05 tval)

/-! ## Paging (R138 to R142) -/

/-- An address of the device that a table or a leaf may name (R139). -/
def physOk (pa : Nat) : Bool := pa < 2 ^ 43 && pa % 2 ^ 40 < lpddrSize (pa / 2 ^ 40)

def pteRights (e : Dword) : BitVec 4 := fld e 59 4
def ptePolicy (e : Dword) : BitVec 2 := fld e 57 2
def pteAddr (e : Dword) : Nat := fldN e 10 42 * 2 ^ 10

/-- An entry that points to a table, aligned to `align` (R139). -/
def tableEntry (e : Dword) (align : Nat) : Option Nat :=
  if bit e 63 && !bit e 56 && fldN e 52 4 == 0 && fldN e 0 10 == 0 && pteAddr e % align == 0 && physOk (pteAddr e) then
    some (pteAddr e)
  else none

/-- A leaf of a page of `size` bytes that grants `need` (R139). -/
def leafEntry (e : Dword) (size : Nat) (host : Bool) (need : BitVec 4) : Option Dword :=
  if bit e 63 && bit e 56 && fldN e 52 4 == 0 && fldN e 0 10 == 0 && pteAddr e % size == 0
      && (need &&& pteRights e == need) && (host || physOk (pteAddr e)) then
    some e
  else none

/-- R140: a device VA lies in a subpaged range of the VF. -/
def State.subpaged (s : State) (vf : Nat) (va : BitVec 48) : Bool :=
  let page := va.toNat / 2 ^ 21
  (s.vf vf).region.toList.any fun r =>
    bit r 63 && fldN r 21 27 ≤ page && page < fldN r 21 27 + fldN r 48 10

/-- The walk of R138 and R139: the leaf, or none for a page fault. An entry is read as it stands whatever the tag of its word is, poison
too: the model's choice, since R139 calls it a data dword and gives no effect to another tag (log 91). -/
def State.walk (s : State) (vf : Nat) (host : Bool) (va : BitVec 48) (need : BitVec 4) : Option Dword :=
  let root := fldN (s.vf vf).vmroot 12 40 * 2 ^ 12
  if !physOk root then none
  else
    let entry (table idx : Nat) : Dword := s.mem.dword (lpddrAddr (table + 8 * idx))
    match tableEntry (entry root (fldN va 39 9)) 4096 with
    | none => none
    | some t2 =>
      match tableEntry (entry t2 (fldN va 30 9)) 4096 with
      | none => none
      | some t3 =>
        let e3 := entry t3 (fldN va 21 9)
        if !host && s.subpaged vf va then
          match tableEntry e3 16384 with
          | none => none
          | some t4 => leafEntry (entry t4 (fldN va 10 11)) 1024 host need
        else leafEntry e3 (2 ^ 21) host need

/-- The unit of a VA's page (R140) and whether it is a subpage. -/
def State.pageUnit (s : State) (vf : Nat) (host : Bool) (va : BitVec 48) : Nat × Bool :=
  if !host && s.subpaged vf va then (va.toNat / 2 ^ 10, true) else (va.toNat / 2 ^ 21, false)

/-- The leaf for an access. An engine operation keeps the entry that it has translated through (R336); every other
access walks (log 20). -/
def State.leafFor (s : State) (c : Coord) (vf : Nat) (op : Option OpKey) (host : Bool) (va : BitVec 48)
    (need : BitVec 4) : Option Dword :=
  let own : Option TEntry :=
    match op with
    | none => none
    | some o =>
      s.tcache.find? fun e =>
        e.port == c.clusterKey && e.vf == vf && e.host == host && e.users.contains o
          && e.page == va.toNat / (if e.sub then 2 ^ 10 else 2 ^ 21) && (need &&& pteRights e.leaf == need)
  match own with
  | some e => some e.leaf
  | none => s.walk vf host va need

/-- The flat address that a leaf gives for a VA. -/
def leafAddr (leaf : Dword) (host sub : Bool) (va : BitVec 48) : Nat :=
  let a := pteAddr leaf + va.toNat % (if sub then 2 ^ 10 else 2 ^ 21)
  if host then hostBase + a else lpddrAddr a

/-! ## A resolved access -/

/-- The bytes that an access names: the flat address of each, or a place at a peer; the governing policy (R137),
whether it goes through a service slot (R294), and the pieces that were translated: host kind, VA and bytes (R142). -/
structure Place where
  addrs : List Nat
  peer : Option (BitVec 9 × BitVec 48)
  policy : BitVec 2
  xcl : Bool
  pages : List (Bool × Nat × Nat)
  deriving DecidableEq, Repr

/-- An address formed by `ea` with its length, translated (R138, R145 steps 4 and 5). -/
def State.translate (s : State) (c : Coord) (vf : Nat) (op : Option OpKey) (sg : BitVec 128) (rights : BitVec 4)
    (tval : Dword) (e : Ea × Nat) : Except Stopped Place :=
  let seg := sgPolicy sg
  match e.1 with
  | .flat a xcl => .ok { addrs := (List.range e.2).map (a + ·), peer := none, policy := seg, xcl := xcl, pages := [] }
  | .peer d va => .ok { addrs := [], peer := some (d, va), policy := seg, xcl := false, pages := [] }
  | .paged host va =>
    let page (p : Nat × Nat) : Except Stopped (List Nat × BitVec 2) :=
      let v := BitVec.ofNat 48 p.1
      match s.leafFor c vf op host v rights with
      | none => .error (.page host v)
      | some leaf =>
        let a := leafAddr leaf host (s.pageUnit vf host v).2 v
        .ok ((List.range p.2).map (a + ·), ptePolicy leaf)
    match collect page (pieces 1024 e.2 va.toNat e.2) with
    | .error x => .error x
    | .ok l =>
      if l.any fun x => (seg == 3) != (x.2 == 3) then .error (.trap 0x06 tval)
      else .ok { addrs := (l.map (·.1)).flatten, peer := none, policy := (l.map (·.2)).headD seg, xcl := false, pages := [(host, va.toNat, e.2)] }

/-- Bytes of the VF's device space, at an offset and with a length from a VA, for an access through the peer path under a policy. -/
def State.translateAt (s : State) (c : Coord) (vf : Nat) (policy : BitVec 2) (rights : BitVec 4) (va : BitVec 48) (p : Nat × Nat) :
    Except Stopped Place :=
  s.translate c vf none (BitVec.ofNat 128 (policy.toNat * 2 ^ 118)) rights 0 (.paged false (va + BitVec.ofNat 48 p.1), p.2)

/-- Joins the places of the pieces of one access. -/
def Place.join : List Place → Place
  | [] => { addrs := [], peer := none, policy := 0, xcl := false, pages := [] }
  | p :: r => { p with addrs := p.addrs ++ (r.map (·.addrs)).flatten, pages := p.pages ++ (r.map (·.pages)).flatten }

/-- R128 to R139 for offsets of one segment: all segment checks first, then all translations (R145). -/
def State.resolve (s : State) (c : Coord) (vf : Nat) (op : Option OpKey) (sg : BitVec 128)
    (offs : List (BitVec 60 × Nat)) (rights : BitVec 4) (tval : Dword) : Except Stopped Place :=
  let chk (x : BitVec 60 × Nat) : Except Stopped (Ea × Nat) :=
    match s.segCheck vf sg x.1 x.2 rights tval with
    | .error e => .error e
    | .ok () =>
      match s.ea c sg x.1 x.2 tval with
      | .error e => .error e
      | .ok a => .ok (a, x.2)
  match collect chk offs with
  | .error e => .error e
  | .ok eas =>
    match collect (s.translate c vf op sg rights tval) eas with
    | .error e => .error e
    | .ok ps => .ok (Place.join ps)

/-- The bytes of an engine's pointer: no position translation (R143). -/
def State.enginePlace (s : State) (c : Coord) (vf : Nat) (op : Option OpKey) (r : RPtr) (n : Nat)
    (rights : BitVec 4) : Except Stopped Place :=
  s.resolve c vf op r.seg [(fld r.p 0 60, n)] rights r.p

/-! ## The position translation buffer (R143) -/

/-- log2 of the block size (R143). -/
def ptbShift (cfg : Dword) : Nat := min (fldN cfg 56 4) 8 + 8

/-- The entry that maps a logical block. -/
def Core.ptbFind (k : Core) (block : BitVec 52) : Option PtbEntry :=
  k.ptb.toList.find? fun e => e.valid && e.logical == block

/-- R143: the offsets of an access of `n` bytes at a pointer, block by block; or the first block that misses. -/
def State.ptbOffsets (s : State) (c : Coord) (p : Dword) (n : Nat) : Except Stopped (List (BitVec 60 × Nat)) :=
  let k := s.core c
  if bit k.ptbcfg 63 && fld k.ptbcfg 60 3 == fld p 61 3 then
    let b := ptbShift k.ptbcfg
    let one (x : Nat × Nat) : Except Stopped (BitVec 60 × Nat) :=
      let block := BitVec.ofNat 52 (x.1 / 2 ^ b)
      match k.ptbFind block with
      | none => .error (.miss block)
      | some e => .ok (BitVec.ofNat 60 (e.physical.toNat * 2 ^ b + x.1 % 2 ^ b), x.2)
    collect one (pieces (2 ^ b) n (fldN p 0 60) n)
  else .ok [(fld p 0 60, n)]

/-- The bytes of a data access of the slot at `c` (R145 steps 2 to 5). -/
def State.dataPlace (s : State) (c : Coord) (p : Dword) (n : Nat) (rights : BitVec 4) : Except Stopped Place :=
  let x := s.slot c
  match s.ptbOffsets c p n with
  | .error e => .error e
  | .ok offs => s.resolve c x.vf none (x.segOf p) offs rights p

/-! ## Users of cached translations (R336) -/

/-- An engine operation that has translated `n` bytes at a VA of a VF becomes a user of the entries. -/
def State.pin (s : State) (c : Coord) (vf : Nat) (o : OpKey) (host : Bool) (va : BitVec 48) (n : Nat)
    (need : BitVec 4) : State :=
  (pieces 1024 n va.toNat n).foldl (fun s p =>
    let v := BitVec.ofNat 48 p.1
    match s.leafFor c vf (some o) host v need with
    | none => s
    | some leaf =>
      let (page, sub) := s.pageUnit vf host v
      let same (e : TEntry) : Bool :=
        e.port == c.clusterKey && e.vf == vf && e.host == host && e.page == page && e.sub == sub && e.leaf == leaf
      if s.tcache.any fun e => same e && e.users.contains o then s
      else if s.tcache.any fun e => same e && !e.stale then
        { s with tcache := updFirst (fun e => same e && !e.stale) (fun e => { e with users := (o :: e.users) }) s.tcache }
      else
        { s with tcache := s.tcache ++ [{ port := c.clusterKey, vf := vf, host := host, page := page, sub := sub
                                          leaf := leaf, users := [o], stale := false }] }) s

/-- The same for a resolved engine pointer. -/
def State.pinPtr (s : State) (c : Coord) (vf : Nat) (o : OpKey) (r : RPtr) (n : Nat) (need : BitVec 4) : State :=
  match s.ea c r.seg (fld r.p 0 60) n r.p with
  | .ok (.paged host va) => s.pin c vf o host va n need
  | _ => s

/-- An engine operation has performed its last byte: it uses no entry any more, and a stale entry without a user is
dropped. -/
def State.unpin (s : State) (o : OpKey) : State :=
  let left := s.tcache.map fun e => { e with users := e.users.filter (· != o) }
  let s := { s with tcache := left.filter (fun e => !e.users.isEmpty) }
  s.laters (s.slots.filterMap fun (k, x) =>
    match x.hold with
    | some .invt | some .csrw => some (Instr.invtComplete, EvArg.at (Coord.ofKey k))
    | _ => none)

end Sys2Proof.Machine
end

