-- ==== Sys2Proof/Machine/Num.lean ====
section
/-! DEFINITION. Number formats, exact arithmetic and its one rounding (R98 to R103), the numerical flags (R104), decode
tables' search (R110), conversions (R120) and the transcendental functions (R117; log 8). -/
namespace Sys2Proof.Machine

/-! ## Formats -/

/-- A binary format (R98): exponent and fraction widths. -/
structure Fmt where
  eb : Nat
  fb : Nat
  deriving DecidableEq, Repr

def fp32 : Fmt := { eb := 8, fb := 23 }
def fp16 : Fmt := { eb := 5, fb := 10 }
def bf16 : Fmt := { eb := 8, fb := 7 }
def e8m10 : Fmt := { eb := 8, fb := 10 }

def Fmt.bias (f : Fmt) : Nat := 2 ^ (f.eb - 1) - 1
def Fmt.signBit (f : Fmt) : Nat := 2 ^ (f.eb + f.fb)
/-- The encoding of +∞. -/
def Fmt.inf (f : Fmt) : Nat := (2 ^ f.eb - 1) * 2 ^ f.fb
/-- The default NaN (R98). -/
def Fmt.nan (f : Fmt) : Nat := f.inf + 2 ^ (f.fb - 1)
/-- The largest finite encoding. -/
def Fmt.maxFin (f : Fmt) : Nat := f.inf - 1
/-- The exponent of the smallest normal value. -/
def Fmt.emin (f : Fmt) : Int := 1 - (f.bias : Int)

/-- The format of a float type (R41). -/
def fmtOf (ty : BitVec 4) : Fmt := if ty = 0 then fp32 else if ty = 1 then fp16 else bf16

/-- A decoded value: a finite one is ± m × 2^e. -/
inductive Fp where
  | nan (signalling : Bool)
  | inf (neg : Bool)
  | fin (neg : Bool) (m : Nat) (e : Int)
  deriving DecidableEq, Repr

/-- The value of an encoding (R98). -/
def Fmt.decode (f : Fmt) (x : Nat) : Fp :=
  let neg := x / f.signBit % 2 = 1
  let e := x / 2 ^ f.fb % 2 ^ f.eb
  let m := x % 2 ^ f.fb
  if e = 2 ^ f.eb - 1 then (if m = 0 then .inf neg else .nan (m < 2 ^ (f.fb - 1)))
  else if e = 0 then .fin neg m (f.emin - f.fb)
  else .fin neg (2 ^ f.fb + m) ((e : Int) - f.bias - f.fb)

/-! ## Flags (R104) -/

def flInvalid : BitVec 16 := 1
def flOverflow : BitVec 16 := 2
def flUnderflow : BitVec 16 := 4
def flInexact : BitVec 16 := 8
def flNan : BitVec 16 := 16
def flScale : BitVec 16 := 32
def flSat : BitVec 16 := 64
def flMasked : BitVec 16 := 128
def flTable : BitVec 16 := 256

/-- An encoding with the flags raised. -/
abbrev FRes := Nat × BitVec 16

/-! ## Rounding (R102) -/

/-- Rounding modes: 0 rn, 1 rz, 2 rd, 3 ru (R112). -/
abbrev RMode := BitVec 2

/-- Step 4 of R102: the integer chosen for m / 2^s. -/
def roundShift (mode : RMode) (neg : Bool) (m s : Nat) : Nat × Bool :=
  let q := m / 2 ^ s
  let r := m % 2 ^ s
  if r = 0 then (q, false)
  else
    let up :=
      if mode = 0 then 2 ^ s < 2 * r || (2 ^ s = 2 * r && q % 2 = 1)
      else if mode = 1 then false
      else if mode = 2 then neg
      else !neg
    (if up then q + 1 else q, true)

/-- ± m × 2^e to a multiple of 2^q: the multiple, and whether it is inexact. -/
def roundTo (mode : RMode) (neg : Bool) (m : Nat) (e q : Int) : Nat × Bool :=
  if q ≤ e then (m * 2 ^ (e - q).toNat, false) else roundShift mode neg m (q - e).toNat

def Fmt.sign (f : Fmt) (neg : Bool) : Nat := if neg then f.signBit else 0

/-- R102 for the non-zero value ± m × 2^e. -/
def Fmt.round (f : Fmt) (mode : RMode) (neg : Bool) (m : Nat) (e : Int) : FRes :=
  let top : Int := (Nat.log2 m : Int) + e
  let q := max (top - f.fb) (f.emin - f.fb)
  let (n, inexact) := roundTo mode neg m e q
  let enc := (q + f.fb + f.bias).toNat * 2 ^ f.fb + n - 2 ^ f.fb
  if f.inf ≤ enc then
    let big := mode = 0 || (mode = 2 && neg) || (mode = 3 && !neg)
    (f.sign neg + (if big then f.inf else f.maxFin), flOverflow ||| flInexact)
  else
    let tiny := top < f.emin && (roundTo mode neg m e (top - f.fb)).1 < 2 ^ (f.fb + (f.emin - top).toNat)
    (f.sign neg + enc, (if inexact then flInexact else 0) ||| (if inexact && tiny then flUnderflow else 0))

/-- A finite value to a format; a zero keeps its sign. -/
def Fmt.roundFin (f : Fmt) (mode : RMode) (neg : Bool) (m : Nat) (e : Int) : FRes :=
  if m = 0 then (f.sign neg, 0) else f.round mode neg m e

/-- The default NaN, with NaN produced and, for an invalid operation, invalid (R103). -/
def Fmt.nanRes (f : Fmt) (invalid : Bool) : FRes := (f.nan, flNan ||| if invalid then flInvalid else 0)

def Fmt.infRes (f : Fmt) (neg : Bool) : FRes := (f.sign neg + f.inf, 0)

def Fp.isSnan : Fp → Bool
  | .nan s => s
  | _ => false

def Fp.isNan : Fp → Bool
  | .nan _ => true
  | _ => false

def Fp.neg : Fp → Fp
  | .nan s => .nan s
  | .inf n => .inf (!n)
  | .fin n m e => .fin (!n) m e

/-! ## Arithmetic (R113, R114) -/

/-- The sign of an exactly zero sum of operands of opposite sign (R102 step 3). -/
def zeroSign (mode : RMode) : Bool := mode = 2

/-- The exact sum of two finite values, rounded once. -/
def Fmt.sumFin (f : Fmt) (mode : RMode) (n1 : Bool) (m1 : Nat) (e1 : Int) (n2 : Bool) (m2 : Nat) (e2 : Int) : FRes :=
  let e := min e1 e2
  let a : Int := (m1 * 2 ^ (e1 - e).toNat : Nat)
  let b : Int := (m2 * 2 ^ (e2 - e).toNat : Nat)
  let s : Int := (if n1 then -a else a) + (if n2 then -b else b)
  if s = 0 then (f.sign (if n1 = n2 then n1 else zeroSign mode), 0)
  else f.round mode (s < 0) s.natAbs e

/-- The sum of two values. -/
def Fmt.add (f : Fmt) (mode : RMode) (a b : Fp) : FRes :=
  match a, b with
  | .nan s, y => f.nanRes (s || y.isSnan)
  | x, .nan s => f.nanRes (s || x.isSnan)
  | .inf n1, .inf n2 => if n1 = n2 then f.infRes n1 else f.nanRes true
  | .inf n1, .fin .. => f.infRes n1
  | .fin .., .inf n2 => f.infRes n2
  | .fin n1 m1 e1, .fin n2 m2 e2 => f.sumFin mode n1 m1 e1 n2 m2 e2

/-- The product of two values. -/
def Fmt.mul (f : Fmt) (mode : RMode) (a b : Fp) : FRes :=
  match a, b with
  | .nan s, y => f.nanRes (s || y.isSnan)
  | x, .nan s => f.nanRes (s || x.isSnan)
  | .inf n1, .inf n2 => f.infRes (n1 != n2)
  | .inf n1, .fin n2 m2 _ => if m2 = 0 then f.nanRes true else f.infRes (n1 != n2)
  | .fin n1 m1 _, .inf n2 => if m1 = 0 then f.nanRes true else f.infRes (n1 != n2)
  | .fin n1 m1 e1, .fin n2 m2 e2 => f.roundFin mode (n1 != n2) (m1 * m2) (e1 + e2)

/-- ± m1 / m2 × 2^e rounded once: enough quotient bits, and a sticky bit below them. -/
def Fmt.quot (f : Fmt) (mode : RMode) (neg : Bool) (m1 m2 : Nat) (e : Int) : FRes :=
  let n := m1 * 2 ^ 96
  let q := n / m2
  f.round mode neg (2 * q + if n % m2 = 0 then 0 else 1) (e - 97)

/-- The quotient of two values. -/
def Fmt.div (f : Fmt) (mode : RMode) (a b : Fp) : FRes :=
  match a, b with
  | .nan s, y => f.nanRes (s || y.isSnan)
  | x, .nan s => f.nanRes (s || x.isSnan)
  | .inf _, .inf _ => f.nanRes true
  | .inf n1, .fin n2 .. => f.infRes (n1 != n2)
  | .fin n1 .., .inf n2 => (f.sign (n1 != n2), 0)
  | .fin n1 m1 e1, .fin n2 m2 e2 =>
    if m2 = 0 then
      (if m1 = 0 then f.nanRes true else (f.sign (n1 != n2) + f.inf, flOverflow))
    else if m1 = 0 then (f.sign (n1 != n2), 0)
    else f.quot mode (n1 != n2) m1 m2 (e1 - e2)

/-- The product is 0 × ∞ (R103). -/
def zeroTimesInf (a b : Fp) : Bool :=
  match a, b with
  | .inf _, .fin _ m _ => m = 0
  | .fin _ m _, .inf _ => m = 0
  | _, _ => false

/-- d + a × b with one rounding (R114). -/
def Fmt.fma (f : Fmt) (mode : RMode) (a b d : Fp) : FRes :=
  if zeroTimesInf a b then f.nanRes true
  else
    match a, b, d with
    | .nan s, y, z => f.nanRes (s || y.isSnan || z.isSnan)
    | x, .nan s, z => f.nanRes (s || x.isSnan || z.isSnan)
    | _, _, .nan s => f.nanRes s
    | .fin n1 m1 e1, .fin n2 m2 e2, z => f.add mode (.fin (n1 != n2) (m1 * m2) (e1 + e2)) z
    | .inf n1, .inf n2, z => f.add mode (.inf (n1 != n2)) z
    | .inf n1, .fin n2 _ _, z => f.add mode (.inf (n1 != n2)) z
    | .fin n1 _ _, .inf n2, z => f.add mode (.inf (n1 != n2)) z

/-! ## Comparison (R115, R116) -/

/-- A value's place in the order of the reals, for non-NaN operands: a < b. -/
def Fp.lt (a b : Fp) : Bool :=
  match a, b with
  | .nan _, _ => false
  | _, .nan _ => false
  | .inf n1, .inf n2 => n1 && !n2
  | .inf n1, .fin .. => n1
  | .fin .., .inf n2 => !n2
  | .fin n1 m1 e1, .fin n2 m2 e2 =>
    let e := min e1 e2
    let x : Int := (m1 * 2 ^ (e1 - e).toNat : Nat)
    let y : Int := (m2 * 2 ^ (e2 - e).toNat : Nat)
    (if n1 then -x else x) < (if n2 then -y else y)

/-- Equality of values: +0 equals −0, and a NaN equals nothing. -/
def Fp.eq (a b : Fp) : Bool := !a.isNan && !b.isNan && !a.lt b && !b.lt a

/-- The smaller (or, with `max`, larger) of two encodings, −0 below +0, a NaN losing to a number (R115). -/
def Fmt.minMax (f : Fmt) (max : Bool) (x y : Nat) : FRes :=
  let a := f.decode x
  let b := f.decode y
  let inv : BitVec 16 := if a.isSnan || b.isSnan then flInvalid else 0
  if a.isNan && b.isNan then (f.nan, flNan ||| inv)
  else if a.isNan then (y, inv)
  else if b.isNan then (x, inv)
  else
    let xNeg : Bool := x / f.signBit % 2 = 1
    let less : Bool := a.lt b || (a.eq b && xNeg)
    (if less != max then x else y, inv)

/-! ## Conversions (R99, R102, R120) -/

/-- A value to a format; `quietNan`: a NaN raises no flag (R121). -/
def Fmt.ofFp (f : Fmt) (mode : RMode) (x : Fp) : FRes :=
  match x with
  | .nan s => f.nanRes s
  | .inf n => f.infRes n
  | .fin n m e => f.roundFin mode n m e

/-- A value as an FP32 encoding where that is exact (R99). -/
def toFp32 (f : Fmt) (x : Nat) : FRes := fp32.ofFp 0 (f.decode x)

/-- A two's complement or unsigned integer of `w` bits. -/
def intOf (signed : Bool) (w x : Nat) : Int :=
  if signed && 2 ^ (w - 1) ≤ x then (x : Int) - (2 ^ w : Nat) else (x : Int)

/-- An integer as `w` bits. -/
def wrapInt (w : Nat) (x : Int) : Nat := (x % (2 ^ w : Nat)).toNat

def intMin (signed : Bool) (w : Nat) : Int := if signed then -(2 ^ (w - 1) : Nat) else 0
def intMax (signed : Bool) (w : Nat) : Int := if signed then (2 ^ (w - 1) : Nat) - 1 else (2 ^ w : Nat) - 1

/-- Clamps to the range of a type; tells whether it clamped. -/
def clampInt (signed : Bool) (w : Nat) (x : Int) : Int × Bool :=
  if x < intMin signed w then (intMin signed w, true)
  else if intMax signed w < x then (intMax signed w, true)
  else (x, false)

/-- An integer to a format. -/
def Fmt.ofInt (f : Fmt) (mode : RMode) (x : Int) : FRes := f.roundFin mode (x < 0) x.natAbs 0

/-- A finite value lies outside a range of integers. -/
def outOfRange (lo hi : Int) (n : Bool) (m : Nat) (e : Int) : Bool :=
  let f := 2 ^ (-e).toNat
  let v : Int := (m * 2 ^ e.toNat : Nat)
  let v := if n then -v else v
  v < lo * f || hi * f < v

/-- A value to an integer of `w` bits by mode, then clamped (R120). A finite value outside the range raises invalid and
saturation, even where it rounds to an integer inside; one that differs from its result raises inexact. -/
def fpToInt (mode : RMode) (signed : Bool) (w : Nat) (x : Fp) : FRes :=
  match x with
  | .nan _ => (0, flInvalid ||| flSat)
  | .inf n => (wrapInt w (if n then intMin signed w else intMax signed w), flInvalid ||| flSat)
  | .fin n m e =>
    let (k, inexact) := roundTo mode n m e 0
    let v : Int := if n then -(k : Int) else k
    let (c, clamped) := clampInt signed w v
    (wrapInt w c, (if outOfRange (intMin signed w) (intMax signed w) n m e then flInvalid ||| flSat else 0)
      ||| (if clamped || inexact then flInexact else 0))

/-! ## Transcendental functions (R117; log 8) -/

/-- Floor of the square root, bit by bit from bit `k`. -/
def isqrtFrom (n : Nat) : Nat → Nat → Nat
  | 0, r => r
  | k + 1, r => isqrtFrom n k (if (r + 2 ^ k) * (r + 2 ^ k) ≤ n then r + 2 ^ k else r)

/-- Working precision of `exp2Frac` in bits. -/
def expPrec : Nat := 128

/-- The product of 2^(2^−i) over the fraction bits of `x` from the top; `root` is 2^(2^−i) for the next bit. -/
def exp2Go (x : Nat) : Nat → Nat → Nat → Nat
  | 0, _, acc => acc
  | k + 1, root, acc =>
    let acc' := if x / 2 ^ k % 2 = 1 then acc * root / 2 ^ expPrec else acc
    exp2Go x k (isqrtFrom (root * 2 ^ expPrec) (expPrec + 1) 0) acc'

/-- 2^(x / 2^k), for 0 ≤ x < 2^k, scaled by 2^expPrec, rounded down. -/
def exp2Frac (x k : Nat) : Nat :=
  exp2Go x k (isqrtFrom (2 ^ (2 * expPrec + 1)) (expPrec + 1) 0) (2 ^ expPrec)

/-- 2^x for the finite x = ± m × 2^e as a dyadic value (mantissa, exponent); a result that is not exact carries a
sticky last bit. -/
def exp2Val (neg : Bool) (m : Nat) (e : Int) : Nat × Int :=
  if m = 0 then (1, 0)
  else
    let top : Int := (Nat.log2 m : Int) + e
    if 10 < top then (if neg then (3, -4097) else (3, 4096))
    else if top < -40 then (if neg then (2 ^ 48 - 1, -48) else (2 ^ 48 + 1, -48))
    else
      let k := (-e).toNat
      let v : Int := (m * 2 ^ e.toNat : Nat)
      let x : Int := if neg then -v else v
      let i := x / (2 ^ k : Nat)
      let fr := (x % (2 ^ k : Nat)).toNat
      if fr = 0 then (1, i) else (2 * exp2Frac fr k + 1, i - expPrec - 1)

/-- `vexp2` (R117). -/
def Fmt.exp2 (f : Fmt) (mode : RMode) (x : Fp) : FRes :=
  match x with
  | .nan s => f.nanRes s
  | .inf n => if n then (0, 0) else f.infRes false
  | .fin n m e =>
    let (a, b) := exp2Val n m e
    f.round mode false a b

/-- log2 e scaled by 2^200, rounded down. -/
def log2e : Nat := 2318321547468254865173387471183990171487108758923299108729110

/-- exp(x) for a finite x ≤ 0, correctly rounded (R202; log 8). -/
def Fmt.expNeg (f : Fmt) (m : Nat) (e : Int) : Nat :=
  let (a, b) := exp2Val true (m * log2e) (e - 200)
  if m = 0 then (f.bias * 2 ^ f.fb) else (f.round 0 false a b).1

/-- The first `k` fraction bits of log2 y, for 1 ≤ y < 2 scaled by 2^256. -/
def log2Go : Nat → Nat → Nat → Nat
  | 0, _, acc => acc
  | k + 1, y, acc =>
    let sq := y * y / 2 ^ 256
    if 2 ^ 257 ≤ sq then log2Go k (sq / 2) (2 * acc + 1) else log2Go k sq (2 * acc)

/-- `vlog2` (R117). -/
def Fmt.log2 (f : Fmt) (mode : RMode) (x : Fp) : FRes :=
  match x with
  | .nan s => f.nanRes s
  | .inf n => if n then f.nanRes true else f.infRes false
  | .fin n m e =>
    if m = 0 then (f.signBit + f.inf, flOverflow)
    else if n then f.nanRes true
    else
      let l := Nat.log2 m
      let i : Int := (l : Int) + e
      if m = 2 ^ l then f.ofInt mode i
      else
        let v : Int := 2 * (i * (2 ^ 112 : Nat) + (log2Go 112 (m * 2 ^ 256 / 2 ^ l) 0 : Nat)) + 1
        f.round mode (v < 0) v.natAbs (-113)

/-- `vrcp` (R117). -/
def Fmt.rcp (f : Fmt) (mode : RMode) (x : Fp) : FRes :=
  match x with
  | .nan s => f.nanRes s
  | .inf n => (f.sign n, 0)
  | .fin n m e => if m = 0 then (f.sign n + f.inf, flOverflow) else f.quot mode n 1 m (-e)

/-- `vrsq` (R117). -/
def Fmt.rsq (f : Fmt) (mode : RMode) (x : Fp) : FRes :=
  match x with
  | .nan s => f.nanRes s
  | .inf n => if n then f.nanRes true else (0, 0)
  | .fin n m e =>
    if m = 0 then (f.sign n + f.inf, flOverflow)
    else if n then f.nanRes true
    else
      let (m', e') := if e % 2 = 0 then (m, e) else (2 * m, e - 1)
      let big := 2 ^ 256 / m'
      let r := isqrtFrom big 130 0
      f.round mode false (2 * r + if r * r * m' = 2 ^ 256 then 0 else 1) (-(e' / 2) - 129)

/-! ## Decode tables (R107, R110) -/

/-- The value of an entry. -/
def DTable.value (t : DTable) (c : Nat) : Fp := e8m10.decode (t.e.getD c 0).toNat

/-- |a| ≤ |b| for a finite or infinite a, as magnitudes. -/
def magLe (a b : Fp) : Bool :=
  let abs : Fp → Fp
    | .nan s => .nan s
    | .inf _ => .inf false
    | .fin _ m e => .fin false m e
  !(abs b).lt (abs a)

/-- value(entry) ≤ m, the entry with its sign. -/
def entryLe (v m : Fp) : Bool := !v.isNan && !m.lt v

/-- The seven-step search of R110. -/
def enc8Search (t : DTable) (m : Fp) : Nat → Nat → Nat
  | 0, lo => lo
  | j + 1, lo =>
    let c := lo + 2 ^ j
    enc8Search t m j (if entryLe (t.value c) m then c else lo)

/-- Twice the exact distance comparison of R110: whether m is nearer to a (lt), to b (gt) or midway, for finite
a ≤ m ≤ b; an infinite b is farther. -/
def nearer (a m b : Fp) : Ordering :=
  match a, m, b with
  | .fin n1 m1 e1, .fin n2 m2 e2, .fin n3 m3 e3 =>
    let e := min e1 (min e2 e3)
    let val (n : Bool) (x : Nat) (y : Int) : Int :=
      let v : Int := (x * 2 ^ (y - e).toNat : Nat)
      if n then -v else v
    let dl := val n2 m2 e2 - val n1 m1 e1
    let dh := val n3 m3 e3 - val n2 m2 e2
    if dl < dh then .lt else if dh < dl then .gt else .eq
  | .inf _, _, .fin .. => .gt
  | .inf _, _, .inf _ => .eq
  | _, _, _ => .lt

/-- `enc8(tab, x)` of R110, with the byte that a NaN takes. -/
def enc8 (t : DTable) (tnan : Byte) (x : Fp) : Byte × BitVec 16 :=
  match x with
  | .nan _ => (tnan, 0)
  | x =>
    let neg : Bool := match x with | .inf n => n | .fin n _ _ => n | .nan _ => false
    let m : Fp := match x with | .inf _ => .inf false | .fin _ a e => .fin false a e | .nan s => .nan s
    let lo := enc8Search t m 7 0
    let lov := t.value lo
    let hi := t.value (lo + 1)
    let hiOk : Bool := lo < 127 && !hi.isNan
    let (code, fl) : Nat × BitVec 16 :=
      if lov.isNan then (lo, flSat)
      else if !lov.lt m then (lo, 0)
      else if !hiOk then (lo, flSat)
      else
        match nearer lov m hi with
        | .lt => (lo, 0)
        | .gt => (lo + 1, 0)
        | .eq => (if lo % 2 = 0 then lo else lo + 1, 0)
    let inexact : BitVec 16 := if (t.value code).eq m then 0 else flInexact
    (BitVec.ofNat 8 (if neg then code + 128 else code), fl ||| inexact ||| if t.order then 0 else flTable)

end Sys2Proof.Machine
end

