-- ==== Sys2Proof/Machine/Sync.lean ====
section
/-! DEFINITION. Writes and who waits for them; timelines (R208), sync words (R216, R218) and join records (R219 to R222);
the strand table's lookups and the receipt of packets (R243 to R251); and what a posted packet does at its home. -/
namespace Sys2Proof.Machine

/-- `c.now` of a die (R341). -/
def State.now (s : State) (d : BitVec 3) : Nat := s.clock.get d.toFin

/-- A fresh free value (log 7). -/
def State.free (s : State) : State × BitVec 64 := ({ s with fresh := s.fresh + 1 }, Config.freeValue s.fresh)

/-! ## Rings and queues of a VF (R366 to R369) -/

/-- A ring or queue size that does not disable it (R366). -/
def ringSizeOk (n : Half) : Bool :=
  let x := n.toNat
  16 ≤ x && x ≤ 32768 && x == 2 ^ Nat.log2 x

/-- The device physical address that a ring or queue register holds (R366): 43 bits (R138), 4 KiB aligned. -/
def physBase (x : Dword) : Nat := fldN x 12 31 * 4096

/-- Entries that a submission ring's port has taken (R367). -/
def State.ringConsumed (s : State) (base : Dword) : Nat := s.mem.readNat (physBase base + 8) 8

/-- The address of the head entry of ring `r`, when the ring is enabled. -/
def State.ringHead (s : State) (v : Nat) (r : Nat) : Option Nat :=
  let x := s.vf v
  let n := (x.sqsize.getD r 0)
  let base := x.sqbase.getD r 0
  if ringSizeOk n then some (physBase base + 128 + 128 * (s.ringConsumed base % n.toNat)) else none

/-- The fault queue is enabled (R369). -/
def State.fqOn (s : State) (v : Nat) : Bool := ringSizeOk (s.vf v).fqsize

/-! ## Writes and their observers -/

/-- A device in a wake depth wakes (R372). -/
def State.rouse (s : State) : State := if s.dev.depth = .w0 then s else s.later .wakeFromIdle (.at Coord.zero)

/-- What a write to lines makes possible: returns of `waitm` and `swwait` (R212, R218), a recheck of a ring's head
(R368), which also wakes the device (R372), room in a fault queue (R369). -/
def State.observers (s : State) (lines : List Nat) : List (Instr × EvArg) :=
  let slots := s.slots.filterMap fun (k, x) =>
    match x.hold with
    | some .waitm =>
      match x.watch with
      | some (l, _) => if lines.contains l then some (Instr.waitmReturn, EvArg.at (Coord.ofKey k)) else none
      | none => none
    | some (.swwait a _) => if lines.contains (lineOf a) then some (Instr.swwaitReturn, EvArg.at (Coord.ofKey k)) else none
    | _ => none
  let vfs := s.vfs.flatMap fun (v, x) =>
    let head (r : Nat) : Bool := match s.ringHead v r with | some a => lines.contains (lineOf a) | none => false
    if head 0 || head 1 then
      (if s.dev.depth = .w0 then [] else [(Instr.wakeFromIdle, EvArg.ofVf v)]) ++ [(Instr.launchPortTake, EvArg.ofVf v)]
    else if !x.faults.isEmpty && lines.contains (lineOf (physBase x.fqbase)) then [(Instr.faultRecordAppend, EvArg.ofVf v)]
    else []
  slots ++ vfs

/-- After writes to addresses. -/
def State.wrote (s : State) (addrs : List Nat) : State := s.laters (s.observers (addrs.map lineOf).eraseDups)

/-- One store event with its observers. -/
def State.store (s : State) (bytes : List (Nat × Byte)) (tag : BitVec 2) : State :=
  State.wrote { s with mem := s.mem.store bytes tag } (bytes.map (·.1))

/-- Bytes at consecutive addresses. -/
def at' (a : Nat) (bytes : List Byte) : List (Nat × Byte) := (List.range bytes.length).zip bytes |>.map fun x => (a + x.1, x.2)

/-- A write of the device's own (a record, a queue entry, a lost party): the directory treats it as a store of no cluster (R136, R137), and a
word that holds poison is left as it is (R146, log 80). -/
def State.deviceStore (s : State) (a : Nat) (bytes : List Byte) : State :=
  let lines := ((at' a bytes).map fun x => lineOf x.1).eraseDups
  State.store { s with mem := lines.foldl (fun m l => m.deviceWrites l) s.mem } ((at' a bytes).filter fun x => s.mem.tag x.1 != 3) 0

/-- A store of `n` bytes at an address with tag 00. -/
def State.storeNat (s : State) (a n x : Nat) : State := s.store (at' a (leBytes n x)) 0

/-- The directory's part of a store to lines by a cluster (R136, R137): copies elsewhere are invalidated. No cache keeps a line of a
page in host bias (R365). -/
def Memory.cohStore (m : Memory) (cl : Nat) (policy : BitVec 2) (addrs : List Nat) : Memory :=
  ((addrs.map lineOf).eraseDups).foldl (fun m l =>
    match m.owner.find? l with
    | some _ => m.modified l
    | none =>
      if bankBase ≤ l * 128 then m
      else if homeDie (l * 128) = some (cl / 64) && (policy == 0 || policy == 3) && !m.hostBiased l then m.own l cl
      else m.uncache l) m

/-- The directory's part of a load (R136, R137). -/
def Memory.cohLoad (m : Memory) (cl : Nat) (policy : BitVec 2) (addrs : List Nat) : Memory :=
  ((addrs.map lineOf).eraseDups).foldl (fun m l =>
    match m.owner.find? l with
    | some _ => m
    | none =>
      if l * 128 < bankBase && homeDie (l * 128) = some (cl / 64) && (policy == 0 || policy == 3) && !m.hostBiased l then
        m.share l cl
      else m) m

/-- The cluster with this key has a bank in cache mode (R131), without which it keeps no line (R136). -/
def State.caches (s : State) (cl : Nat) : Bool :=
  (List.range 16).any fun b => bankMode (s.clusters.get cl Cluster.reset).bankmode b == 0

/-- The policy as the directory meets it: a cluster without a cache-mode bank caches nothing, as under policy 10 (R136, R137). -/
def State.cachePolicy (s : State) (cl : Nat) (policy : BitVec 2) : BitVec 2 := if s.caches cl then policy else 2

/-- Memory after the directory's part of a store by a cluster, and of a load. -/
def State.cohStore (s : State) (cl : Nat) (policy : BitVec 2) (addrs : List Nat) : Memory :=
  s.mem.cohStore cl (s.cachePolicy cl policy) addrs

def State.cohLoad (s : State) (cl : Nat) (policy : BitVec 2) (addrs : List Nat) : Memory :=
  s.mem.cohLoad cl (s.cachePolicy cl policy) addrs

/-! ## Annulment counters (R257, R258) -/

def State.count (s : State) (d : BitVec 3) (vf kind : Nat) : State :=
  s.modDie d fun x =>
    let n := (x.ann.get (vf * 16 + kind) 0).toNat
    { x with ann := x.ann.set (vf * 16 + kind) (BitVec.ofNat 64 (min (n + 1) (2 ^ 64 - 1))) }

/-! ## The remote-fault record (R293) -/

/-- A posted access was refused at its home. -/
def Slot.postFault (x : Slot) (cause : BitVec 8) (ptr : Dword) : Slot :=
  if bit x.rfault 63 then { x with rfault := putFld x.rfault 62 (1 : BitVec 1) }
  else { x with rfault := putFld (putFld x.rfault 63 (1 : BitVec 1)) 48 cause, rfptr := ptr }

def State.postFault (s : State) (c : Coord) (cause : BitVec 8) (ptr : Dword) : State :=
  s.modSlot c (·.postFault cause ptr)

/-! ## Slot records in the context area (R342 to R344) -/

/-- The address of a slot's record (R344). -/
def recordAddr (area : Dword) (c : Coord) : Nat :=
  fldN area 20 32 * 2 ^ 20 + 2688 * (((c.die.toNat * 48 + c.cluster.toNat) * 8 + c.core.toNat) * 16 + c.slot.toNat)

/-- Bytes 0x000 to 0x9FF of a record (R343). -/
def Slot.recordBytes (x : Slot) : List Byte :=
  leBytes 8 x.pc.toNat ++ ((List.range 31).map fun i => leBytes 8 (x.g.getD (i + 1) 0).toNat).flatten
    ++ (x.v.toList.map fun v => leBytes 64 v.toNat).flatten
    ++ leBytes 8 x.status.toNat ++ ((List.range 7).map fun i => leBytes 8 (x.k.getD (i + 1) 0).toNat).flatten
    ++ (x.sg.toList.map fun g => leBytes 16 g.toNat).flatten
    ++ leBytes 8 x.strand.toNat ++ leBytes 8 x.cls.toNat ++ leBytes 8 x.epc.toNat ++ leBytes 8 x.tval.toNat
    ++ leBytes 8 x.cause.toNat ++ leBytes 8 x.tvec.toNat ++ leBytes 8 x.nfsw.toNat ++ leBytes 8 x.rfptr.toNat

/-- The records of a VF that were saved with it, or (`.displaced`) those of displaced tasks. -/
def Vf.records (x : Vf) (w : Standing) : Sparse Saved :=
  match w with
  | .displaced n => x.displaced.get n []
  | _ => x.saved
def Vf.setRecords (x : Vf) (w : Standing) (t : Sparse Saved) : Vf :=
  match w with
  | .displaced n => { x with displaced := x.displaced.put n t [] }
  | _ => { x with saved := t }

/-- The standings that records of a VF have: those of displaced tasks, the ones displaced first in front, then those saved with it. -/
def Vf.standings (x : Vf) : List Standing := (x.displaced.map fun l => .displaced l.1) ++ [.saved]

/-- The record of a slot. -/
def State.savedAt (s : State) (vf : Nat) (w : Standing) (c : Coord) : Option Saved := ((s.vf vf).records w).find? c.key
def State.setSaved (s : State) (vf : Nat) (w : Standing) (c : Coord) (r : Saved) : State :=
  s.modVf vf fun v => v.setRecords w ((v.records w).set c.key r)

/-- The record of a slot whose hold satisfies `p`, a displaced task's first: its VF, its standing and the hold. -/
def State.savedWith (s : State) (c : Coord) (p : Hold → Bool) : Option (Nat × Standing × Hold) :=
  s.vfs.findSome? fun v => v.2.standings.findSome? fun w =>
    ((v.2.records w).find? c.key).bind fun r => (r.slot.hold.filter p).map fun h => (v.1, w, h)

/-- The record's bytes with the dwords replaced that differ between two states of its slot. -/
def changedBytes (old new b : List Byte) : List Byte :=
  ((List.range 320).flatMap fun i =>
    let o := (old.drop (8 * i)).take 8
    let n := (new.drop (8 * i)).take 8
    if o = n then (b.drop (8 * i)).take 8 else n) ++ b.drop 2560

/-- A record whose slot changes by `f` (R342): the dwords that change are written into it. -/
def State.modSaved (s : State) (vf : Nat) (w : Standing) (c : Coord) (f : Slot → Slot) : State :=
  match s.savedAt vf w c with
  | none => s
  | some r =>
    let x := f r.slot
    let a := recordAddr (s.vf vf).ctxarea c
    match r.kept with
    | some b => s.setSaved vf w c { r with slot := x, kept := some (changedBytes r.slot.recordBytes x.recordBytes b) }
    | none =>
      let s := s.setSaved vf w c { r with slot := x }
      ((List.range 320).zip ((leDwords 320 r.slot.recordBytes).zip (leDwords 320 x.recordBytes))).foldl (fun s d =>
        if d.2.1 = d.2.2 then s else s.deviceStore (a + 8 * d.1) (leBytes 8 d.2.2.toNat)) s

/-- The refusal of a posted packet goes to the record of the task that made it, saved or not; that of a task that has ended is
discarded with it (R293). -/
def State.packetFault (s : State) (p : Packet) (cause : BitVec 8) (ptr : Dword) : State :=
  match p.task with
  | .present => s.postFault p.coord cause ptr
  | .ended => s
  | w => s.modSaved p.vf w p.coord (·.postFault cause ptr)

/-! ## Timelines and the loom's counters (R208, R224) -/

/-- R224 step 1 for an advance of timeline `t` of core `core` by `n`. -/
def Cluster.loomCount (x : Cluster) (core t n : Nat) : Cluster :=
  { x with ct := x.ct.map fun e =>
      if bit e 63 && fldN e 56 6 == 8 * core + t then
        putFld e 0 (BitVec.ofNat 32 (min (fldN e 0 32 + n) (2 ^ 32 - 1)))
      else e }

/-- R224 step 2. -/
def loomHigh (e : Dword) : Bool := 1 ≤ fldN e 32 16 && fldN e 32 16 ≤ fldN e 0 32

/-- Some enabled term has all its counters high (R224 step 3). -/
def Cluster.loomReady (x : Cluster) : Bool :=
  x.term.toList.any fun t =>
    bit t 63 && fldN t 0 16 != 0
      && (List.range 16).all fun i => !bit t i || loomHigh (x.ct.getD i 0)

/-- The greatest m such that every number up to m is complete, from `m` on. -/
def advanceTo (done : List (Nat × Nat)) (t : Nat) : Nat → Nat → Nat
  | 0, m => m
  | k + 1, m => if done.contains (t, m + 1) then advanceTo done t k (m + 1) else m

/-- The value of timeline `t` once number `n` is complete too. -/
def tlValue (tl : Vector Nat 8) (completed : List (Nat × Nat)) (t n : Nat) : Nat :=
  advanceTo ((t, n) :: completed) t (completed.length + 1) (tl.getD t 0)

/-- The numbers that stay listed above a timeline's value. -/
def tlListed (completed : List (Nat × Nat)) (t n new : Nat) : List (Nat × Nat) :=
  ((t, n) :: completed).filter fun e => e.1 != t || new < e.2

/-- The number completes in the saved core record of a VF (R344). -/
def CoreRecord.tlComplete (r : CoreRecord) (t n : Nat) : CoreRecord :=
  let new := tlValue r.tl r.completed t n
  { r with tl := r.tl.setIfInBounds t new, completed := tlListed r.completed t n new }

/-- R208: an operation numbered `n` on timeline `t` of a core completes there. -/
def State.tlHere (s : State) (c : Coord) (t n : Nat) : State :=
  let k := s.core c
  let old := k.tl.getD t 0
  let new := tlValue k.tl k.completed t n
  let s := s.setCore c { k with tl := k.tl.setIfInBounds t new, completed := tlListed k.completed t n new }
  let cl := (s.cluster c).loomCount c.core.toNat t (new - old)
  let s := s.setCluster c cl
  let waiters := c.slots.filterMap fun w =>
    match (s.slot w).hold with
    | some (.waittl n' v) => if n'.toNat = t && v.toNat ≤ new then some (Instr.waittlSatisfied, EvArg.at w) else none
    | _ => none
  let s := s.laters waiters
  if old < new && cl.loomReady then s.later .loomTermFire (.at c) else s

/-- R208: an operation of a VF, numbered `n` on timeline `t` of a core, completes: on the core, or in its record while the VF is
saved. -/
def State.tlComplete (s : State) (c : Coord) (vf t n : Nat) : State :=
  match (s.vf vf).savedCores.find? c.coreKey with
  | some r => s.modVf vf fun x => { x with savedCores := x.savedCores.set c.coreKey (r.tlComplete t n) }
  | none => s.tlHere c t n

/-- The next number of a timeline. -/
def State.tlNext (s : State) (c : Coord) (t : Nat) : State × Nat :=
  let k := s.core c
  let n := k.nextNum.getD t 1
  (s.setCore c { k with nextNum := k.nextNum.setIfInBounds t (n + 1) }, n)

/-! ## Armed join records (R220) -/

/-- The die whose strand table serves a record. -/
def joinDie (a : Nat) : BitVec 3 := BitVec.ofNat 3 ((homeDie a).getD 0)

def State.joinOf (s : State) (a : Nat) : Option JoinReg := (s.die (joinDie a)).joins.find? (·.addr == a)

/-- Disarms a record. -/
def State.disarm (s : State) (a : Nat) : State :=
  s.modDie (joinDie a) fun x => { x with joins := x.joins.filter (·.addr != a) }

/-! ## Sync words (R216, R218) -/

/-- `complete(w)` on target, count and generation. -/
def syncComplete (target count gen : Nat) : Nat × Nat :=
  if 1 ≤ target && target ≤ count then (count % target, (gen + count / target) % 2 ^ 16) else (count, gen)

/-- Writes count, target and generation of the sync word at `a`: an update touches both of its words (R133, R217). -/
def State.setSync (s : State) (a target count gen : Nat) : State :=
  (s.storeNat a 8 (target * 2 ^ 32 + count)).storeNat (a + 8) 2 gen

/-- An update of the sync word at `a`: the new target and count, then `complete`; a join record that completes disarms (R220). -/
def State.syncUpdate (s : State) (a target count : Nat) : State :=
  let (c, g) := syncComplete target count (s.mem.readNat (a + 8) 2)
  let s := s.setSync a target c g
  if 1 ≤ target && target ≤ count && (s.joinOf a).isSome then s.disarm a else s

/-- `swadd` at the home (R218). -/
def State.swaddAt (s : State) (a : Nat) (x : Word) : State :=
  let w := s.mem.readNat a 8
  s.syncUpdate a (w / 2 ^ 32) ((w + x.toNat) % 2 ^ 32)

/-- `swexp` at the home (R218). -/
def State.swexpAt (s : State) (a : Nat) (x : Word) : State :=
  s.syncUpdate a x.toNat (s.mem.readNat a 4)

/-- An OR into the flags of the sync word at `a` (R104, R106). -/
def State.orFlags (s : State) (a : Nat) (f : BitVec 16) : State :=
  s.storeNat (a + 8) 8 ((s.mem.dword (a + 8)) ||| (f.setWidth 64 <<< 16)).toNat

/-! ## The strand table (R243 to R253) -/

/-- The entry of an id that is not free. -/
def Die.strandOf (x : Die) (id : BitVec 24) : Option (Nat × StrandEntry) :=
  List.find? (fun e : Nat × StrandEntry =>  e.2.state != .free && e.2.id == id) x.strands

def StrandEntry.isLive (e : StrandEntry) : Bool := e.state == .live

/-- The strand or ply is live on the die; strand 0 always is (R241). -/
def Die.strandLive (x : Die) (id : BitVec 24) : Bool :=
  id == 0 || match x.strandOf id with | some (_, e) => e.isLive | none => false

/-- The id has an ended entry on the die (R249). -/
def Die.strandEnded (x : Die) (id : BitVec 24) : Bool :=
  match x.strandOf id with | some (_, e) => !e.isLive | none => false

/-- The lowest free entry of the 8,192; plies use the first 2,048 indices of their own (R260). -/
def Die.freeStrand (x : Die) (limit : Nat) : Option Nat :=
  (List.range limit).find? fun i => (x.strands.get i StrandEntry.reset).state == .free

/-- The expiry of a ply: the latest among its live members (R253). -/
def Die.plyExpiry (x : Die) (members : List (BitVec 24)) : Nat :=
  members.foldl (fun m id =>
    match x.strandOf id with
    | some (_, e) => if e.isLive then max m e.expiry else m
    | none => m) 0

/-- The expiry of a live entry; for a ply, the latest among its live members (R253). -/
def Die.expiryOf (x : Die) (e : StrandEntry) : Nat := if e.isPly then x.plyExpiry e.members else e.expiry

/-- The expiry of an id on a die; 0 where it is not live. -/
def Die.expiryAt (x : Die) (id : BitVec 24) : Nat :=
  match x.strandOf id with
  | some (_, e) => if e.isLive then x.expiryOf e else 0
  | none => 0

/-- Remaining allowance of an id on a die (R243). -/
def State.remaining (s : State) (d : BitVec 3) (id : BitVec 24) : Nat := (s.die d).expiryAt id - s.now d

/-- Position of a die on the ring (R11). -/
def ringPos (d : BitVec 3) : Nat := if d.toNat < 4 then d.toNat else 4 + (7 - d.toNat)

/-- Hops of the shorter way (R11). -/
def ringHops (a b : BitVec 3) : Nat :=
  let x := (ringPos a + 8 - ringPos b) % 8
  min x (8 - x)

/-- R250: the allowance that a packet carries when it meets the bound `b`. -/
def carried (rem b : Nat) : Nat := rem - b - (rem * 100 + 999999) / 1000000

/-- R250: the bound of a path between dies of the device. -/
def State.pathBound (s : State) (src dst : BitVec 3) (shuttle : Bool) : Nat :=
  let l := (s.die src).linkb
  if src = dst then 0 else if shuttle then fldN l 0 16 else ringHops src dst * fldN l 16 16

/-- The strand header of a packet that leaves `src` (R249, R250). -/
def State.header (s : State) (src : BitVec 3) (b : Nat) (id : BitVec 24) (vf : Nat) (registers : Bool) : Ingress :=
  let one (i : BitVec 24) : Nat := if i = 0 then 2 ^ 32 - 1 else carried (s.remaining src i) b
  let members : List (BitVec 24 × Nat) :=
    match (s.die src).strandOf id with
    | some (_, e) =>
      if e.isPly then (e.members.filter (s.die src).strandLive).map fun m => (m, one m) else []
    | none => []
  { id := id, carried := one id, members := members, vf := vf, registers := registers }

/-- An allowance that arrives for a strand other than 0 (R243). -/
def arriving (carried : Nat) : Nat := min carried (2 ^ 32 - 2)

/-- R251 for one strand: the new table, or none when it needs an entry and the table is full. -/
def Die.receiptOne (x : Die) (now : Nat) (vf : Nat) (id : BitVec 24) (carried : Nat) : Option Die :=
  match x.strandOf id with
  | some (i, e) => if e.isLive then some { x with strands := x.strands.set i { e with expiry := min e.expiry (now + carried) } } else some x
  | none =>
    match x.freeStrand 8192 with
    | none => none
    | some i =>
      some { x with strands := x.strands.set i { StrandEntry.reset with
        state := .live, vf := vf, id := id, expiry := now + carried } }

/-- R251 for a packet's header. -/
def Die.receipt (x : Die) (now : Nat) (p : Ingress) : Option Die :=
  if p.id = 0 then some x
  else if p.members.isEmpty then x.receiptOne now p.vf p.id (arriving p.carried)
  else
    let go := p.members.foldl (fun (o : Option Die) m => match o with
      | none => none
      | some x => x.receiptOne now p.vf m.1 (arriving m.2)) (some x)
    match go with
    | none => none
    | some x =>
      match x.strandOf p.id with
      | some (i, e) =>
        let ms := ((e.members ++ p.members.map (·.1)).eraseDups).take 4
        some { x with strands := x.strands.set i { e with members := ms, expiry := x.plyExpiry ms } }
      | none =>
        match x.freeStrand 8192 with
        | none => none
        | some i =>
          let ms := (p.members.map (·.1)).take 4
          some { x with strands := x.strands.set i { StrandEntry.reset with
            state := .live, isPly := true, vf := p.vf, id := p.id, members := ms, expiry := x.plyExpiry ms } }

/-- R249: a packet arrives at a die; whether it is accepted. A registering packet applies the receipt rule, and a table
without a free entry drops it (R248). -/
def State.ingress (s : State) (d : BitVec 3) (p : Ingress) : State × Bool :=
  let x := s.die d
  let noTime := if p.members.isEmpty then p.carried == 0 else p.members.all fun m => m.2 == 0
  if p.id != 0 && (noTime || x.strandEnded p.id) then (s.count d p.vf 6, false)
  else if p.registers then
    match x.receipt (s.now d) p with
    | some x' => (s.setDie d x', true)
    | none => (s.count d p.vf 12, false)
  else (s, true)

/-- The sending die records the die that a registering packet reaches (R249). Of a packet that carries a ply, the ply's entry alone records
it, and its members' entries do not (log 117). -/
def State.reached (s : State) (src dst : BitVec 3) (id : BitVec 24) : State :=
  s.modDie src fun x =>
    match x.strandOf id with
    | some (i, e) => { x with strands := x.strands.set i { e with dies := e.dies ||| (1#8 <<< dst.toNat) } }
    | none => x

/-- The same for a peer device: at most 16, then ovf (R246). -/
def State.reachedPeer (s : State) (src : BitVec 3) (dev : BitVec 9) (id : BitVec 24) : State :=
  s.modDie src fun x =>
    match x.strandOf id with
    | some (i, e) =>
      if e.peers.contains dev then x
      else if e.peers.length < 16 then { x with strands := x.strands.set i { e with peers := e.peers ++ [dev] } }
      else { x with strands := x.strands.set i { e with ovf := true } }
    | none => x

/-- A packet with a header goes from one die to another of this device (R249): whether the target accepts it. -/
def State.crossWith (s : State) (src dst : BitVec 3) (h : Ingress) : State × Bool :=
  if src = dst then (s, true)
  else
    let (s, ok) := s.ingress dst h
    if ok && h.registers then (s.reached src dst h.id, true) else (s, ok)

/-- The same for a packet of an id that leaves its die now. -/
def State.cross (s : State) (src dst : BitVec 3) (shuttle : Bool) (id : BitVec 24) (vf : Nat) (registers : Bool) :
    State × Bool :=
  s.crossWith src dst (s.header src (s.pathBound src dst shuttle) id vf registers)

/-! ## Join records (R219 to R222) -/

/-- An operation on a whole join record touches every word of it: tag 00 (R133, R217). -/
def State.touchRecord (s : State) (a : Nat) : State :=
  { s with mem := (List.range 16).foldl (fun m i => m.setTag (a + 8 * i) 0) s.mem }

/-- Party `p` of the record at `a` is lost (R222), in one step. -/
def State.joinLose (s : State) (a : Nat) (p : Nat) (vf : Nat) : State :=
  let w := s.mem.readNat a 8
  let target := w / 2 ^ 32 - 1
  let count := w % 2 ^ 32
  let w1 := s.mem.dword (a + 8)
  let lost := fldN w1 32 16 ||| 2 ^ p
  let gen := fldN w1 0 16
  let full := target ≤ count
  let w1 := putFld (putFld w1 32 (BitVec.ofNat 16 lost)) 0 (BitVec.ofNat 16 (if full then gen + 1 else gen))
  let s := s.count (joinDie a) vf 10
  let s := (s.deviceStore a (leBytes 8 (target * 2 ^ 32 + if full then 0 else count))).deviceStore (a + 8) (leBytes 8 w1.toNat)
  if full then s.disarm a else s

/-- R220 at the home. -/
def State.armAt (s : State) (a : Nat) (vf : Nat) (src : BitVec 3) : State :=
  let d := joinDie a
  let s := (s.disarm a).touchRecord a
  let ctl := s.mem.dword (a + 0x18)
  let parties := (List.range 16).filter fun p => bit ctl (16 + p)
  let field (p : Nat) : Word := BitVec.ofNat 32 (s.mem.readNat (a + 0x20 + 4 * p) 4)
  let watched := parties.filterMap fun p => if bit (field p) 31 then some (BitVec.ofNat 4 p, fld (field p) 0 24) else none
  let w1 := putFld (s.mem.dword (a + 8)) 32 (0 : BitVec 16)
  -- each watched strand is forwarded to the home die
  let s := watched.foldl (fun s w => (s.cross src d false w.2 vf true).1) s
  let s := (s.storeNat (a + 0x10) 8 0).storeNat (a + 0x18) 8 (putFld ctl 0 (0 : BitVec 16)).toNat
  let room := (s.die d).joins.length < 1024
  let s := (s.storeNat a 8 (parties.length * 2 ^ 32)).storeNat (a + 8) 8 w1.toNat
  let s := if room then s.modDie d fun x => { x with joins := x.joins ++ [{ addr := a, parties := watched }] } else s
  let gone := if room then (watched.filter fun w => !(s.die d).strandLive w.2).map (·.1.toNat) else parties
  if parties.isEmpty then
    -- target 0 completes at once
    (s.storeNat (a + 8) 8 (putFld w1 0 (fld w1 0 16 + 1#16)).toNat).disarm a
  else gone.foldl (fun s p => s.joinLose a p vf) s

/-- R221 at the home. -/
def State.jaddAt (s : State) (a : Nat) (x : Dword) (p : Nat) : State :=
  let ctl := s.mem.dword (a + 0x18)
  let w1 := s.mem.dword (a + 8)
  let armed := (s.joinOf a).isSome
  if armed && bit w1 (32 + p) then s
  else if armed && (!bit ctl (16 + p) || bit ctl p) then (s.touchRecord a).orFlags a flInvalid
  else
    let s := s.touchRecord a
    let sum := s.mem.dword (a + 0x10)
    let ty := fldN ctl 32 2
    let (v, fl) : Nat × BitVec 16 :=
      if ty = 1 then fp32.add 0 (fp32.decode (fldN sum 0 32)) (fp32.decode (fldN x 0 32))
      else if ty = 2 then fp16.add 0 (fp16.decode (fldN sum 0 16)) (fp16.decode (fldN x 0 16))
      else ((sum + x).toNat, 0)
    let s := s.storeNat (a + 0x10) 8 v
    let s := if fl = 0 then s else s.orFlags a fl
    let s := if armed then s.storeNat (a + 0x18) 8 (ctl ||| (1#64 <<< p)).toNat else s
    let w := s.mem.readNat a 8
    s.syncUpdate a (w / 2 ^ 32) ((w % 2 ^ 32 + 1) % 2 ^ 32)

/-! ## What a posted packet does at its home -/

/-- The new bits of one element of a vector atomic (R155): `w` bits, old and operand. -/
def vatomicFn (ty fn : BitVec 4) (w old x : Nat) : Nat :=
  if ty.toNat ≤ 2 then
    let f := fmtOf ty
    if fn = 4 then (f.add 0 (f.decode old) (f.decode x)).1
    else (f.minMax (fn == 6) old x).1
  else
    let sg := ty.toNat % 2 = 1
    if fn = 4 then (old + x) % 2 ^ w
    else if fn = 5 then (if intOf sg w x < intOf sg w old then x else old)
    else if fn = 6 then (if intOf sg w old < intOf sg w x then x else old)
    else if fn = 7 then old &&& x
    else if fn = 8 then old ||| x
    else old ^^^ x

/-- Element width in bits (R41). -/
def elemWidth (ty : BitVec 4) : Nat := if elemCount ty = 0 then 0 else 512 / elemCount ty

/-- The bytes that a packet touches at this device; none where it waits to be translated. -/
def Packet.addrs (p : Packet) : List Nat :=
  match p.route with
  | .peer .. => []
  | .here a =>
    if p.held then []
    else match p.op with
    | .store bytes _ => bytes.map (·.1)
    | .vatomic ty _ elems => (elems.map fun e => (List.range (elemWidth ty / 8)).map (e.1 + ·)).flatten
    | .flags _ => (List.range 8).map (a + 8 + ·)
    | .swadd _ => (List.range 16).map (a + ·)
    | .swexp _ | .arrival .. => (List.range 16).map (a + ·)
    | .arm => (List.range 128).map (a + ·)
    | .jadd .. => (List.range 128).map (a + ·)
    | .mail _ | .ship _ | .cut _ => []

/-- The pieces (offset, bytes) that an operation at an address touches. -/
def PacketOp.pieces : PacketOp → List (Nat × Nat)
  | .store bytes _ => bytes.map fun b => (b.1, 1)
  | .vatomic ty _ elems => elems.map fun e => (e.1, elemWidth ty / 8)
  | .flags _ => [(8, 8)]
  | .swadd _ | .swexp _ | .arrival .. => [(0, 16)]
  | .arm | .jadd .. => [(0, 128)]
  | .mail _ | .ship _ | .cut _ => []

/-- The rights that it needs. -/
def PacketOp.needs : PacketOp → BitVec 4
  | .store .. => rightW
  | .flags _ | .arrival .. => 5
  | _ => 13

/-- An engine's arrival at a sync word (R172, R204). -/
def State.arrivalAt (s : State) (a : Nat) (x : Word) (f : BitVec 16) : State :=
  let s := if x = 0 then s else s.swaddAt a x
  if f = 0 then s else s.orFlags a f

/-- The mailbox that a send has reserved is full (R186), on the core or in its record. -/
def State.mailFills (s : State) (p : Packet) (n : BitVec 3) : State :=
  let fill (mb : Vector Mailbox 8) : Vector Mailbox 8 :=
    mb.set n.toNat { mb.get n.toFin with full := true, coming := false }
  match (s.vf p.vf).savedCores.find? p.coord.coreKey with
  | some r => s.modVf p.vf fun x => { x with savedCores := x.savedCores.set p.coord.coreKey { r with mb := fill r.mb } }
  | none => s.modCore p.coord fun k => { k with mb := fill k.mb }

/-- The send of a slot, by its number on tl6, may leave: its earlier accesses have performed (R284). -/
def State.shipped (s : State) (c : Coord) (num : Nat) : State :=
  let ship (x : Send) : Send := if x.core == c.core && x.num == num then { x with waits := false } else x
  (s.modCluster c fun cl => { cl with sends := cl.sends.map ship }).later .shuttleSendTransmit (.at c)

/-- The cut of an id by a slot of a VF (R259): to this die where it has an entry of it, else to all eight. -/
def State.sendCut (s : State) (d : BitVec 3) (vf : Nat) (id : BitVec 24) : State :=
  let dies := if ((s.die d).strandOf id).isSome then [d] else allDies
  s.laters (dies.map fun t => (Instr.cutArrival, { EvArg.dieVf t vf with n := id.toNat }))

/-- The packet stands for an event that every earlier packet of its task precedes. -/
def PacketOp.isLast : PacketOp → Bool
  | .mail _ | .ship _ | .cut _ => true
  | _ => false

/-- The effect of an accepted packet. -/
def State.effect (s : State) (p : Packet) (a : Nat) : State :=
  match p.op with
  | .store bytes tag => s.store bytes tag
  | .vatomic ty fn elems =>
    let w := elemWidth ty
    elems.foldl (fun s e =>
      s.storeNat e.1 (w / 8) (vatomicFn ty fn w (s.mem.readNat e.1 (w / 8)) (e.2.toNat % 2 ^ w))) s
  | .flags f => s.orFlags a f
  | .swadd x => s.swaddAt a x
  | .swexp x => s.swexpAt a x
  | .arm => s.armAt a p.vf p.coord.die
  | .jadd x party _ => s.jaddAt a x party.toNat
  | .mail n => s.mailFills p n
  | .ship num => s.shipped p.coord num
  | .cut id => s.sendCut p.coord.die p.vf id
  | .arrival x f => s.arrivalAt a x f

/-- The tag and the value of a store for the escape check. -/
def PacketOp.escapeOf : PacketOp → BitVec 2 × Dword
  | .store bytes tag => (tag, leDword (bytes.map (·.2)))
  | _ => (0, 0)

/-- The pointer that a refusal at byte `j` of a packet's bytes reports: for poison under a store, that of the lowest poisoned
word (R152); else the packet's own. For a vector atomic that is the first active element of its line, whichever element met
the refusal (log 81: the spec names none). -/
def Packet.refusedPtr (p : Packet) (cause : BitVec 8) (j : Nat) : Dword :=
  match p.op with
  | .store .. => if cause = 0x09 then ptrAdd p.ptr (BitVec.ofNat 60 (j / 8 * 8)) else p.ptr
  | _ => p.ptr

/-- The header of a packet as it leaves its die along a path with the bound `b`: one whose strand has ended on the die had left before
that (R255). -/
def State.packetHdr (s : State) (p : Packet) (b : Nat) : Ingress :=
  if (s.die p.coord.die).strandLive p.strand then s.header p.coord.die b p.strand p.vf (p.xcluster || p.op matches .arm) else p.hdr

/-- A packet for this device performs: ingress at the home die (R249), the checks of R146, then its effect; a
refusal goes to the slot's remote-fault record (R293). -/
def State.perform (s : State) (p : Packet) (a : Nat) : State :=
  let c := p.coord
  let (s, ok) :=
    match homeDie a with
    | some d => s.crossWith c.die (BitVec.ofNat 3 d) (s.packetHdr p (s.pathBound c.die (BitVec.ofNat 3 d) false))
    | none => (s, true)
  let s :=
    if !ok then s
    else
      match homeRefused s.mem c.clusterKey p.policy p.addrs p.op.escapeOf.1 p.op.escapeOf.2 with
      | some (cause, j) => s.packetFault p cause (p.refusedPtr cause j)
      | none => State.effect { s with mem := s.cohStore c.clusterKey p.policy p.addrs } p a
  match p.completes with
  | some n => s.tlComplete c p.vf 7 n
  | none => s

/-- The packet is addressed to this device and is not held by a page fault. -/
def Packet.isHere (p : Packet) : Bool := !p.held && match p.route with | .here _ => true | .peer .. => false

/-- The packet goes to a device through the peer path. -/
def Packet.goesTo (p : Packet) (dev : BitVec 9) : Bool := match p.route with | .peer d _ => d == dev | .here _ => false

/-- The packet holds back its slot's later packets to this device (R299 row 2, R305): a held post, or an access through the
peer path to the device's own number. -/
def Packet.holdsBack (p : Packet) (own : BitVec 9) : Bool :=
  match p.route with
  | .here _ => p.held
  | .peer d _ => d == own

/-- The packet is of the task that runs in slot `c`. -/
def Packet.of (p : Packet) (c : Coord) : Bool := p.coord == c && p.task == .present

/-- Two packets of one task, or of tasks of one slot that stand alike. -/
def Packet.with (p q : Packet) : Bool := q.coord == p.coord && q.task == p.task

/-- The packet has not left its core's port: it is neither held at a memory port by a page fault, nor on its way to a peer, nor before one
that is. -/
def Packet.inPort (p : Packet) : Bool := !p.held && !p.sent

/-- The packet may perform at this device, after those `before` it in the port. The fill of a mailbox and the release of a send come after
every earlier packet of the task; a `cut` after every one of the slot that has not left the port (R259), such a fill or release among them
(R300); any other packet only waits behind one that holds it back. -/
def Packet.ready (p : Packet) (own : BitVec 9) (before : List Packet) : Bool :=
  p.isHere && before.all fun q => !(match p.op with
    | .mail _ | .ship _ => p.with q
    | .cut _ => q.coord == p.coord && q.inPort
    | _ => p.with q && q.holdsBack own)

/-- The first packet of slot `c` that may perform at this device, whatever its task, and the port without it. -/
def nextOf (own : BitVec 9) (c : Coord) : List Packet → List Packet → Option (Packet × List Packet)
  | _, [] => none
  | before, p :: r =>
    if p.coord == c && p.ready own before then some (p, r)
    else (nextOf own c (before ++ [p]) r).map fun x => (x.1, p :: x.2)

def nextHere (own : BitVec 9) (c : Coord) (l : List Packet) : Option (Packet × List Packet) := nextOf own c [] l

/-- A store of a launch's task has performed: the launch's retirement notice may go (R269). -/
def State.launchStored (s : State) (d : BitVec 3) (vf : Nat) (launch : Option Dword) : State :=
  match launch.bind fun id => (s.die d).launches.find? fun l => l.id == id && l.vf == vf with
  | some l =>
    if l.crews.all (·.retired) then s.later .retirementNotice { EvArg.dieVf d l.vf with v := l.id } else s
  | none => s

/-- What a packet's end makes possible: an invalidation that waited for it (R336), the retirement notice of its launch (R269). -/
def State.released (s : State) (p : Packet) : State :=
  let s := if p.stale then
      s.laters (s.slots.filterMap fun (k, x) =>
        match x.hold with
        | some .invt | some .csrw => some (Instr.invtComplete, EvArg.at (Coord.ofKey k))
        | _ => none)
    else s
  s.launchStored p.coord.die p.vf p.launch

/-- Performs the first packet of slot `c` for this device that may perform. -/
def State.performFirst (s : State) (c : Coord) : State :=
  match nextHere s.dev.devno c s.port with
  | none => s
  | some (p, rest) =>
    match p.route with
    | .here a => (State.perform { s with port := rest } p a).released p
    | .peer .. => s

/-- Performs the packets of a slot for this device, in order, up to one that holds the others back (log 15). -/
def State.drainN (s : State) (c : Coord) : Nat → State
  | 0 => s
  | n + 1 => (s.performFirst c).drainN c n

def State.drain (s : State) (c : Coord) : State := s.drainN c s.port.length

/-- The slot's task still has packets that only a peer (or a wake) can finish. -/
def State.outstanding (s : State) (c : Coord) : Bool := s.port.any (·.of c)

end Sys2Proof.Machine
end

