-- ==== Sys2Proof/Machine/Ops.lean ====
section
/-! DEFINITION. The shared operations of a slot: retirement (R89, R229, R230), taking a trap and returning from it (R325 to
R332), page faults (R141), and the accesses that instructions make (R144, R145), with releases and fences (R300, R307). -/
namespace Sys2Proof.Machine

/-- The held slots that satisfy `p` return to the rotation, to reissue their instruction. -/
def State.unhold (s : State) (p : Slot → Bool) : State :=
  let l : Sparse Slot := s.slots.map fun kx => if p kx.2 then (kx.1, { kx.2 with hold := none }) else kx
  { s with slots := l }

/-! ## Fault records (R141, R328, R369) -/

/-- The four dwords of a record. -/
def State.record (s : State) (c : Coord) (vf : Nat) (va : Nat) (fetch : Bool) (kind occ acc : Nat)
    (strand : BitVec 24) : FaultRec :=
  { dwords := [c.bits s.dev.devno, BitVec.ofNat 64 (vf % 65536 * 2 ^ 48 + va % 2 ^ 48),
               BitVec.ofNat 64 ((if fetch then 256 else 0) + kind % 8 * 32 + occ % 4 * 8 + acc % 8),
               strand.setWidth 64] }

/-- Hands a record to the VF's fault queue (R369). -/
def State.queueRecord (s : State) (vf : Nat) (r : FaultRec) : State :=
  (s.modVf vf fun x => { x with faults := x.faults ++ [r] }).later .faultRecordAppend (.ofVf vf)

/-! ## Walks that are abandoned (R313) -/

/-- The states of an object's header (R308). -/
def headerState (h : Dword) : Nat := fldN h 38 2

/-- Sets the state of the header at an address, tag 10 kept. -/
def Memory.setHeaderState (m : Memory) (a : Nat) (st : Nat) : Memory :=
  (m.store (at' a (leBytes 8 (putFld (m.dword a) 38 (BitVec.ofNat 2 st)).toNat)) 2).modified (lineOf a)

/-- Walks that wait for objects of other walks look again (R312). -/
def State.walkWaiters (s : State) : List (Instr × EvArg) :=
  s.clusters.filterMap fun kx =>
    match kx.2.walk with
    | some w => if w.waits.isEmpty then none else some (Instr.walkVisit, EvArg.at w.coord)
    | none => none

/-- R313: objects under the walk return from state 10 to 00, and its number completes without a root store. -/
def State.abandonWalk (s : State) (cl : Coord) : State :=
  match (s.cluster cl).walk with
  | none => s
  | some w =>
    -- a header that has become poison is not written (R146), nor one whose arena has been killed: its lines are dropped (R256)
    let marked := (w.marked.filter fun m => s.mem.tag m.1 != 3 && !(s.die cl.die).killed.contains m.2).map (·.1)
    let s := State.wrote { s with mem := marked.foldl (fun m a => m.setHeaderState a 0) s.mem } marked
    let s := s.modCluster cl fun x => { x with walk := x.walkQ.head?, walkQ := x.walkQ.tail }
    let s := (s.tlComplete w.coord w.vf 7 w.num).laters s.walkWaiters
    match (s.cluster cl).walk with
    | some w' => s.later .walkVisit (.at w'.coord)
    | none => s

/-- The walk is of the task in slot `c`. -/
def Walk.of (w : Walk) (c : Coord) : Bool := w.coord == c && w.task == .present

/-- The walk of a slot's task is abandoned: one that waits for the walker completes its number at once. -/
def State.dropWalks (s : State) (c : Coord) : State :=
  let queued := (s.cluster c).walkQ.filter (·.of c)
  let s := if queued.isEmpty then s
    else s.modCluster c fun x => { x with walkQ := x.walkQ.filter fun w => !w.of c }
  let s := queued.foldl (fun s w => s.tlComplete c w.vf 7 w.num) s
  match (s.cluster c).walk with
  | some w => if w.of c then s.abandonWalk c else s
  | none => s

/-! ## Retirement -/

/-- A crew that has started and not retired. -/
def Crew.live (k : Crew) : Bool := k.started && !k.retired

/-- The launch of a die with an id. -/
def Die.launch? (x : Die) (vf : Nat) (id : Dword) : Option Launch := x.launches.find? fun l => l.vf == vf && l.id == id

/-- The launch of a slot's task. -/
def State.launchOf (s : State) (c : Coord) : Option Launch :=
  let x := s.slot c
  x.launch.bind ((s.die c.die).launch? x.vf)

/-- The slot's task is of the crew: its launch, and the crew's index in its `c.crew` (R229). -/
def Launch.crewOf (l : Launch) (k : Crew) (x : Slot) : Bool :=
  x.launch == some l.id && x.vf == l.vf && fldN x.crew 48 16 == k.index

/-- The crew of the die's launches that holds a slot (R228). -/
def Launch.holds (l : Launch) (x : Slot) (c : Coord) (k : Crew) : Bool :=
  l.crewOf k x && k.cluster == c.cluster && k.live && k.cores.contains c.core

/-- Every control context and helper of the crew has retired (R229); one that is saved has not. -/
def State.crewDone (s : State) (c : Coord) (l : Launch) (k : Crew) : Bool :=
  k.cores.all fun core =>
    (List.range 11).all fun i =>
      let w : Coord := { die := c.die, cluster := k.cluster, core := core, slot := BitVec.ofNat 4 i }
      let x := s.slot w
      !(x.live && l.crewOf k x) && match (s.vf l.vf).saved.find? w.key with | some r => !l.crewOf k r.slot | none => true

/-- The arrival of a retired crew at its done sync word, dropped on any refusal (R229). No rule says which strand it carries to a home on
another die: it goes as strand 0, which no ingress drops (log 112). -/
def State.doneArrival (s : State) (c : Coord) (vf : Nat) (done : Dword) : State :=
  if done = 0 then s
  else
    let seg : BitVec 128 := BitVec.ofNat 128 ((4 * 2 ^ 60 + 13 * 2 ^ 56 + 2 ^ 48 - 1) * 2 ^ 64)
    match s.enginePlace c vf none { p := done, seg := seg } 16 13 with
    | .error _ => s
    | .ok pl =>
      match pl.addrs with
      | [] => s
      | a :: _ =>
        if (firstRefused s.mem c.clusterKey pl.addrs).isSome then s
        else State.swaddAt { s with mem := s.cohStore c.clusterKey pl.policy pl.addrs } a 1

/-- A queue whose first entry may have changed, or that a task of a lower class may now be served from, is looked at for
pre-emption (R236). -/
def State.preemptCheck (s : State) (d : BitVec 3) (q : Nat) : State :=
  if ((s.die d).queues.get q Queue.reset).entries.isEmpty then s else s.later .classPreempt (.num (dieCoord d) q)

/-- Every queue of the die is looked at: owners, crews or tasks have changed (R236). -/
def State.preemptChecks (s : State) (d : BitVec 3) : State :=
  (s.die d).queues.foldl (fun s q => s.preemptCheck d q.1) s

/-- A crew of a cluster has retired. The landing slots there may take other entries than before, and slot 11 of its cores is reserved no
more: buffers, queues and displaced tasks are looked at again (R228, R233 to R236). -/
def State.crewOver (s : State) (c : Coord) (k : Crew) : State :=
  let core (i : BitVec 3) : Coord := { die := c.die, cluster := k.cluster, core := i, slot := 0 }
  (((s.laters (k.cores.map fun i => (Instr.displacedTaskResume, EvArg.at ((core i).at 11)))).preemptChecks c.die).laters
    ((List.range 8).map fun i => (Instr.queuePrefetch, EvArg.at (core (BitVec.ofNat 3 i)))))

/-- A crew of the cluster waits for its start. -/
def State.crewWaits (s : State) (c : Coord) : Bool :=
  (s.die c.die).launches.any fun l => l.crews.any fun k => k.cluster == c.cluster && !k.started && !k.retired

/-- R229, R269: the crews of the slot's launch that are complete retire. -/
def State.retireCrews (s : State) (c : Coord) (x : Slot) : State :=
  match (s.die c.die).launches.find? fun l => l.crews.any (l.holds x c) with
  | none => s
  | some l =>
    match l.crews.find? (l.holds x c) with
    | none => s
    | some k =>
      if !s.crewDone c l k then s
      else
        let crews := updFirst (l.holds x c) (fun k => { k with retired := true }) l.crews
        let same (l' : Launch) : Bool := l'.id == l.id && l'.vf == l.vf
        let s := s.modDie c.die fun d =>
          { d with launches := updFirst same (fun l' => { l' with crews := crews }) d.launches }
        let s := (s.doneArrival c l.vf (l.packet.getD 7 0)).crewOver c k
        if crews.all (·.retired) then
          s.later .retirementNotice { EvArg.dieVf c.die l.vf with v := l.id }
        else s

/-- The queue entries between the common consumed count of the dies and the tail, copied to the flash on a fault (R376). -/
def State.copyToFlash (s : State) (vf : Nat) : State :=
  let x := s.vf vf
  let n := x.lqsize.toNat
  let base := physBase x.lqbase
  let tail := s.mem.readNat base 8
  let passed := s.mem.readNat (base + 8) 8
  if ringSizeOk x.lqsize then
    { s with dev := { s.dev with flashCopy := s.dev.flashCopy ++
        (List.range (min (tail - passed) n)).map fun i =>
          (passed + i, s.mem.read (base + 128 + 256 * ((passed + i) % n)) 256) } }
  else s

/-- A slot runs a task, or holds the place of one of the VF that is saved (R230, R342). -/
def State.taken (s : State) (vf : Nat) (c : Coord) : Bool := (s.slot c).live || ((s.vf vf).saved.find? c.key).isSome

/-- R230: slot 0 of the core that waits in `hjoin` completes once no joined helper is live, or saved. -/
def State.releaseJoin (s : State) (c : Coord) : State :=
  let z := c.at 0
  match (s.slot z).hold with
  | some (.hjoin m) =>
    if (List.range 10).any fun i => bit m i && s.taken (s.slot z).vf (c.at (BitVec.ofNat 4 (i + 1))) then s
    else s.complete z 4
  | _ => s

/-- A retiring slot leaves the queues in which it waits (R149, R211), and the next waiters may be served. -/
def State.withdraw (s : State) (c : Coord) : State :=
  let words := (s.feq.filter (·.coord == c)).map (·.word)
  let s := { s with feq := s.feq.filter (·.coord != c) }
  let s := s.laters (words.map fun w => (Instr.feWordServe, EvArg.num Coord.zero w))
  let lcs := ((s.core c).lcWait.filter (·.2.1 == c)).map (·.1)
  let s := if lcs.isEmpty then s else s.modCore c fun k => { k with lcWait := k.lcWait.filter (·.2.1 != c) }
  s.laters (lcs.map fun n => (Instr.waitlcServe, EvArg.num c n))

/-- Records of resumed VFs that wait for a place are looked at again, once something at `c` has ended (R370). -/
def State.resumeWaiting (s : State) (c : Coord) : State :=
  s.laters (s.vfs.filterMap fun (v, y) =>
    if !s.paused v && ((y.saved.find? c.key).isSome || !y.savedCores.isEmpty || !y.savedClusters.isEmpty) then
      some (Instr.resume, { EvArg.ofVf v with flag := true })
    else none)

/-- The destination and form of a value-returning atomic (R150). -/
def atomicDest : Instr → Option (BitVec 5 × BitVec 2)
  | .aswp d _ _ t _ | .aadd d _ _ t _ | .aand d _ _ t _ | .aor d _ _ t _ | .axor d _ _ t _ | .amin d _ _ t _
  | .amax d _ _ t _ | .aminu d _ _ t _ | .amaxu d _ _ t _ | .cas d _ _ t _ => some (d, t)
  | _ => none

/-- What the slot waits for at a peer under policy 11 (R137): a write that returns nothing. -/
def storesOnly : Instr → Bool
  | .st .. | .vst .. | .vstMasked .. | .vscatter .. | .vaadd .. | .vamin .. | .vamax .. | .vaand .. | .vaor .. | .vaxor .. => true
  | .swadd .. | .swexp .. | .jadd .. => true
  | .ximm _ f => match decodeWord f with | some (.st ..) | some (.vst ..) => true | _ => false
  | _ => false

/-- An access that changes memory at a peer, so that its reply is marked pending (R342): a value-returning atomic, and what the slot
waits for under policy 11. -/
def replyPending (i : Instr) : Bool := storesOnly i || (atomicDest i).isSome

/-- The device whose answer a held slot awaits; none for a message to a core of this device, whose number is `own`. -/
def Hold.awaits (own : BitVec 9) : Hold → Option (BitVec 9)
  | .load _ _ d | .refetch _ d => some d
  | .message t _ => if fld t 16 9 = own then none else some (fld t 16 9)
  | _ => none

/-- Nothing waits any more for what the slot `x` at `c` has asked of a peer. -/
def State.loosen (s : State) (c : Coord) (x : Slot) : State :=
  let stores := match x.hold with | some (.load i _ _) => replyPending i || (i matches .zline _) || !x.elems.isEmpty | _ => false
  match x.hold.bind (Hold.awaits s.dev.devno) with
  | some dev => { s with loose := s.loose ++ [{ coord := c, dev := dev, vf := x.vf, launch := x.launch, stores := stores }] }
  | none => s

/-- Packets of a task that has ended perform all the same, and belong to no task any more. -/
def State.orphan (s : State) (c : Coord) : State :=
  { s with port := s.port.map fun p => if p.of c then { p with task := .ended } else p }

/-- The slots of the same launch that `ralign` holds are looked at again, since one of their peers is gone (R91). -/
def State.realign (s : State) (x : Slot) : State :=
  s.laters (s.slots.filterMap fun (k, y) =>
    match y.hold with
    | some (.ralign ..) => if y.launch = x.launch then some (Instr.ralignRelease, EvArg.at (Coord.ofKey k)) else none
    | _ => none)

/-- A displaced task waits for the slot (R236). -/
def State.awaited (s : State) (c : Coord) : Bool := (s.die c.die).displaced.any (·.1 == c.key)

/-- How many displaced tasks wait for the slot. -/
def State.depth (s : State) (c : Coord) : Nat := ((s.die c.die).displaced.filter (·.1 == c.key)).length

/-- A landing slot without a task takes the owner that was set for it, unless a displaced task waits for it, and serves its queue
(R233 to R236). -/
def State.landingFree (s : State) (c : Coord) : State :=
  let s := if s.awaited c then s
    else s.modSlot c fun x => { x with qown := x.nextOwn.getD x.qown, nextOwn := none }
  ((s.preemptChecks c.die).later .displacedTaskResume (.at c)).later .taskDispatch (.at c)

/-- The task of a slot ends with a status (R89, R255, R328). What its end starts: `hjoin` (R230), the release of peers
in `ralign` (R91), the next message (R294), the next task of a landing slot (R233, R235), and the end of its crew. -/
def State.retire (s : State) (c : Coord) (st : Retired) : State :=
  let x := s.slot c
  let s := s.setSlot c { x with
    live := false, frame := none, hold := none, pfCount := 0, cappPos := none, elems := [], starting := none
    retired := some st }
  let s := ((s.orphan c).loosen c x).withdraw c
  let s := if st = .cut then s.count c.die x.vf 2 else s
  let s := s.dropWalks c
  let s := s.releaseJoin c
  let s := s.resumeWaiting c
  let s := s.realign x
  let s := if st = .fault then s.copyToFlash x.vf else s
  let s := if c.slot = 14 then s.later .activeMessageStart (.at c)
    else if c.slot = 11 || c.slot = 12 then s.landingFree c
    else s
  let s := if x.launch.isSome && c.slot.toNat ≤ 10 then s.retireCrews c x else s
  if s.crewWaits c then s.later .crewStart (.at c) else s

/-! ## Taking a trap (R325 to R331) -/

/-- Causes that `c.troute` routes to slot 13 (R330). -/
def State.routed (s : State) (c : Coord) (cause : BitVec 8) : Bool :=
  c.slot != 13 && 1 ≤ cause.toNat && cause.toNat ≤ 20 && cause != 12 && cause != 13 && cause != 15
    && bit (s.core c).troute cause.toNat

/-- The slot queues for slot 13 (R143, R331). -/
def State.queueService (s : State) (c : Coord) (cause : BitVec 8) (block : BitVec 52) (tval epc : Dword) : State :=
  (s.modSlot c fun x =>
    { x with cause := cause, tval := tval, epc := epc, hold := some (.service cause block) }).later
    .shadowServiceStart (.at c)

/-- R332: the service ends; the next queued slot is served, or slot 13 stops being live. -/
def State.serviceOver (s : State) (c : Coord) : State :=
  let s := s.modCore c fun k => { k with serving := none, servedGone := false }
  let s := s.modSlot (c.at 13) fun x => { x with live := false, frame := none, hold := none }
  if c.slots.any fun w => match (s.slot w).hold with | some (.service ..) => true | _ => false then
    s.later .shadowServiceStart (.at c)
  else s

/-- A double trap (R328, R332): the slot, or the slot that slot 13 serves, retires with FAULT and a record. -/
def State.doubleTrap (s : State) (c : Coord) (epc : Dword) : State :=
  let serving := if c.slot = 13 then (s.core c).serving else none
  let gone := c.slot = 13 && (s.core c).servedGone
  let victim := match serving with | some k => if gone then c else c.at k | none => c
  let x := s.slot victim
  let s := if s.fqOn x.vf then s.queueRecord x.vf (s.record victim x.vf (fldN epc 0 48) false 7 0 0 x.strand) else s
  let s := match serving with | some _ => s.serviceOver c | none => s
  if gone then s else s.retire victim .fault

/-- The registers of trap entry (R325), for a slot whose privilege is `priv`. -/
def Slot.enterTrap (x : Slot) (priv : Bool) (cause : BitVec 8) (tval epc : Dword) : Slot :=
  { x with
    cause := cause, tval := tval, epc := epc
    status := 4#3 ||| (if priv then 2#3 else 0#3) ||| 1#3
    frame := none, hold := none, pfCount := 0, cappPos := none, elems := [], pc := x.tvec }

/-- Trap entry (R325): the ONE way in which a slot takes an exception. -/
def State.trapAt (s : State) (c : Coord) (cause : BitVec 8) (tval epc : Dword) : State :=
  let x := s.slot c
  if s.routed c cause then
    (s.modSlot c fun x => { x with frame := none, pfCount := 0, cappPos := none, elems := [] }).queueService c cause 0 tval epc
  else if bit x.status 2 then s.doubleTrap c x.pc
  else s.setSlot c (x.enterTrap (s.privileged c) cause tval epc)

/-- A trap of the current instruction. -/
def State.trap (s : State) (cause : BitVec 8) (tval : Dword) : State := s.trapAt s.cur cause tval s.me.pc

/-- R329: pc from `c.epc`, priv from ppriv, th 0; ppriv stays. -/
def Slot.trapReturn (x : Slot) : Slot :=
  { x with pc := x.epc, status := if bit x.status 1 then 3 else 0, pfCount := 0 }

/-- `eret` (R329, R332). -/
def State.eretAt (s : State) (c : Coord) : State :=
  let x := s.slot c
  match (s.core c).serving with
  | some k =>
    if c.slot = 13 && !bit x.status 2 then
      (s.modSlot (c.at k) fun y =>
        match y.hold, (s.core c).servedGone with
        | some (.service ..), false => { y with hold := none, pc := y.epc }
        | _, _ => y).serviceOver c
    else
      s.setSlot c x.trapReturn
  | none =>
    s.setSlot c x.trapReturn

/-! ## Page faults of a slot (R141) -/

/-- A page fault of the slot's current instruction, with the access field of its record. -/
def State.pageFault (s : State) (c : Coord) (host : Bool) (va : BitVec 48) (acc : BitVec 3) (fetch : Bool)
    (ptr : Dword) : State :=
  let x := s.slot c
  if !s.fqOn x.vf || 2 ≤ x.pfCount then s.trapAt c 0x11 ptr x.pc
  else
    (s.setSlot c { x with hold := some .pageFault, pfCount := x.pfCount + 1 }).queueRecord x.vf
      (s.record c x.vf va.toNat fetch (if host then 6 else 4) (x.pfCount + 1) acc.toNat x.strand)

/-- What a stopped access does to its slot (R141, R143, R145). -/
def State.stopAt (s : State) (c : Coord) (e : Stopped) (acc : BitVec 3) (ptr : Dword) : State :=
  match e with
  | .trap cause tval => s.trapAt c cause tval (s.slot c).pc
  | .miss block =>
    if c.slot = 13 then s.trapAt c 0x0C ptr (s.slot c).pc else s.queueService c 0x0C block ptr (s.slot c).pc
  | .page host va => s.pageFault c host va acc false ptr

/-! ## Accesses -/

/-- Access fields of R141. -/
def accR : BitVec 3 := 1
def accW : BitVec 3 := 2
def accA : BitVec 3 := 7
/-- An access that is checked for reading and writing. -/
def accRW : BitVec 3 := 3

/-- The current slot's access, or what stops it. -/
def State.withPlace (s : State) (p : Dword) (n : Nat) (rights : BitVec 4) (acc : BitVec 3) (k : Place → State) : State :=
  match s.dataPlace s.cur p n rights with
  | .error e => s.stopAt s.cur e acc p
  | .ok pl => k pl

/-- The pieces of two accesses overlap: host kind, VA and bytes. -/
def overlap (a b : Bool × Nat × Nat) : Bool := a.1 == b.1 && a.2.1 < b.2.1 + b.2.2 && b.2.1 < a.2.1 + a.2.2

/-- An earlier packet of the slot may touch the bytes of a place and has not performed: one whose bytes are known to, a held post
to the same VAs, or one to this device through the peer path. -/
def State.pendingAt (s : State) (pl : Place) : Bool :=
  s.port.any fun p => p.of s.cur
    && (p.addrs.any pl.addrs.contains || p.goesTo s.dev.devno || (p.held && p.pages.any fun x => pl.pages.any (overlap x)))

/-- Earlier packets of the slot that touch the bytes perform first (R297; R299 row 1); while one of them waits for a peer or for
a `wake`, the slot waits, and its instruction reissues. -/
def State.settleThen (s : State) (pl : Place) (k : State → State) : State :=
  let s := if s.pendingAt pl then s.drain s.cur else s
  if s.pendingAt pl then s.leave .posted else k s

/-- Earlier stores of the slot to this device perform before a store or an atomic of it does (R299 row 2). -/
def State.orderedHere (s : State) (k : State → State) : State :=
  let s := s.drain s.cur
  if s.port.any fun p => p.of s.cur && p.holdsBack s.dev.devno then s.leave .posted else k s

/-- The entry of a peer has lost set (R289). -/
def State.peerLost (s : State) (dev : BitVec 9) : Bool := bit (s.peerEntry dev) 62

/-- What a request from a die to a peer carries (R249, R250, R290). -/
def State.outHdr (s : State) (d : BitVec 3) (dev : BitVec 9) (id : BitVec 24) (registers : Bool) : OutHdr :=
  let e := s.peerEntry dev
  { dev := dev, inc := s.dev.incarn, targetInc := fld e 54 8, pf := 0
    hdr := s.header d (fldN (s.die d).linkb 32 16) id (fldN e 33 9) registers }

/-- What the slot sends to another device comes after its earlier packets to that device, whatever task made them (R292). -/
def State.behind (s : State) (dev : BitVec 9) (k : State → State) : State :=
  if dev != s.dev.devno && s.port.any fun q => q.coord == s.cur && q.goesTo dev then s.leave .posted else k s

/-- A waited access goes to a peer: the slot leaves the rotation until `LOAD_REPLY` (R144, R293). The slot's earlier accesses to that
device come before it, whatever task made them (R292). -/
def State.askPeer (s : State) (i : Instr) (at' : BitVec 9 × BitVec 48) (p : Dword) (policy : BitVec 2) (op : PeerOp) : State :=
  let dev := at'.1
  if s.peerLost dev then s.trap 0x0B p
  else
    let s := if dev = s.dev.devno then s.drain s.cur else s
    let before (q : Packet) : Bool := q.goesTo dev || (q.task == .present && dev == s.dev.devno && !(q.route matches .peer ..))
    if s.port.any fun q => q.coord == s.cur && before q then s.leave .posted
    else
      State.leave { s with
        out := s.out ++ [.peerRequest { s.outHdr s.cur.die dev s.me.strand false with pf := s.me.pfCount } s.cur at'.2 policy op] }
        (.load i p dev)

/-- A packet of slot `c` goes to the home dies of its bytes (R249): whether they all accept it. -/
def State.crossAll (s : State) (c : Coord) (strand : BitVec 24) (vf : Nat) (registers : Bool) (addrs : List Nat) : State × Bool :=
  ((addrs.filterMap homeDie).eraseDups).foldl (fun (x : State × Bool) d =>
    if x.2 then x.1.cross c.die (BitVec.ofNat 3 d) false strand vf registers else x) (s, true)

/-- A waited access of the current slot reaches its home, registering its strand there or not; one that is dropped on the way
has no answer (R249). -/
def State.atHomeAs (s : State) (registers : Bool) (pl : Place) (k : State → State) : State :=
  match s.crossAll s.cur s.me.strand s.me.vf registers pl.addrs with
  | (s, false) => s.leave .dropped
  | (s, true) => k s

def State.atHome (s : State) (pl : Place) (k : State → State) : State := s.atHomeAs pl.xcl pl k

/-- A load of `n` bytes by the current slot: `k` gets the bytes. A refusal at the home traps with the pointer of the
byte index it names (R145, R146). -/
def State.loadThen (s : State) (i : Instr) (p : Dword) (n : Nat) (rights : BitVec 4) (acc : BitVec 3)
    (ptr : Nat → Dword) (k : List Byte → State → State) : State :=
  s.withPlace p n rights acc fun pl =>
    match pl.peer with
    | some at' => s.askPeer i at' p pl.policy (.read n)
    | none =>
      s.settleThen pl fun s =>
        s.atHome pl fun s =>
          match firstRefused s.mem s.cur.clusterKey pl.addrs with
          | some (cause, j) => s.trap cause (ptr j)
          | none =>
            k (s.mem.bytesAt pl.addrs) { s with mem := s.cohLoad s.cur.clusterKey pl.policy pl.addrs }

/-- The machine event that performs a packet. -/
def PacketOp.event (op : PacketOp) (xcl : Bool) : Instr :=
  match op with
  | .store .. => if xcl then .xclusterAccess else .storePerform
  | .vatomic .. => if xcl then .xclusterAccess else .atomicPacketPerform
  | .flags _ => .atomicPacketPerform
  | .swadd _ | .arrival .. => .swaddPerform
  | .swexp _ => .swexpPerform
  | .arm => .joinArm
  | .jadd .. => .jaddPerform
  | .mail _ | .ship _ | .cut _ => .storePerform

/-- A packet may leave for its peer: none of its slot's earlier ones to that device is in the port, whatever task made it (R292, R342), and
for this device's own number no earlier one of its task waits here either (R299 row 2). -/
def mayLeave (own : BitVec 9) (before : List Packet) (p : Packet) : Bool :=
  match p.route with
  | .here _ => false
  | .peer dev _ =>
    !p.held && !p.sent && before.all fun q =>
      !(q.coord == p.coord && (q.goesTo dev || (q.task == p.task && dev == own && !(q.route matches .peer ..))))

/-- The port after the packets that may leave have left, and what leaves. Packets leave in program order, so that an earlier access of the
slot to this device has left its core's port by then (R255), held back on its way or not; a fill or release that stands for the end of
earlier accesses has not. -/
def leaving (own : BitVec 9) (c : Coord) : List Packet → List Packet → List Packet × List Packet
  | _, [] => ([], [])
  | before, p :: r =>
    let (port, out) := leaving own c (before ++ [p]) r
    if p.coord == c && mayLeave own before p then ({ p with sent := true } :: port, p :: out)
    else if p.coord == c && p.isHere && !p.op.isLast && !out.isEmpty then ({ p with sent := true } :: port, out)
    else (p :: port, out)

/-- Packets of slot `c` to peers leave, with what R249 and R290 have them carry. A join arm registers its strand there (R249). -/
def State.pump (s : State) (c : Coord) : State :=
  let (port, out) := leaving s.dev.devno c [] s.port
  out.foldl (fun s p =>
    match p.route with
    | .here _ => s
    | .peer dev va =>
      let arms := p.op matches .arm
      let h := s.outHdr c.die dev p.strand arms
      let h := if (s.die c.die).strandLive p.strand then h else { h with hdr := p.hdr }
      let s := { s with out := s.out ++ [.peerPosted { h with pf := p.pf } c va p.policy p.op] }
      if arms then s.reachedPeer c.die dev p.strand else s) { s with port := port }

/-- The strand header with which a packet of slot `c` leaves its die (R249, R250). -/
def State.leaveHdr (s : State) (c : Coord) (route : Route) (registers : Bool) : Ingress :=
  let x := s.slot c
  match route with
  | .peer dev _ => (s.outHdr c.die dev x.strand registers).hdr
  | .here a =>
    let dst : BitVec 3 := BitVec.ofNat 3 ((homeDie a).getD c.die.toNat)
    s.header c.die (s.pathBound c.die dst false) x.strand x.vf registers

/-- A packet of the task in slot `c`, as it joins the port. -/
def State.packet (s : State) (c : Coord) (ptr : Dword) (route : Route) (op : PacketOp) (pl : Place) : Packet :=
  let x := s.slot c
  { coord := c, vf := x.vf, strand := x.strand, ptr := ptr, route := route, op := op
    policy := pl.policy, pf := 0, held := false, expires := none, sent := false, pages := pl.pages, stale := false, task := .present
    hdr := s.leaveHdr c route (pl.xcl || (op matches .arm)), xcluster := pl.xcl, completes := none, launch := x.launch }

/-- Puts a packet of slot `p.coord` into its port, with the event that performs it (R144). -/
def State.send (s : State) (p : Packet) : State :=
  (State.later { s with port := s.port ++ [p] } (p.op.event p.xcluster) (.at p.coord)).pump p.coord

/-- A place without bytes. -/
def Place.empty : Place := { addrs := [], peer := none, policy := 0, xcl := false, pages := [] }

/-- Puts the end of the current slot's earlier accesses into its port, as what comes after all of them (R186, R259, R284). -/
def State.sendLast (s : State) (op : PacketOp) : State := s.send (s.packet s.cur 0 (.here hostBase) op Place.empty)

/-- A posted access of the current slot at a resolved place; `op` builds the operation from the addresses (none for a
peer, whose bytes are offsets). A peer marked lost is recorded (R289, R293). -/
def State.post (s : State) (ptr : Dword) (pl : Place) (op : List Nat → PacketOp) : State :=
  match pl.peer with
  | some (dev, va) =>
    if s.peerLost dev then s.postFault s.cur 0x0B ptr
    else s.send (s.packet s.cur ptr (.peer dev va) (op []) pl)
  | none => s.send (s.packet s.cur ptr (.here (pl.addrs.headD 0)) (op pl.addrs) pl)

/-- The bytes of a store at addresses, or at offsets where there are none. -/
def storeBytes (addrs : List Nat) (bytes : List Byte) : List (Nat × Byte) :=
  if addrs.isEmpty then at' 0 bytes else addrs.zip bytes

/-- The access is a waited one under policy 11 (R137). -/
def Place.waited (pl : Place) : Bool := pl.policy == 3

/-- A store of the current slot at a resolved place, then `k`. Under policy 11 the slot waits: at this device it performs at once
and its refusals trap (R137, R145, R146), poison with the pointer `bad` of the byte that it names; at a peer the answer to `i`
ends the wait. -/
def State.storeThen (s : State) (i : Instr) (ptr : Dword) (pl : Place) (bytes : List Byte) (tag : BitVec 2) (value : Dword)
    (bad : Nat → Dword) (k : State → State) : State :=
  if pl.waited then
    match pl.peer with
    | some place => s.askPeer i place ptr pl.policy (.waitedStore (at' 0 bytes) tag)
    | none =>
      s.orderedHere fun s =>
        s.atHome pl fun s =>
          match firstRefused s.mem s.cur.clusterKey pl.addrs with
          | some (0x07, _) => s.trap 0x07 ptr
          | r =>
            if escapes s.mem pl.addrs tag value then (s.modMe fun x => { x with escv := value }).trap 0x08 ptr
            else
              match r with
              | some (_, j) => s.trap 0x09 (bad j)
              | none =>
                k (State.store { s with mem := s.cohStore s.cur.clusterKey pl.policy pl.addrs }
                  (storeBytes pl.addrs bytes) tag)
  else k (s.post ptr pl fun addrs => .store (storeBytes addrs bytes) tag)

/-- A release of sys scope (R300): earlier packets perform first; while a peer has not acknowledged one, the slot waits
and the instruction reissues. -/
def State.releaseThen (s : State) (k : State → State) : State :=
  let s := s.drain s.cur
  if s.outstanding s.cur then s.leave .posted else k s

/-- A pointer that is not aligned traps with cause 0x04 (R145 step 1). -/
def State.aligned (s : State) (p : Dword) (n : Nat) (k : State) : State :=
  if p.toNat % n = 0 then k else s.trap 0x04 p

/-- The kind of the segment that a pointer of the current slot selects. -/
def State.kindOf (s : State) (p : Dword) : BitVec 4 := sgKind (s.me.segOf p)

end Sys2Proof.Machine
end

