-- ==== Sys2Proof/Machine/Flags.lean ====
section
/-! DEFINITION. The numerical flags of a slot: the posted set and the post to `c.nfsw` (R104 to R106). -/
namespace Sys2Proof.Machine

/-- The place of a flag post: the dword after the sync word's first. -/
def State.flagPlace (s : State) (c : Coord) (p : Dword) : Except Stopped Place := s.dataPlace c p 16 5

/-- Sends, holds or drops the post of flags `f` to the sync word at `p` (R106 steps 2 to 4). Beside the misaligned pointer, the
failed `seg_check` and the miss that R106 names, a post is dropped without a record, its bits kept, where `c.nfsw` goes through a
host-kind segment, and where `ea` refuses the address that passed `seg_check` (causes 0x05 and 0x06 of R129 and R130): the
model's choice (log 82). A policy mismatch (R145 step 5) is recorded with 0x06 where the offset as the program formed it passes
`seg_check` (log 25). -/
def State.sendFlags (s : State) (c : Coord) (p : Dword) (f : BitVec 16) : State :=
  let x := s.slot c
  -- the access is the dword at p + 8
  let q := ptrAdd p 8
  if p.toNat % 16 ≠ 0 || sgKind (x.segOf p) == 6 then s
  else
    match s.flagPlace c p with
    | .error (.trap cause _) =>
      if cause = 0x06 && sgKind (x.segOf p) == 4 && (s.segCheck x.vf (x.segOf p) (fld p 0 60) 16 5 p matches .ok _)
      then s.postFault c 0x06 q else s
    | .error (.miss _) => s
    | .error (.page host va) =>
      if !s.fqOn x.vf then s.postFault c 0x11 q
      else
        let pl : Place := { addrs := [], peer := none, policy := sgPolicy (x.segOf p), xcl := false, pages := [(host, va.toNat + 8, 8)] }
        let held : Packet := { s.packet c q (.here 0) (.flags f) pl with
          pf := 1, held := true, expires := if x.strand = 0 then none else some ((s.die c.die).expiryAt x.strand) }
        State.queueRecord { s with port := s.port ++ [held] } x.vf
          (s.record c x.vf (va.toNat + 8) false (if host then 6 else 4) 1 6 x.strand)
    | .ok pl =>
      match pl.peer with
      | some (dev, va) => if s.peerLost dev then s.postFault c 0x0B q else s.send (s.packet c q (.peer dev va) (.flags f) pl)
      | none => s.send (s.packet c q (.here (pl.addrs.headD 0)) (.flags f) pl)

/-- R106: an instruction of the current slot raises flags. -/
def State.raise (s : State) (f : BitVec 16) : State :=
  let x := s.me
  if x.nfsw = 0 || f &&& ~~~x.posted = 0 then s
  else (s.modMe fun x => { x with posted := x.posted ||| f }).sendFlags s.cur x.nfsw f

end Sys2Proof.Machine
end

