-- ==== Sys2Proof/Machine/Operands.lean ====
section
/-! DEFINITION. Operand forms: predicates (R38), immediates and effective pointers (R39, R42), and the lanes of vector
registers with their masks (R96, R97). -/
namespace Sys2Proof.Machine

/-! ## Scalar forms -/

/-- R38, R68: the predicate of mask `p`. -/
def State.pred (s : State) (p : BitVec 3) : Bool := bit (s.rk p) 0

/-- An immediate with its prefix (R42): the 42-bit signed value. -/
def immPrefixed (x : BitVec 26) (i : BitVec 16) : Dword := (x ++ i).signExtend 64

/-- An offset of the M form without a prefix, in units of the access size (R39). -/
def offPlain (f : BitVec 11) : Int := f.toInt

/-- An offset with its prefix: 37 bits (R42). -/
def offPrefixed (x : BitVec 26) (f : BitVec 11) : Int := (x ++ f).toInt

/-- The effective pointer of an M-form access (R39, R126). -/
def State.eptr (s : State) (a : BitVec 5) (off : Int) (size : Nat) : Dword :=
  ptrAdd (s.rg a) (BitVec.ofInt 60 (off * size))

/-- Access size of a load or store from bits 2:1 of sz (R39). -/
def szBytes (z : BitVec 3) : Nat := 2 ^ (z.toNat / 2)

/-! ## Lanes -/

/-- Element `i` of `w` bits (R96). -/
def lane (w : Nat) (v : VReg) (i : Nat) : Nat := v.toNat / 2 ^ (i * w) % 2 ^ w

/-- All `n` elements. -/
def lanes (w n : Nat) (v : VReg) : List Nat := (List.range n).map (lane w v)

/-- The number whose digits in base 2^w are the elements. -/
def packNat (w : Nat) : List Nat → Nat
  | [] => 0
  | x :: r => x % 2 ^ w + 2 ^ w * packNat w r

/-- A register of elements. -/
def pack (w : Nat) (l : List Nat) : VReg := BitVec.ofNat 512 (packNat w l)

/-- Bytes of a register, byte 0 first (R96). -/
def vregBytes (v : VReg) : List Byte := leBytes 64 v.toNat

def vregOfBytes (l : List Byte) : VReg := BitVec.ofNat 512 (leNat l)

/-- The active elements below `n`, ascending (R97). -/
def active (n : Nat) (mask : Dword) : List Nat := (List.range n).filter fun i => bit mask i

/-- R97: active elements get `f i` with its flags, inactive ones keep their contents. -/
def mapLanes (w n : Nat) (mask : Dword) (old : VReg) (f : Nat → FRes) : VReg × BitVec 16 :=
  let r := (List.range n).map fun i => if bit mask i then f i else (lane w old i, 0)
  (pack w (r.map (·.1)), r.foldl (fun a x => a ||| x.2) 0)

/-- The current slot's masked operation on elements of type `ty`: the result goes to vD and the flags are raised
(R97, R104, R106). -/
def State.vecOp (s : State) (d : BitVec 5) (k : BitVec 3) (ty : BitVec 4) (f : Nat → FRes) : State :=
  let (v, fl) := mapLanes (elemWidth ty) (elemCount ty) (s.rk k) (s.rv d) f
  ((s.wv d v).advance 4).raise fl

/-- An element of a register of the current slot. -/
def State.el (s : State) (ty : BitVec 4) (r : BitVec 5) (i : Nat) : Nat := lane (elemWidth ty) (s.rv r) i

/-- The type is signed (R41). -/
def tySigned (ty : BitVec 4) : Bool := ty.toNat % 2 = 1 && 3 ≤ ty.toNat

/-- The value of an element of a float type. -/
def fpOf (ty : BitVec 4) (x : Nat) : Fp := (fmtOf ty).decode x

end Sys2Proof.Machine
end

