-- ==== Sys2Proof/Machine/Fetch.lean ====
section
/-! DEFINITION. Fetch (R63, R64, R302), the words of a repeat frame (R94), and the decoder's order of checks (R45). -/
namespace Sys2Proof.Machine

/-- The number of the 32-byte block of a resolved fetch; a peer's blocks stand above all others. -/
def fetchBlockOf (pl : Place) : Nat :=
  match pl.peer with
  | some (dev, va) => 2 ^ 60 + dev.toNat * 2 ^ 43 + va.toNat / 32
  | none => pl.addrs.headD 0 / 32

/-- A word at the pointer `p`, or the state after what stopped its fetch. A page fault holds the slot (R141); a block
that is not in the instruction cache holds it until its delivery (R63), which for a peer is the answer to a waited access
(R289, log 76); `epc` is the address of the instruction
(R43). A fetch whose block has to come from another die may be dropped there (R249). No check of the pointer's alignment is made, and
the four bytes at a pointer that is not a multiple of 4 are fetched: the model's choice, since R64 names no such check (log 93). -/
def State.fetchWord (s : State) (c : Coord) (p epc : Dword) : Except State Word :=
  let x := s.slot c
  match s.resolve c x.vf none (x.segOf p) [(fld p 0 60, 4)] rightX p with
  | .error (.trap cause _) => .error (s.trapAt c cause p epc)
  | .error (.page host va) => .error (s.pageFault c host va 1 true p)
  | .error (.miss _) => .error s
  | .ok pl =>
    let block := fetchBlockOf pl
    match (s.cluster c).icache.find? fun e => e.1 == block with
    | none =>
      match pl.peer with
      | some at' => .error (State.askPeer { s with cur := c } .fetchBlockDelivery at' p pl.policy .fetch)
      | none =>
        match s.crossAll c x.strand x.vf false pl.addrs with
        | (s, false) => .error (s.modSlot c fun y => { y with hold := some .dropped })
        | (s, true) =>
          .error ((s.modSlot c fun y => { y with hold := some (.fetch block) }).later .fetchBlockDelivery (.num c block))
    | some (_, bytes) =>
      match pl.peer with
      | some (_, va) => .ok (BitVec.ofNat 32 (leNat ((bytes.drop (va.toNat % 32)).take 4)))
      | none =>
        match firstRefused s.mem c.clusterKey pl.addrs with
        | some (0x09, _) => .error (s.trapAt c 0x13 p epc)
        | some (cause, _) => .error (s.trapAt c cause p epc)
        | none => .ok (BitVec.ofNat 32 (leNat (s.mem.bytesAt pl.addrs)))

/-- A register field of a captured word after `n` (R94). -/
def staggerField (w : Word) (lo : Nat) (n : Nat) : Word := putFld w lo (fld w lo 5 + BitVec.ofNat 5 n)

/-- The word is of the G or V form (R36), so that its b field takes the stagger (R94). -/
def hasB (w : Word) : Bool :=
  let op := fldN w 26 6
  op ≤ 5 || op == 0x12 || op == 0x17 || op == 0x19 || op == 0x1A || (0x1C ≤ op && op ≤ 0x24) || (0x28 ≤ op && op ≤ 0x3E)

/-- The word that pass `p` executes (R94). -/
def stagger (f : Frame) (w : Word) : Word :=
  let n := f.pass * f.stride.toNat
  let w := if bit f.stagger 2 then staggerField w 21 n else w
  let w := if bit f.stagger 1 then staggerField w 16 n else w
  if bit f.stagger 0 && hasB w then staggerField w 11 n else w

/-- The next word of the slot: fetched and, in pass 0 of a frame, captured; or from the frame's buffer (R94). -/
def State.nextWord (s : State) (c : Coord) : Except State (Word × State) :=
  let x := s.slot c
  match x.frame with
  | none =>
    match s.fetchWord c x.pc x.pc with
    | .error s' => .error s'
    | .ok w => .ok (w, s)
  | some f =>
    if f.pass = 0 then
      match s.fetchWord c x.pc x.pc with
      | .error s' => .error s'
      | .ok w =>
        .ok (stagger f w, s.setSlot c { x with frame := some { f with buf := f.buf.take f.idx ++ [w] } })
    else .ok (stagger f (f.buf.getD f.idx 0), s)

/-- R93: groups that a frame may capture. -/
def frameOk (w : Word) : Bool :=
  let op := fldN w 26 6
  (1 ≤ op && op ≤ 5) || (8 ≤ op && op ≤ 0xF) || ((0x1C ≤ op && op ≤ 0x24) && !(op == 0x22 && fldN w 4 4 == 6))

/-! ## Privilege (R318, R321) -/

/-- CSR numbers whose write needs privilege (R321). -/
def csrWritePriv (c : BitVec 8) : Bool :=
  [0x01, 0x02, 0x03, 0x07, 0x09, 0x40, 0x43, 0x44, 0x60, 0x61, 0x62, 0x65, 0x66, 0x81, 0x82, 0x83, 0x84, 0x85, 0x86,
   0x87, 0x88, 0x89, 0x8A, 0x8B, 0x8C, 0xA1, 0xA2, 0xA3, 0xA4, 0xC0, 0xC1, 0xC2, 0xC3, 0xC4, 0xC5, 0xC6, 0xC7,
   0xC8].contains c.toNat

/-- CSR numbers whose read needs privilege (R321). -/
def csrReadPriv (c : BitVec 8) : Bool := [0x61, 0x62, 0x86, 0x87, 0x89, 0x8A, 0xC7].contains c.toNat

/-- The instruction needs privilege, or the place that R321 names, and the slot lacks it (cause 0x02). -/
def State.privFault (s : State) (c : Coord) (i : Instr) : Bool :=
  let pepcBad := c.slot != 13 || (s.core c).serving.isNone
  match i with
  | .segw .. | .ptbw .. | .invt .. | .eret => !s.privileged c
  | .csrr _ n => (csrReadPriv n && !s.privileged c) || (n == 0x42 && pepcBad)
  | .csrw _ n =>
    (csrWritePriv n && !s.privileged c) || (n == 0x42 && pepcBad) || (n == 0x0D && c.slot != 15)
      || ((n == 0x63 || n == 0x64) && c.slot != 0)
  | _ => false

/-- The instruction's word, as `c.tval` reports it (R45). -/
def instrWord (i : Instr) : Dword := ((encodeWord i).getD 0).setWidth 64

/-- A privileged instruction of the current slot: its effect, or the trap with cause 0x02 (R318). -/
def State.checked (s : State) (i : Instr) (k : State) : State :=
  if s.privFault s.cur i then s.trap 0x02 (instrWord i) else k

/-- The checks of R45 that come before the instruction's own: the instruction, or the state after a trap. -/
def State.decodeChecks (s : State) (c : Coord) (w : Word) : Except State Instr :=
  let x := s.slot c
  let inFrame := x.frame.isSome
  if isPrefix w then
    if inFrame then .error (s.trapAt c 0x03 (w.setWidth 64) x.pc)
    else
      match s.fetchWord c (ptrAdd x.pc 4) x.pc with
      | .error s' => .error s'
      | .ok f => .ok (.ximm (fld w 0 26) f)
  else
    match decodeWord w with
    | none => .error (s.trapAt c 0x01 (w.setWidth 64) x.pc)
    | some i =>
      if inFrame && !frameOk w then
        .error (s.trapAt c (if s.privFault c i then 0x02 else 0x03) (w.setWidth 64) x.pc)
      else .ok i

/-! ## Delivery (R63) -/

/-- A block enters the cluster's instruction cache of 2,048 blocks; a peer's carries its bytes. From a full cache the block that
was delivered longest ago leaves: the model's choice, since R63 names none (log 83). -/
def State.cacheBlock (s : State) (c : Coord) (block : Nat) (bytes : List Byte) : State :=
  let cl := s.cluster c
  s.setCluster c { cl with icache := ((block, bytes) :: cl.icache.filter fun e => e.1 != block).take 2048 }

/-- `FETCH_BLOCK_DELIVERY`: the block `arg.n` enters the instruction cache of the cluster of `arg.c`, and every slot of
the cluster that waits for it returns. -/
def execFetchBlockDelivery (s : State) : Res :=
  let c := s.arg.c
  let block := s.arg.n
  let s := s.cacheBlock c block s.arg.bytes
  .next (s.slots.foldl (fun s kx =>
    let w := Coord.ofKey kx.1
    if w.clusterKey = c.clusterKey && kx.2.hold = some (.fetch block) then s.modSlot w fun x => { x with hold := none }
    else s) s)

/-- The block of a fetch at the pointer `p` has come from a peer, and the current slot returns (R63). -/
def State.finFetch (s : State) (p : Dword) (bytes : List Byte) : State :=
  let s := s.modMe fun x => { x with hold := none }
  match s.resolve s.cur s.me.vf none (s.me.segOf p) [(fld p 0 60, 4)] rightX p with
  | .ok pl => if pl.peer.isSome then s.cacheBlock s.cur (fetchBlockOf pl) bytes else s
  | .error _ => s

/-! ## Choice of the slot (R60) -/

/-- The first eligible slot in the order P, P + 1, … modulo 16. -/
def State.pick (s : State) (c : Coord) : Option (BitVec 4) :=
  let k := s.core c
  ((List.range 16).map fun i => k.rot + BitVec.ofNat 4 i).find? fun n => s.mayIssue (c.at n)

/-- The slot issues in this cycle (R60). A turn whose fetch misses counts as an issue too, so that it moves P and starts the
spacing of 8 cycles: the model's choice, since the spec does not say (log 84). -/
def State.issued (s : State) (c : Coord) (n : BitVec 4) : State :=
  let k := s.core c
  let s := s.setCore c { k with rot := n + 1 }
  State.modSlot { s with cur := c.at n } (c.at n) fun x => { x with lastIssue := some k.cycle }

/-- The cycle ends: the counter advances (R60). -/
def State.cycleEnd (s : State) (c : Coord) : State := s.modCore c fun k => { k with cycle := k.cycle + 1 }

end Sys2Proof.Machine
end

