-- ==== Sys2Proof/Machine/Access.lean ====
section
/-! DEFINITION. Scalar and vector loads and stores, full/empty accesses, atomics and line instructions (R148 to R156), and
`dtload` (R123). In every form `n` is the length of the instruction in bytes, 8 with a prefix (R42). -/
namespace Sys2Proof.Machine

/-! ## Scalar loads and stores (R148, R151) -/

/-- The value of a load by its sz (R39). -/
def extend (z : BitVec 3) (bytes : List Byte) : Dword :=
  let v := leDword bytes
  if z.toNat % 2 = 1 then sext v (8 * szBytes z) else zext v (8 * szBytes z)

def State.finLd (s : State) (d : BitVec 5) (z : BitVec 3) (n : Nat) (bytes : List Byte) : State :=
  (s.wg d (extend z bytes)).advance n

/-- `ld` at a formed pointer. -/
def State.ldAt (s : State) (i : Instr) (d : BitVec 5) (z : BitVec 3) (p : Dword) (n : Nat) : State :=
  s.aligned p (szBytes z) <|
    s.loadThen i p (szBytes z) rightR accR (fun _ => p) fun bytes s => s.finLd d z n bytes

def execLd (d a : BitVec 5) (z : BitVec 3) (q : BitVec 1) (f : BitVec 11) (s : State) : Res :=
  .next (s.ldAt (.ld d a z q f) d z (s.eptr a (offPlain f) (szBytes z)) 4)

/-- The value would be stored as a reference through a policy-11 segment (R133). -/
def State.isRef (s : State) (p value : Dword) : Bool :=
  sgPolicy (s.me.segOf p) == 3 && sgPolicy (s.me.segOf value) == 3

/-- The tag of an 8-byte scalar store (R133, R134): the armed one, 11 written as 00, or the reference rule. -/
def State.storeTag (s : State) (p value : Dword) : BitVec 2 :=
  let stag := s.me.stag
  if bit stag 2 then (if fld stag 0 2 = 3 then 0 else fld stag 0 2)
  else if s.isRef p value then 1 else 0

/-- Where `rel` is set, the access is a release of sys scope (R300). -/
def State.ordered (s : State) (rel : Bool) (k : State → State) : State := if rel then s.releaseThen k else k s

/-- An 8-byte scalar store disarms `c.stag` (R133). -/
def State.finSt (s : State) (z : BitVec 3) (n : Nat) : State :=
  if szBytes z = 8 then (s.modMe fun x => { x with stag := x.stag &&& 3 }).advance n else s.advance n

/-- `st` at a formed pointer. -/
def State.stAt (s : State) (i : Instr) (d : BitVec 5) (z : BitVec 3) (rel : Bool) (p : Dword) (n : Nat) : State :=
  let size := szBytes z
  s.aligned p size <|
    s.withPlace p size rightW accW fun pl =>
      s.ordered rel fun s =>
        let v := s.rg d
        let bytes := leBytes size v.toNat
        if size = 8 then s.storeThen i p pl bytes (s.storeTag p v) v (fun _ => p) fun s => s.finSt z n
        else s.storeThen i p pl bytes 0 0 (fun _ => p) fun s => s.finSt z n

def execSt (d a : BitVec 5) (z : BitVec 3) (q : BitVec 1) (f : BitVec 11) (s : State) : Res :=
  .next (s.stAt (.st d a z q f) d z (q == 1) (s.eptr a (offPlain f) (szBytes z)) 4)

def State.finLdk (s : State) (d : BitVec 3) (n : Nat) (bytes : List Byte) : State := (s.wk d (leDword bytes)).advance n

def State.ldkAt (s : State) (i : Instr) (d : BitVec 3) (p : Dword) (n : Nat) : State :=
  s.aligned p 8 <| s.loadThen i p 8 rightR accR (fun _ => p) fun bytes s => s.finLdk d n bytes

def execLdk (d : BitVec 3) (a : BitVec 5) (q : BitVec 1) (f : BitVec 11) (s : State) : Res :=
  .next (s.ldkAt (.ldk d a q f) d (s.eptr a (offPlain f) 8) 4)

/-! ## Full/empty accesses (R149) -/

/-- Serves the waiters of a word by an event, if there are any. -/
def State.wakeFe (s : State) (word : Nat) : State :=
  if s.feq.any (·.word == word) then s.later .feWordServe (.num Coord.zero word) else s

/-- The home performs an `ldf` of `size` bytes at `a`: the value, and the word empty. -/
def State.takeFull (s : State) (a size : Nat) : List Byte × State :=
  (s.mem.read a size, (State.wrote { s with mem := (s.mem.setFull a false).bump a } [a]).wakeFe (wordOf a))

/-- The home performs a `ste` of the current slot: the bytes, and the word full. No cache keeps a copy of the line. -/
def State.putFull (s : State) (a : Nat) (bytes : List Byte) : State :=
  let s := State.store { s with mem := s.cohStore s.cur.clusterKey 2 [a] } (at' a bytes) 0
  { s with mem := s.mem.setFull a true }.wakeFe (wordOf a)

/-- The word is in the state that the access needs, and no earlier waiter needs the same. -/
def State.feReady (s : State) (a : Nat) (isLdf : Bool) : Bool :=
  s.mem.isFull a == isLdf && !s.feq.any fun w => w.word == wordOf a && w.isLdf == isLdf

/-- R149 after alignment: the kinds without a full/empty state trap (R135). -/
def State.feAccess (s : State) (i : Instr) (p : Dword) (size : Nat) (rights : BitVec 4) (isLdf : Bool)
    (k : Nat → State → State) : State :=
  let kind := s.kindOf p
  if kind = 4 || kind = 5 || kind = 6 then s.trap 0x06 p
  else
    s.withPlace p size rights (if isLdf then 3 else 2) fun pl =>
      let go (s : State) : State :=
        s.atHome pl fun s =>
          match firstRefused s.mem s.cur.clusterKey pl.addrs with
          | some (cause, _) => s.trap cause p
          | none =>
            let a := pl.addrs.headD 0
            if s.feReady a isLdf then k a s
            else
              State.leave { s with feq := s.feq ++ [{ word := wordOf a, coord := s.cur, isLdf := isLdf }] }
                (.fullEmpty i a)
      if isLdf then s.orderedHere go else s.releaseThen go

def ldfSize (z : BitVec 2) : Nat := if z = 2 then 8 else 4
def steSize (z : BitVec 1) : Nat := if z = 1 then 8 else 4

/-- sz of an `ldf` (R149): 100, 101, 110. -/
def ldfSz (z : BitVec 2) : BitVec 3 := (1#1) ++ z

def State.serveLdf (s : State) (d : BitVec 5) (z : BitVec 2) (n a : Nat) : State :=
  let (v, s) := s.takeFull a (ldfSize z)
  s.finLd d (ldfSz z) n v

def State.serveSte (s : State) (d : BitVec 5) (z : BitVec 1) (n a : Nat) : State :=
  (s.putFull a (leBytes (steSize z) (s.rg d).toNat)).advance n

def State.ldfAt (s : State) (i : Instr) (d : BitVec 5) (z : BitVec 2) (p : Dword) (n : Nat) : State :=
  s.aligned p (ldfSize z) <| s.feAccess i p (ldfSize z) (rightR ||| rightW) true fun a s => s.serveLdf d z n a

def State.steAt (s : State) (i : Instr) (d : BitVec 5) (z : BitVec 1) (p : Dword) (n : Nat) : State :=
  s.aligned p (steSize z) <| s.feAccess i p (steSize z) rightW false fun a s => s.serveSte d z n a

def execLdf (d a : BitVec 5) (z : BitVec 2) (f : BitVec 11) (s : State) : Res :=
  .next (s.ldfAt (.ldf d a z f) d z (s.eptr a (offPlain f) (ldfSize z)) 4)

def execSte (d a : BitVec 5) (z : BitVec 1) (f : BitVec 11) (s : State) : Res :=
  .next (s.steAt (.ste d a z f) d z (s.eptr a (offPlain f) (steSize z)) 4)

/-- A waiting access of the current slot is served at its home, whose checks come first (R146): a refusal traps with the pointer, and the
word waits for the next. -/
def State.serveFe (s : State) (size a : Nat) (p : Dword) (k : State → State) : State :=
  match firstRefused s.mem s.cur.clusterKey ((List.range size).map (a + ·)) with
  | some (cause, _) => (s.wakeFe (wordOf a)).trap cause p
  | none => k s

/-- The waiting `ldf` or `ste` `i` of the current slot, of length `n`, its offset given by `off`. -/
def State.serveWaiter (s : State) (i : Instr) (n a : Nat) (off : BitVec 11 → Int) : State :=
  match i with
  | .ldf d b z f => s.serveFe (ldfSize z) a (s.eptr b (off f) (ldfSize z)) fun s => s.serveLdf d z n a
  | .ste d b z f => s.serveFe (steSize z) a (s.eptr b (off f) (steSize z)) fun s => s.serveSte d z n a
  | _ => s

/-- The oldest waiter that the state of word `arg.n` satisfies is served (R149). A waiter whose bank has left scratch mode in the
meantime is served in the bank as it stands, with no further check of its mode: the model's choice, since R131 speaks of new
accesses alone (log 85). -/
def execFeWordServe (s : State) : Res :=
  let word := s.arg.n
  let full := s.mem.isFull (word * 8)
  .next (
    match takeFirst (fun w => w.word == word && w.isLdf == full) s.feq with
    | none => s
    | some (w, rest) =>
      let s := { s with feq := rest, cur := w.coord }
      match s.me.hold with
      | some (.fullEmpty i a) =>
        match i with
        | .ximm x f => match decodeWord f with | some j => s.serveWaiter j 8 a (offPrefixed x) | none => s
        | i => s.serveWaiter i 4 a offPlain
      | _ => s)

/-! ## Scalar atomics (R150) -/

/-- Operations of R150, by fn[7:4]. -/
def atomicFn (fn : Nat) (w : Nat) (old x expect : Nat) : Nat :=
  let sOld := intOf true w old
  let sX := intOf true w x
  match fn with
  | 0 => x
  | 1 => (old + x) % 2 ^ w
  | 2 => old &&& x
  | 3 => old ||| x
  | 4 => old ^^^ x
  | 5 => if sX < sOld then x else old
  | 6 => if sOld < sX then x else old
  | 7 => min old x
  | 8 => max old x
  | _ => if old = expect then x else old

def atomicWidth (t : BitVec 2) : Nat := if t = 2 then 64 else 32

/-- The value that an atomic returns: the old bytes, extended by the form. -/
def atomicOld (t : BitVec 2) (bytes : List Byte) : Dword :=
  if t = 1 then sext (leDword bytes) 32 else zext (leDword bytes) (atomicWidth t)

def State.finAtomic (s : State) (d : BitVec 5) (t : BitVec 2) (bytes : List Byte) : State :=
  (s.wg d (atomicOld t bytes)).advance 4

/-- `aswp` and `cas` in z64 take the reference rule; every other atomic writes tag 00 (R133). -/
def State.atomicTag (s : State) (fn : Nat) (t : BitVec 2) (p x : Dword) : BitVec 2 :=
  if (fn = 0 || fn = 9) && t = 2 && s.isRef p x then 1 else 0

/-- An atomic at the home of `pl`: reach, escape and poison, then read and write in one step (R144, R146). A `cas` whose
compare fails writes nothing. -/
def State.atomicHere (s : State) (fn : Nat) (d : BitVec 5) (t : BitVec 2) (p x : Dword) (pl : Place) : State :=
  let w := atomicWidth t
  let bytes := s.mem.bytesAt pl.addrs
  let old := leNat bytes
  let fails := fn = 9 && old ≠ (s.rg d).toNat % 2 ^ w
  let tag := s.atomicTag fn t p x
  match firstRefused s.mem s.cur.clusterKey pl.addrs with
  | some (0x07, _) => s.trap 0x07 p
  | r =>
    if !fails && pl.policy == 3 && escapes s.mem pl.addrs tag x then
      (s.modMe fun y => { y with escv := x }).trap 0x08 p
    else if r.isSome then s.trap 0x09 p
    else if fails then s.finAtomic d t bytes
    else
      let new := atomicFn fn w old (x.toNat % 2 ^ w) ((s.rg d).toNat % 2 ^ w)
      (State.store { s with mem := s.cohStore s.cur.clusterKey pl.policy pl.addrs }
        (pl.addrs.zip (leBytes (w / 8) new)) tag).finAtomic d t bytes

/-- R150; `o` holds acq in bit 0 and rel in bit 1. Host atomics are aswp, aadd and cas in z32 or z64. -/
def State.atomic (s : State) (i : Instr) (fn : Nat) (d a b : BitVec 5) (t o : BitVec 2) : State :=
  let p := s.rg a
  let x := s.rg b
  s.aligned p (atomicWidth t / 8) <|
    if s.kindOf p = 6 && !((fn = 0 || fn = 1 || fn = 9) && t ≠ 1) then s.trap 0x06 p
    else
      s.withPlace p (atomicWidth t / 8) 13 accA fun pl =>
        s.ordered (bit o 1) fun s =>
          match pl.peer with
          | some at' =>
            s.askPeer i at' p pl.policy (.atomic fn (atomicWidth t) x (s.rg d) (s.atomicTag fn t p x))
          | none => s.orderedHere fun s => s.atHome pl fun s => s.atomicHere fn d t p x pl

def execAswp (d a b : BitVec 5) (t o : BitVec 2) (s : State) : Res := .next (s.atomic (.aswp d a b t o) 0 d a b t o)
def execAadd (d a b : BitVec 5) (t o : BitVec 2) (s : State) : Res := .next (s.atomic (.aadd d a b t o) 1 d a b t o)
def execAand (d a b : BitVec 5) (t o : BitVec 2) (s : State) : Res := .next (s.atomic (.aand d a b t o) 2 d a b t o)
def execAor (d a b : BitVec 5) (t o : BitVec 2) (s : State) : Res := .next (s.atomic (.aor d a b t o) 3 d a b t o)
def execAxor (d a b : BitVec 5) (t o : BitVec 2) (s : State) : Res := .next (s.atomic (.axor d a b t o) 4 d a b t o)
def execAmin (d a b : BitVec 5) (t o : BitVec 2) (s : State) : Res := .next (s.atomic (.amin d a b t o) 5 d a b t o)
def execAmax (d a b : BitVec 5) (t o : BitVec 2) (s : State) : Res := .next (s.atomic (.amax d a b t o) 6 d a b t o)
def execAminu (d a b : BitVec 5) (t o : BitVec 2) (s : State) : Res := .next (s.atomic (.aminu d a b t o) 7 d a b t o)
def execAmaxu (d a b : BitVec 5) (t o : BitVec 2) (s : State) : Res := .next (s.atomic (.amaxu d a b t o) 8 d a b t o)
def execCas (d a b : BitVec 5) (t o : BitVec 2) (s : State) : Res := .next (s.atomic (.cas d a b t o) 9 d a b t o)

/-! ## Vector loads and stores (R152) -/

def State.finVld (s : State) (d : BitVec 5) (n : Nat) (bytes : List Byte) : State :=
  (s.wv d (vregOfBytes bytes)).advance n

/-- The pointer of the word that holds byte `j` of an access at `p`. -/
def wordPtr (p : Dword) (j : Nat) : Dword := ptrAdd p (BitVec.ofNat 60 (j / 8 * 8))

/-- The pointer that a refusal of the slot's access `i` at `p`, at a home outside the device, reports for byte `j` (R123, R145, R152). -/
def refusedAt (i : Instr) (cause : Byte) (p : Dword) (j : Nat) : Dword :=
  let ofVector : Bool := match i with
    | .vld .. | .vst .. => cause == 0x09
    | .ximm _ f => (match decodeWord f with | some (.vld ..) | some (.vst ..) => cause == 0x09 | _ => false)
    | .dtload .. => true
    | _ => false
  if ofVector then wordPtr p j else p

def State.vldAt (s : State) (i : Instr) (d : BitVec 5) (p : Dword) (n : Nat) : State :=
  s.aligned p 64 <| s.loadThen i p 64 rightR accR (wordPtr p) fun bytes s => s.finVld d n bytes

/-- A `vst` that meets poison reports the lowest poisoned word (R152). -/
def State.vstAt (s : State) (i : Instr) (d : BitVec 5) (rel : Bool) (p : Dword) (n : Nat) : State :=
  s.aligned p 64 <|
    s.withPlace p 64 rightW accW fun pl =>
      s.ordered rel fun s => s.storeThen i p pl (vregBytes (s.rv d)) 0 0 (wordPtr p) fun s => s.advance n

def execVld (d a : BitVec 5) (q : BitVec 1) (f : BitVec 11) (s : State) : Res :=
  .next (s.vldAt (.vld d a q f) d (s.eptr a (offPlain f) 64) 4)

def execVst (d a : BitVec 5) (q : BitVec 1) (f : BitVec 11) (s : State) : Res :=
  .next (s.vstAt (.vst d a q f) d (q == 1) (s.eptr a (offPlain f) 64) 4)

/-! ## Masked accesses, gather and scatter (R153, R154) -/

/-- Steps 2 and 3 of R145 for one element. -/
def State.precheck (s : State) (p : Dword) (n : Nat) (rights : BitVec 4) : Except Stopped Unit :=
  let x := s.me
  match s.ptbOffsets s.cur p n with
  | .error e => .error e
  | .ok offs =>
    let one (o : BitVec 60 × Nat) : Except Stopped Ea :=
      match s.segCheck x.vf (x.segOf p) o.1 o.2 rights p with
      | .error e => .error e
      | .ok () => s.ea s.cur (x.segOf p) o.1 o.2 p
    match collect one offs with
    | .error e => .error e
    | .ok _ => .ok ()

/-- All checks of the elements before any access; `k` goes on when they pass. Each element is (index, pointer). -/
def State.checkAll (s : State) (els : List (Nat × Dword)) (size : Nat) (rights : BitVec 4) (acc : BitVec 3)
    (k : State) : State :=
  match els.find? fun e => e.2.toNat % size != 0 || (match s.precheck e.2 size rights with | .ok () => false | .error _ => true) with
  | none => k
  | some e =>
    if e.2.toNat % size != 0 then s.trap 0x04 e.2
    else match s.precheck e.2 size rights with
      | .error x => s.stopAt s.cur x acc e.2
      | .ok () => k

/-- Loads the elements in ascending order: their bytes, or the state after what stopped one. -/
def State.loadEls (s : State) (els : List (Nat × Dword)) (size : Nat) : Except State (List (Nat × List Byte)) :=
  match els with
  | [] => .ok []
  | (i, p) :: r =>
    match s.dataPlace s.cur p size rightR with
    | .error e => .error (s.stopAt s.cur e accR p)
    | .ok pl =>
      match firstRefused s.mem s.cur.clusterKey pl.addrs with
      | some (cause, _) => .error (s.trap cause p)
      | none =>
        match State.loadEls s r size with
        | .error s' => .error s'
        | .ok l => .ok ((i, s.mem.bytesAt pl.addrs) :: l)

/-- Element values replace the active elements of vD (R97). -/
def State.finEls (s : State) (d : BitVec 5) (ty : BitVec 4) (vals : List (Nat × List Byte)) : State :=
  let w := elemWidth ty
  (s.wv d (pack w ((List.range (elemCount ty)).map fun i =>
    match vals.find? (·.1 == i) with
    | some (_, b) => leNat b
    | none => lane w (s.rv d) i))).advance 4

/-- Loads of elements at peers, one request each, in ascending order: the next one that has no answer, or the result (R154). -/
def State.askEls (s : State) (i : Instr) (d : BitVec 5) (ty : BitVec 4) (els : List (Nat × Dword)) : State :=
  let size := elemWidth ty / 8
  match els.drop s.me.elems.length with
  | [] => s.finEls d ty ((els.map (·.1)).zip s.me.elems)
  | (_, p) :: _ =>
    s.withPlace p size rightR accR fun pl =>
      match pl.peer with
      | some at' => s.askPeer i at' p pl.policy (.read size)
      | none => s

/-- The bytes of loads of the current slot are on dies that accept its requests; else it has no answer (R249). -/
def State.elsHome (s : State) (els : List (Nat × Dword)) (size : Nat) (k : State → State) : State :=
  let pls := els.filterMap fun e => match s.dataPlace s.cur e.2 size rightR with | .ok pl => some pl | .error _ => none
  let all : Place := Place.join pls
  s.settleThen all fun s => s.atHome all k

/-- Loads of elements by the current slot; `i` reissues or goes on at a peer's reply. -/
def State.loadElements (s : State) (i : Instr) (d : BitVec 5) (ty : BitVec 4) (els : List (Nat × Dword)) : State :=
  let size := elemWidth ty / 8
  s.checkAll els size rightR accR <|
    if els.any fun e => s.kindOf e.2 == 5 then s.askEls i d ty els
    else
      s.elsHome els size fun s =>
        match s.loadEls els size with
        | .error s' => s'
        | .ok vals => s.finEls d ty vals

/-- Stores the elements in ascending order; a page fault holds the slot after the elements already made (R154). -/
def State.storeEls (s : State) (i : Instr) (els : List (Nat × Dword)) (size : Nat) (val : Nat → Nat) : State :=
  match els with
  | [] => s.advance 4
  | (j, p) :: r =>
    s.withPlace p size rightW accW fun pl =>
      s.storeThen i p pl (leBytes size (val j)) 0 0 (fun _ => p) fun s => State.storeEls s i r size val

/-- Pointers of consecutive elements (R153). -/
def elemPtrs (p : Dword) (size : Nat) (idx : List Nat) : List (Nat × Dword) :=
  idx.map fun i => (i, ptrAdd p (BitVec.ofNat 60 (i * size)))

def State.masked (s : State) (a : BitVec 5) (k : BitVec 3) (ty : BitVec 4) : List (Nat × Dword) :=
  elemPtrs (s.rg a) (elemWidth ty / 8) (active (elemCount ty) (s.rk k))

/-- A base that is not aligned traps with cause 0x04 and its own pointer even where no element is active, here and in the vector
atomics: the model's choice (log 86). -/
def execVldMasked (d a : BitVec 5) (k : BitVec 3) (t : BitVec 4) (s : State) : Res :=
  .next (s.aligned (s.rg a) (elemWidth t / 8) (s.loadElements (.vldMasked d a k t) d t (s.masked a k t)))

def execVstMasked (d a : BitVec 5) (k : BitVec 3) (t : BitVec 4) (s : State) : Res :=
  let size := elemWidth t / 8
  let els := s.masked a k t
  .next (s.aligned (s.rg a) size (s.checkAll els size rightW accW (s.storeEls (.vstMasked d a k t) els size (s.el t d))))

/-- p[i] of R154. -/
def State.offsets (s : State) (a b : BitVec 5) (k : BitVec 3) (ty : BitVec 4) : List (Nat × Dword) :=
  (active (elemCount ty) (s.rk k)).map fun i => (i, ptrAdd (s.rg a) (BitVec.ofNat 60 (s.el ty b i)))

def execVgather (d a b : BitVec 5) (k : BitVec 3) (t : BitVec 4) (s : State) : Res :=
  .next (s.loadElements (.vgather d a b k t) d t (s.offsets a b k t))

def execVscatter (d a b : BitVec 5) (k : BitVec 3) (t : BitVec 4) (s : State) : Res :=
  let size := elemWidth t / 8
  let els := s.offsets a b k t
  .next (s.checkAll els size rightW accW (s.storeEls (.vscatter d a b k t) els size (s.el t d)))

/-! ## Vector atomics (R155) -/

/-- The places of all elements, or what stops the first that has none. -/
def State.atomPlaces (s : State) (els : List (Nat × Dword)) (size : Nat) : Except State (List (Nat × Dword × Place)) :=
  match els with
  | [] => .ok []
  | (i, p) :: r =>
    match s.dataPlace s.cur p size 13 with
    | .error e => .error (s.stopAt s.cur e accA p)
    | .ok pl =>
      match State.atomPlaces s r size with
      | .error s' => .error s'
      | .ok l => .ok ((i, p, pl) :: l)

/-- The line that an element lies in: a number of the flat space, or of a peer's VA. -/
def Place.line (pl : Place) : Nat :=
  match pl.peer with
  | some (dev, va) => 2 ^ 60 + dev.toNat * 2 ^ 41 + va.toNat / 128
  | none => lineOf (pl.addrs.headD 0)

/-- The packet of one line: each active element's address (offset from the first for a peer) and operand. -/
def State.atomPacket (s : State) (ty fn : BitVec 4) (b : BitVec 5) (pl : Place) (els : List (Nat × Dword × Place)) : PacketOp :=
  .vatomic ty fn (els.map fun e =>
    (match e.2.2.peer, pl.peer with
     | some (_, va), some (_, va0) => va.toNat - va0.toNat
     | _, _ => e.2.2.addrs.headD 0
     , BitVec.ofNat 64 (s.el ty b e.1)))

/-- One packet per line, in ascending address. Under policy 11 the slot waits for each: at this device it performs at once and its
refusal traps, at a peer its answer ends the wait. What a refusal reports is the first active element of the line (log 81). -/
def State.atomPackets (s : State) (i : Instr) (ty fn : BitVec 4) (b : BitVec 5) : List (List (Nat × Dword × Place)) → State
  | [] => s.advance 4
  | [] :: r => State.atomPackets s i ty fn b r
  | ((j, p, pl) :: g) :: r =>
    let els := (j, p, pl) :: g
    let addrs := (els.map fun e => e.2.2.addrs).flatten
    let packet := s.atomPacket ty fn b pl els
    if pl.waited then
      match pl.peer with
      | some place => s.askPeer i place p pl.policy (.packet packet)
      | none =>
        match firstRefused s.mem s.cur.clusterKey addrs with
        | some (cause, _) => s.trap cause p
        | none =>
          let s := { s with mem := s.cohStore s.cur.clusterKey pl.policy addrs }
          State.atomPackets (s.effect (s.packet s.cur p (.here 0) packet pl) 0) i ty fn b r
    else State.atomPackets (s.post p pl fun _ => packet) i ty fn b r

/-- Groups elements by line. They come in ascending pointer order, and so do their lines. -/
def groupLines (els : List (Nat × Dword × Place)) : List (List (Nat × Dword × Place)) :=
  ((els.map fun e => e.2.2.line).eraseDups).map fun l => els.filter fun e => e.2.2.line == l

/-- The packets that are left, after those that peers have answered. -/
def State.vatomicGo (s : State) (i : Instr) (a b : BitVec 5) (k : BitVec 3) (ty fn : BitVec 4) : State :=
  match s.atomPlaces (s.masked a k ty) (elemWidth ty / 8) with
  | .error s' => s'
  | .ok places =>
    let lines := (groupLines places).drop s.me.elems.length
    let here := places.all fun e => e.2.2.waited && e.2.2.peer.isNone
    if here && !places.isEmpty then
      s.orderedHere fun s => s.atHome (Place.join (places.map (·.2.2))) fun s => s.atomPackets i ty fn b lines
    else s.atomPackets i ty fn b lines

def State.vatomic (s : State) (i : Instr) (a b : BitVec 5) (k : BitVec 3) (ty fn : BitVec 4) : State :=
  let size := elemWidth ty / 8
  let p := s.rg a
  s.aligned p size <|
    if s.kindOf p = 6 then s.trap 0x06 p
    else s.checkAll (s.masked a k ty) size 13 accA (s.vatomicGo i a b k ty fn)

def execVaadd (a b : BitVec 5) (k : BitVec 3) (t : BitVec 4) (s : State) : Res := .next (s.vatomic (.vaadd a b k t) a b k t 4)
def execVamin (a b : BitVec 5) (k : BitVec 3) (t : BitVec 4) (s : State) : Res := .next (s.vatomic (.vamin a b k t) a b k t 5)
def execVamax (a b : BitVec 5) (k : BitVec 3) (t : BitVec 4) (s : State) : Res := .next (s.vatomic (.vamax a b k t) a b k t 6)
def execVaand (a b : BitVec 5) (k : BitVec 3) (t : BitVec 4) (s : State) : Res := .next (s.vatomic (.vaand a b k t) a b k t 7)
def execVaor (a b : BitVec 5) (k : BitVec 3) (t : BitVec 4) (s : State) : Res := .next (s.vatomic (.vaor a b k t) a b k t 8)
def execVaxor (a b : BitVec 5) (k : BitVec 3) (t : BitVec 4) (s : State) : Res := .next (s.vatomic (.vaxor a b k t) a b k t 9)

/-! ## Line instructions (R156) -/

/-- `zline`: one waited store at the home; on a policy-11 page the line becomes PRIVATE to the slot's cluster (R309), but for a page in
host bias, of which the device keeps no copy (R365). Where the kind is not paged, the policy-11 segment stands for the page: the
model's choice (log 92). -/
def execZline (a : BitVec 5) (s : State) : Res :=
  let p := s.rg a
  .next (
    s.aligned p 128 <|
      s.withPlace p 128 rightW accW fun pl =>
        match pl.peer with
        | some at' => s.askPeer (.zline a) at' p pl.policy (.zline (s.privileged s.cur))
        | none =>
          s.orderedHere fun s =>
            s.atHome pl fun s =>
              let addr := pl.addrs.headD 0
              match firstRefused s.mem s.cur.clusterKey pl.addrs with
              | some (0x07, _) => s.trap 0x07 p
              | r =>
                if r.isSome && !s.privileged s.cur then s.trap 0x09 p
                else
                  let owner := if pl.policy = 3 && !s.mem.hostBiased (lineOf addr) then some s.cur.clusterKey else none
                  let s := State.wrote { s with mem := s.mem.zeroLine (lineOf addr) owner } [addr]
                  ((List.range 16).foldl (fun s j => s.wakeFe (wordOf addr + j)) s).advance 4)

/-- `flush`: the modified copy of the line, whichever cluster holds it, goes to its home (R156), and a line PRIVATE to another cluster is
refused, since the flush is an access to it (R146): both are the model's readings (log 35). -/
def execFlush (a : BitVec 5) (s : State) : Res :=
  let p := s.rg a
  .next (
    s.aligned p 128 <|
      s.withPlace p 128 rightR accR fun pl =>
        if pl.peer.isSome then s.advance 4
        else
          s.orderedHere fun s =>
            let line := lineOf (pl.addrs.headD 0)
            match s.crossAll s.cur s.me.strand s.me.vf pl.xcl pl.addrs with
            | (s, false) => s.advance 4
            | (s, true) =>
              if (s.mem.owner.find? line).any (· != s.cur.clusterKey) then s.trap 0x07 p
              else { s with mem := s.mem.clean line }.advance 4)

/-- `pref`: a hint that never traps and never holds (R156). -/
def execPref (a : BitVec 5) (s : State) : Res :=
  .next (
    match s.dataPlace s.cur (s.rg a) 1 rightR with
    | .error _ => s.advance 4
    | .ok pl =>
      if pl.peer.isSome || (firstRefused s.mem s.cur.clusterKey pl.addrs).isSome then s.advance 4
      else { s with mem := s.cohLoad s.cur.clusterKey pl.policy pl.addrs }.advance 4)

/-! ## `dtload` (R123) -/

/-- The image of a table: bits 18:0 of each word. -/
def tableOfBytes (bytes : List Byte) : DTable :=
  DTable.ofList ((leDwords 128 bytes).flatMap fun d => [fld d 0 19, fld d 32 19])

/-- The swap: the table changes as a whole, with its order bit. -/
def State.finDtload (s : State) (x : BitVec 1) (bytes : List Byte) : State :=
  let t := tableOfBytes bytes
  (s.modCore s.cur fun k => if x = 0 then { k with tabA := t } else { k with tabB := t }).advance 4

/-- The parts of the image at `p` that lie in one block of the position translation buffer each (R143): pointer and bytes. -/
def State.imageParts (s : State) (p : Dword) : List (Dword × Nat) :=
  let k := s.core s.cur
  if bit k.ptbcfg 63 && fld k.ptbcfg 60 3 == fld p 61 3 then
    let o := fldN p 0 60
    (pieces (2 ^ ptbShift k.ptbcfg) 1024 o 1024).map fun x => (ptrAdd p (BitVec.ofNat 60 (x.1 - o)), x.2)
  else [(p, 1024)]

/-- The image at a peer, asked for part by part: the next part that has no answer, or the swap. -/
def State.askImage (s : State) (x : BitVec 1) (a : BitVec 5) : State :=
  match (s.imageParts (s.rg a)).drop s.me.elems.length with
  | [] => s.finDtload x s.me.elems.flatten
  | (q, n) :: _ =>
    s.withPlace q n rightR accR fun pl =>
      match pl.peer with
      | some at' => s.askPeer (.dtload x a) at' q pl.policy (.read n)
      | none => s

def execDtload (x : BitVec 1) (a : BitVec 5) (s : State) : Res :=
  let p := s.rg a
  .next (
    s.aligned p 64 <|
      if s.kindOf p = 5 then
        match s.precheck p 1024 rightR with
        | .error e => s.stopAt s.cur e accR p
        | .ok () => s.askImage x a
      else s.loadThen (.dtload x a) p 1024 rightR accR (wordPtr p) fun bytes s => s.finDtload x bytes)

/-! ## `fence` (R307) -/

/-- The kind bits of a fence that name a packet (R307): a vector atomic is a read and a write, every other packet a write. -/
def PacketOp.fencedBy (op : PacketOp) (k : BitVec 2) : Bool := bit k 0 || (bit k 1 && (op matches .vatomic ..))

/-- The bytes of a packet that has its home on this device; none where they are not known yet: a held post, or the peer path to this
device's own number (R289) at a VA that has no page. -/
def State.homeBytes (s : State) (p : Packet) : Option (List Nat) :=
  match p.route with
  | .here _ => if p.held then none else some p.addrs
  | .peer dev va =>
    let vf := fldN (s.peerEntry dev) 33 9
    match collect (s.translateAt p.coord vf p.policy p.op.needs va) p.op.pieces with
    | .ok l => some (l.map (·.addrs)).flatten
    | .error _ => none

def State.bytesInScope (s : State) (scope : Nat) : Option (List Nat) → Bool
  | none => true
  | some l => l.any fun a => inScope scope s.cur ((s.mem.ownerOf a) == some s.cur.clusterKey) a

/-- The scope contains a home of the packet (R298). One whose home is not known counts for every scope, and so do the fill of a mailbox, which
is of core scope, and a `cut`; one at another device counts for sys. -/
def State.inScopeOf (s : State) (scope : Nat) (p : Packet) : Bool :=
  4 ≤ scope || (p.op matches .mail _) || (p.op matches .cut _) ||
    match p.route with
    | .peer dev _ => dev == s.dev.devno && s.bytesInScope scope (s.homeBytes p)
    | .here _ => s.bytesInScope scope (s.homeBytes p)

/-- Packets of the slot that a fence of a kind and a scope waits for. -/
def State.fencePending (s : State) (k : BitVec 2) (scope : Nat) : Bool :=
  s.port.any fun p => p.of s.cur && p.op.fencedBy k && s.inScopeOf scope p

/-- A block of the instruction cache came from a peer. -/
def peerBlock (block : Nat) : Bool := 2 ^ 60 ≤ block

/-- The slot waits for a peer's block (R63), and where. -/
def Slot.fetching (x : Slot) : Option (Dword × BitVec 9) :=
  match x.hold with
  | some (.load .fetchBlockDelivery p dev) => some (p, dev)
  | _ => none

/-- The device that a block of the peer path came from. -/
def blockDev (block : Nat) : BitVec 9 := BitVec.ofNat 9 ((block - 2 ^ 60) / 2 ^ 43)

/-- A fence of scope `c` covers code fetched from a device (R298): any of sys scope; from this device's own number, whose VAs have their
homes on its dies (R289), any from die scope on. -/
def fenceCovers (own : BitVec 9) (c : BitVec 3) (dev : BitVec 9) : Bool := c == 4 || (2 ≤ c.toNat && dev == own)

/-- The fence completes: the next fetches of the code that it covers are no older than one with the st kind (R302), so that the
cluster drops the blocks of the peer path that it holds, and those that are on their way. -/
def State.fenced (s : State) (k : BitVec 2) (c : BitVec 3) : State :=
  if bit k 0 && 2 ≤ c.toNat then
    let covers := fenceCovers s.dev.devno c
    let s := s.modCluster s.cur fun cl =>
      { cl with icache := cl.icache.filter fun e => !(peerBlock e.1 && covers (blockDev e.1)) }
    let l : Sparse Slot := s.slots.map fun kx =>
      match kx.2.fetching with
      | some (p, dev) =>
        if (Coord.ofKey kx.1).clusterKey = s.cur.clusterKey && covers dev then (kx.1, { kx.2 with hold := some (.refetch p dev) }) else kx
      | none => kx
    State.advance { s with slots := l } 4
  else s.advance 4

/-- `fence`: the slot's packets of the kind perform whose homes the scope contains; of sys scope, every posted access is
acknowledged, and a recorded fault is raised (R293). -/
def execFence (k : BitVec 2) (c : BitVec 3) (s : State) : Res :=
  let s := if s.fencePending k c.toNat then s.drain s.cur else s
  .next (
    if s.fencePending k c.toNat then s.leave .posted
    else if c = 4 then
      let s := s.drain s.cur
      if s.outstanding s.cur then s.leave .posted
      else
        let x := s.me
        if bit x.rfault 63 then s.trap (if fld x.rfault 48 8 = 0x0B then 0x0B else 0x0A) x.rfptr
        else s.fenced k c
    else s.fenced k c)

/-! ## Performing posted packets -/

/-- A packet of slot `c` is over. A slot that waits for one of them looks again: it reissues its instruction (R300, R307), goes on with
its flush (R275), or retires once none is outstanding (R89). -/
def State.acked (s : State) (c : Coord) : State :=
  match (s.slot c).hold with
  | some .posted => s.modSlot c fun x => { x with hold := none }
  | some .exiting => if s.outstanding c then s else s.later .slotRetire (.at c)
  | some (.skflush _) => s.later .skflushComplete (.at c)
  | _ => s

/-- The oldest packet of slot `c` that may perform at this device, if its event is `e`, performs, and packets that waited for it
leave. -/
def State.performEvent (s : State) (c : Coord) (e : Instr) : State :=
  match nextHere s.dev.devno c s.port with
  | none => s
  | some (p, _) => if p.op.event p.xcluster = e then ((s.performFirst c).pump c).acked c else s

/-- The packet of slot `c` that a device answers: the oldest that has left for it, and the port around it. -/
def sentPacket (c : Coord) (dev : BitVec 9) : List Packet → Option (List Packet × Packet × List Packet)
  | [] => none
  | p :: r =>
    if p.coord == c && p.sent && p.goesTo dev then some ([], p, r)
    else
      match sentPacket c dev r with
      | none => none
      | some (a, q, b) => some (p :: a, q, b)

/-- The packets of slot `c` that no earlier one of their task holds back, and that may perform here. -/
def freeOf (own : BitVec 9) (c : Coord) : List Packet → List Packet → List Packet
  | _, [] => []
  | before, p :: r =>
    let rest := freeOf own c (before ++ [p]) r
    if p.coord == c && p.isHere && ((p.op matches .cut _) || before.all fun q => !(p.with q && q.holdsBack own)) then p :: rest else rest

def State.freePackets (s : State) (c : Coord) : List Packet := freeOf s.dev.devno c [] s.port

/-- The events that perform packets. -/
def packetEvents (c : Coord) (l : List Packet) : List (Instr × EvArg) := l.map fun q => (q.op.event q.xcluster, EvArg.at c)

/-- A packet of slot `c` is over: what waited behind it leaves or performs, and who waits for it goes on. -/
def State.packetOver (s : State) (c : Coord) (p : Packet) : State :=
  let s := match p.completes with | some n => s.tlComplete c p.vf 7 n | none => s
  let free := s.freePackets c
  let freed := p.holdsBack s.dev.devno || free.any (·.op.isLast)
  (((s.laters (if freed then packetEvents c free else [])).released p).pump c).acked c

/-- The oldest packet of slot `c` on its way to a device, if its event is `e`, is acknowledged by it, refused, or held by a page
fault there (R106, R141): it keeps its place (R292), and the expiry that it carries (R249). -/
def State.ackPeer (s : State) (c : Coord) (dev : BitVec 9) (e : Instr) (r : Reply) : State :=
  match sentPacket c dev s.port with
  | none => s
  | some (a, p, b) =>
    if p.op.event p.xcluster = e then
      match r with
      | .faulted =>
        let left := carried (s.remaining c.die p.strand) (fldN (s.die c.die).linkb 32 16)
        let until_ := if p.strand = 0 then none else some (s.now c.die + left)
        { s with port := a ++ { p with held := true, sent := false, pf := p.pf + 1, expires := until_ } :: b }
      | .refused cause j => (State.packetFault { s with port := a ++ b } p cause (p.refusedPtr cause j)).packetOver c p
      | _ => State.packetOver { s with port := a ++ b } c p
    else s

/-- R290: a peer's reply whose incarnation is not this device's is discarded. -/
def State.staleReply (s : State) : Bool := s.arg.inc != s.dev.incarn

end Sys2Proof.Machine
end

