-- ==== Sys2Proof/Machine/Integer.lean ====
section
/-! DEFINITION. Integer, compare, mask, select, extension, pointer and immediate instructions (R71 to R84). -/
namespace Sys2Proof.Machine

/-! ## Shared forms -/

/-- A predicated instruction (R68): its effect, or a `nop`. -/
def State.ifPred (s : State) (p : BitVec 3) (f : State → State) : State :=
  if s.pred p then (f s).advance 4 else s.advance 4

/-- `if pred then gD := f(gA, gB)` (R71). -/
def State.op2 (s : State) (d a b : BitVec 5) (p : BitVec 3) (f : Dword → Dword → Dword) : State :=
  s.ifPred p fun s => s.wg d (f (s.rg a) (s.rg b))

/-- `if pred then gD := f(gA)`. -/
def State.op1 (s : State) (d a : BitVec 5) (p : BitVec 3) (f : Dword → Dword) : State :=
  s.ifPred p fun s => s.wg d (f (s.rg a))

/-- A compare (R76). -/
def State.cmpOp (s : State) (d : BitVec 3) (a b : BitVec 5) (p : BitVec 3) (c : Dword → Dword → Bool) : State :=
  s.ifPred p fun s => s.wk d (ones (c (s.rg a) (s.rg b)))

/-- Mask logic (R77). -/
def State.kOp (s : State) (d a b : BitVec 3) (p : BitVec 3) (f : Dword → Dword → Dword) : State :=
  s.ifPred p fun s => s.wk d (f (s.rk a) (s.rk b))

/-- `sat_s` (R71). -/
def satS (x : Int) : Dword := BitVec.ofInt 64 (max (-(2 ^ 63)) (min x (2 ^ 63 - 1)))
/-- `sat_z` (R71). -/
def satZ (x : Int) : Dword := BitVec.ofInt 64 (max 0 (min x (2 ^ 64 - 1)))

/-! ## Group 0x01 (R71) -/

def execAdd (d a b : BitVec 5) (p : BitVec 3) (s : State) : Res := .next (s.op2 d a b p (· + ·))
def execSub (d a b : BitVec 5) (p : BitVec 3) (s : State) : Res := .next (s.op2 d a b p (· - ·))
def execAnd (d a b : BitVec 5) (p : BitVec 3) (s : State) : Res := .next (s.op2 d a b p (· &&& ·))
def execOr (d a b : BitVec 5) (p : BitVec 3) (s : State) : Res := .next (s.op2 d a b p (· ||| ·))
def execXor (d a b : BitVec 5) (p : BitVec 3) (s : State) : Res := .next (s.op2 d a b p (· ^^^ ·))
def execAndn (d a b : BitVec 5) (p : BitVec 3) (s : State) : Res := .next (s.op2 d a b p fun x y => x &&& ~~~y)
def execOrn (d a b : BitVec 5) (p : BitVec 3) (s : State) : Res := .next (s.op2 d a b p fun x y => x ||| ~~~y)
def execAddSat (d a b : BitVec 5) (p : BitVec 3) (s : State) : Res :=
  .next (s.op2 d a b p fun x y => satS (x.toInt + y.toInt))
def execSubSat (d a b : BitVec 5) (p : BitVec 3) (s : State) : Res :=
  .next (s.op2 d a b p fun x y => satS (x.toInt - y.toInt))
def execAddZsat (d a b : BitVec 5) (p : BitVec 3) (s : State) : Res :=
  .next (s.op2 d a b p fun x y => satZ ((x.toNat : Int) + y.toNat))
def execSubZsat (d a b : BitVec 5) (p : BitVec 3) (s : State) : Res :=
  .next (s.op2 d a b p fun x y => satZ ((x.toNat : Int) - y.toNat))

/-! ## Group 0x02 (R72, R73) -/

def execMul (d a b : BitVec 5) (p : BitVec 3) (s : State) : Res := .next (s.op2 d a b p (· * ·))
def execMulh (d a b : BitVec 5) (p : BitVec 3) (s : State) : Res :=
  .next (s.op2 d a b p fun x y => BitVec.ofInt 64 (x.toInt * y.toInt / 2 ^ 64))
def execMulhz (d a b : BitVec 5) (p : BitVec 3) (s : State) : Res :=
  .next (s.op2 d a b p fun x y => BitVec.ofNat 64 (x.toNat * y.toNat / 2 ^ 64))
def execMulSat (d a b : BitVec 5) (p : BitVec 3) (s : State) : Res :=
  .next (s.op2 d a b p fun x y => satS (x.toInt * y.toInt))

/-- Signed quotient of R73. -/
def divS (n d : Dword) : Dword :=
  if d = 0 then BitVec.allOnes 64 else BitVec.ofInt 64 (Int.tdiv n.toInt d.toInt)
/-- Signed remainder of R73. -/
def remS (n d : Dword) : Dword := if d = 0 then n else BitVec.ofInt 64 (Int.tmod n.toInt d.toInt)
/-- Unsigned quotient of R73. -/
def divU (n d : Dword) : Dword := if d = 0 then BitVec.allOnes 64 else BitVec.ofNat 64 (n.toNat / d.toNat)
/-- Unsigned remainder of R73. -/
def remU (n d : Dword) : Dword := if d = 0 then n else BitVec.ofNat 64 (n.toNat % d.toNat)

def execDiv (d a b : BitVec 5) (p : BitVec 3) (s : State) : Res := .next (s.op2 d a b p divS)
def execDivz (d a b : BitVec 5) (p : BitVec 3) (s : State) : Res := .next (s.op2 d a b p divU)
def execRem (d a b : BitVec 5) (p : BitVec 3) (s : State) : Res := .next (s.op2 d a b p remS)
def execRemz (d a b : BitVec 5) (p : BitVec 3) (s : State) : Res := .next (s.op2 d a b p remU)

/-! ## Group 0x03 (R74, R75) -/

/-- Shift amounts of R74: bits 5:0. -/
def shamt (y : Dword) : Nat := fldN y 0 6

def sllN (x : Dword) (n : Nat) : Dword := x <<< n
def srlN (x : Dword) (n : Nat) : Dword := x >>> n
def sraN (x : Dword) (n : Nat) : Dword := x.sshiftRight n
def rorN (x : Dword) (n : Nat) : Dword := x.rotateRight n

def execSll (d a b : BitVec 5) (p : BitVec 3) (s : State) : Res := .next (s.op2 d a b p fun x y => sllN x (shamt y))
def execSrl (d a b : BitVec 5) (p : BitVec 3) (s : State) : Res := .next (s.op2 d a b p fun x y => srlN x (shamt y))
def execSra (d a b : BitVec 5) (p : BitVec 3) (s : State) : Res := .next (s.op2 d a b p fun x y => sraN x (shamt y))
def execRor (d a b : BitVec 5) (p : BitVec 3) (s : State) : Res := .next (s.op2 d a b p fun x y => rorN x (shamt y))

/-- Leading zero bits; 64 for 0. -/
def clzN (x : Dword) : Nat := if x = 0 then 64 else 63 - Nat.log2 x.toNat
/-- Trailing zero bits from bit `i` on, with `fuel` bits left. -/
def ctzFrom (x : Dword) : Nat → Nat → Nat
  | 0, i => i
  | k + 1, i => if bit x i then i else ctzFrom x k (i + 1)
/-- The dword whose bit i is `f i`. -/
def ofBits (f : Nat → Bool) : Dword :=
  BitVec.ofNat 64 ((List.range 64).foldl (fun a i => a + if f i then 2 ^ i else 0) 0)

def popcount (x : Dword) : Nat := ((List.range 64).filter (bit x)).length

def execClz (d a : BitVec 5) (p : BitVec 3) (s : State) : Res := .next (s.op1 d a p fun x => BitVec.ofNat 64 (clzN x))
def execCtz (d a : BitVec 5) (p : BitVec 3) (s : State) : Res :=
  .next (s.op1 d a p fun x => BitVec.ofNat 64 (ctzFrom x 64 0))
def execPcnt (d a : BitVec 5) (p : BitVec 3) (s : State) : Res :=
  .next (s.op1 d a p fun x => BitVec.ofNat 64 (popcount x))
def execBrev (d a : BitVec 5) (p : BitVec 3) (s : State) : Res :=
  .next (s.op1 d a p fun x => ofBits fun i => bit x (63 - i))
def execBswap (d a : BitVec 5) (p : BitVec 3) (s : State) : Res :=
  .next (s.op1 d a p fun x => leDword (leBytes 8 x.toNat).reverse)

/-! ## Group 0x04 (R76, R77) -/

def execCmpEq (d : BitVec 3) (a b : BitVec 5) (p : BitVec 3) (s : State) : Res := .next (s.cmpOp d a b p (· == ·))
def execCmpNe (d : BitVec 3) (a b : BitVec 5) (p : BitVec 3) (s : State) : Res := .next (s.cmpOp d a b p (· != ·))
def execCmpLt (d : BitVec 3) (a b : BitVec 5) (p : BitVec 3) (s : State) : Res :=
  .next (s.cmpOp d a b p fun x y => x.toInt < y.toInt)
def execCmpGe (d : BitVec 3) (a b : BitVec 5) (p : BitVec 3) (s : State) : Res :=
  .next (s.cmpOp d a b p fun x y => y.toInt ≤ x.toInt)
def execCmpLtu (d : BitVec 3) (a b : BitVec 5) (p : BitVec 3) (s : State) : Res :=
  .next (s.cmpOp d a b p fun x y => x.toNat < y.toNat)
def execCmpGeu (d : BitVec 3) (a b : BitVec 5) (p : BitVec 3) (s : State) : Res :=
  .next (s.cmpOp d a b p fun x y => y.toNat ≤ x.toNat)

def execKand (d a b p : BitVec 3) (s : State) : Res := .next (s.kOp d a b p (· &&& ·))
def execKor (d a b p : BitVec 3) (s : State) : Res := .next (s.kOp d a b p (· ||| ·))
def execKxor (d a b p : BitVec 3) (s : State) : Res := .next (s.kOp d a b p (· ^^^ ·))
def execKandn (d a b p : BitVec 3) (s : State) : Res := .next (s.kOp d a b p fun x y => x &&& ~~~y)
def execKmov (d a p : BitVec 3) (s : State) : Res := .next (s.kOp d a a p fun x _ => x)
def execGtok (d : BitVec 3) (a : BitVec 5) (p : BitVec 3) (s : State) : Res :=
  .next (s.ifPred p fun s => s.wk d (s.rg a))
def execKtog (d : BitVec 5) (a : BitVec 3) (p : BitVec 3) (s : State) : Res :=
  .next (s.ifPred p fun s => s.wg d (s.rk a))

/-! ## Group 0x05 (R78 to R80) -/

def execSel (d a b : BitVec 5) (k : BitVec 3) (s : State) : Res :=
  .next ((s.wg d (if s.pred k then s.rg a else s.rg b)).advance 4)

def execSext8 (d a : BitVec 5) (p : BitVec 3) (s : State) : Res := .next (s.op1 d a p (sext · 8))
def execSext16 (d a : BitVec 5) (p : BitVec 3) (s : State) : Res := .next (s.op1 d a p (sext · 16))
def execSext32 (d a : BitVec 5) (p : BitVec 3) (s : State) : Res := .next (s.op1 d a p (sext · 32))
def execZext8 (d a : BitVec 5) (p : BitVec 3) (s : State) : Res := .next (s.op1 d a p (zext · 8))
def execZext16 (d a : BitVec 5) (p : BitVec 3) (s : State) : Res := .next (s.op1 d a p (zext · 16))
def execZext32 (d a : BitVec 5) (p : BitVec 3) (s : State) : Res := .next (s.op1 d a p (zext · 32))

/-- The P bit (R126). -/
def pBit : Dword := 1#64 <<< 60

def execMkptr (d a : BitVec 5) (n p : BitVec 3) (s : State) : Res :=
  .next (s.op1 d a p fun x => n ++ (0#1) ++ fld x 0 60)
def execSetp (d a : BitVec 5) (p : BitVec 3) (s : State) : Res := .next (s.op1 d a p (· ||| pBit))
def execClrp (d a : BitVec 5) (p : BitVec 3) (s : State) : Res := .next (s.op1 d a p (· &&& ~~~pBit))

/-! ## Immediates (R81 to R84); `imm` is formed by R42 and `n` is the length in bytes -/

def State.immOp (s : State) (d a : BitVec 5) (imm : Dword) (n : Nat) (f : Dword → Dword → Dword) : State :=
  (s.wg d (f (s.rg a) imm)).advance n

def State.immCmp (s : State) (k : BitVec 3) (a : BitVec 5) (imm : Dword) (n : Nat) (c : Dword → Dword → Bool) : State :=
  (s.wk k (ones (c (s.rg a) imm))).advance n

def execAddi (d a : BitVec 5) (i : BitVec 16) (s : State) : Res := .next (s.immOp d a (i.signExtend 64) 4 (· + ·))
def execAndi (d a : BitVec 5) (i : BitVec 16) (s : State) : Res := .next (s.immOp d a (i.setWidth 64) 4 (· &&& ·))
def execOri (d a : BitVec 5) (i : BitVec 16) (s : State) : Res := .next (s.immOp d a (i.setWidth 64) 4 (· ||| ·))
def execXori (d a : BitVec 5) (i : BitVec 16) (s : State) : Res := .next (s.immOp d a (i.setWidth 64) 4 (· ^^^ ·))

def execSlli (d a : BitVec 5) (n : BitVec 6) (s : State) : Res := .next ((s.wg d (sllN (s.rg a) n.toNat)).advance 4)
def execSrli (d a : BitVec 5) (n : BitVec 6) (s : State) : Res := .next ((s.wg d (srlN (s.rg a) n.toNat)).advance 4)
def execSrai (d a : BitVec 5) (n : BitVec 6) (s : State) : Res := .next ((s.wg d (sraN (s.rg a) n.toNat)).advance 4)
def execRori (d a : BitVec 5) (n : BitVec 6) (s : State) : Res := .next ((s.wg d (rorN (s.rg a) n.toNat)).advance 4)

def execCmpiEq (k : BitVec 3) (a : BitVec 5) (i : BitVec 16) (s : State) : Res :=
  .next (s.immCmp k a (i.signExtend 64) 4 (· == ·))
def execCmpiNe (k : BitVec 3) (a : BitVec 5) (i : BitVec 16) (s : State) : Res :=
  .next (s.immCmp k a (i.signExtend 64) 4 (· != ·))
def execCmpiLt (k : BitVec 3) (a : BitVec 5) (i : BitVec 16) (s : State) : Res :=
  .next (s.immCmp k a (i.signExtend 64) 4 fun x y => x.toInt < y.toInt)
def execCmpiGe (k : BitVec 3) (a : BitVec 5) (i : BitVec 16) (s : State) : Res :=
  .next (s.immCmp k a (i.signExtend 64) 4 fun x y => y.toInt ≤ x.toInt)

def execMovhi (d : BitVec 5) (i : BitVec 16) (s : State) : Res :=
  .next ((s.wg d ((i ++ fld (s.rg d) 0 16).signExtend 64)).advance 4)
def execMovw (d : BitVec 5) (i : BitVec 16) (s : State) : Res := .next ((s.wg d (i.setWidth 64)).advance 4)

end Sys2Proof.Machine
end

