-- ==== Sys2Proof/Machine/Control.lean ====
section
/-! DEFINITION. Branches, calls, jumps, repeat frames and the control instructions (R85 to R95), with the events that end
their waits. -/
namespace Sys2Proof.Machine

/-- A relative target: bits 59:0 modulo 2^60 (R64, R85). -/
def branchTarget (pc : Dword) (disp : BitVec 22) : Dword := ptrAdd pc (BitVec.ofInt 60 (disp.toInt * 4))

/-- The instruction completes at a new pc; no frame holds a jump (R93). -/
def State.jump (s : State) (pc : Dword) : State :=
  s.modMe fun x => { x with pc := pc, hold := none, pfCount := 0, cappPos := none, elems := [] }

/-- The test of a branch (R40). -/
def State.branchTest (s : State) (k : BitVec 3) (t : BitVec 1) : Bool := fld (s.rk k) 0 1 == t

def execBc (k : BitVec 3) (t : BitVec 1) (d : BitVec 22) (s : State) : Res :=
  .next (if s.branchTest k t then s.jump (branchTarget s.me.pc d) else s.advance 4)

def execCall (k : BitVec 3) (t : BitVec 1) (d : BitVec 22) (s : State) : Res :=
  .next (if s.branchTest k t then (s.wg 31 (ptrAdd s.me.pc 4)).jump (branchTarget s.me.pc d) else s.advance 4)

def execNop (s : State) : Res := .next (s.advance 4)

/-- R87, with the link register written where `link` says so. -/
def State.jumpReg (s : State) (a : BitVec 5) (p : BitVec 3) (link : Bool) : State :=
  if !s.pred p then s.advance 4
  else
    let t := s.rg a
    if fldN t 0 2 != 0 then s.trap 0x04 t
    else (if link then s.wg 31 (ptrAdd s.me.pc 4) else s).jump t

def execJr (a : BitVec 5) (p : BitVec 3) (s : State) : Res := .next (s.jumpReg a p false)
def execCallr (a : BitVec 5) (p : BitVec 3) (s : State) : Res := .next (s.jumpReg a p true)

/-- R92, R94: the frame starts at the next word. -/
def execRepf (l : BitVec 4) (c : BitVec 6) (st : BitVec 3) (t : BitVec 2) (s : State) : Res :=
  .next (s.modMe fun x =>
    let y := x.done 4
    { y with frame := some {
        base := y.pc, len := l.toNat + 1, count := c.toNat + 1, stagger := st
        stride := BitVec.ofNat 5 (2 ^ t.toNat), pass := 0, idx := 0, buf := [] } })

/-! ## `ralign` (R91) -/

/-- The slots of a cluster with the number of a slot. -/
def Coord.alike (c : Coord) : List Coord := (List.range 8).map fun i => { c with core := BitVec.ofNat 3 i }

/-- The crew of a slot's task (R228, R235): the one that `c.crew` names, or for 0xFFFF the live one with the lowest index. -/
def State.crewOf (s : State) (c : Coord) : Option Crew :=
  let n := fldN (s.slot c).crew 48 16
  (s.launchOf c).bind fun l =>
    (l.crews.filter fun k => k.cluster == c.cluster && if n = 0xFFFF then k.live else k.index == n).foldl
      (fun (o : Option Crew) k => match o with
        | none => some k
        | some k' => if k.index < k'.index then some k else o) none

/-- The peers of a slot: live slots with its number on the other cores of its crew, of the same launch. -/
def State.peers (s : State) (c : Coord) : List Coord :=
  let x := s.slot c
  match s.crewOf c with
  | none => []
  | some k => c.alike.filter fun w =>
    let y := s.slot w
    k.cores.contains w.core && w.core != c.core && y.live && y.launch == x.launch && y.vf == x.vf

/-- The slot is held by `ralign` at the address `pc`. -/
def Slot.heldAt (x : Slot) (pc : Dword) : Bool :=
  x.pc == pc && match x.hold with | some (.ralign ..) => true | _ => false

/-- Every peer of the slot is held at its own hold address. -/
def State.alignedAll (s : State) (c : Coord) : Bool :=
  (s.peers c).all fun w => (s.slot w).heldAt (s.slot c).pc

/-- The slots that are released with a slot: itself, its peers and the slots whose peer it is, of those held at the same address
with every peer of theirs. -/
def State.inStep (s : State) (c : Coord) : List Coord :=
  c.alike.filter fun w =>
    (s.slot w).heldAt (s.slot c).pc && s.alignedAll w && (w == c || (s.peers c).contains w || (s.peers w).contains c)

/-- Cycles of its core until the spacing of R60 lets the slot issue. -/
def State.spacing (s : State) (c : Coord) : Nat :=
  match (s.slot c).lastIssue with
  | none => 0
  | some l => l + 8 - (s.core c).cycle

/-- The slots become eligible in the same cycle (R91): the spacing of the one that issued last holds for all of them. -/
def State.together (s : State) (l : List Coord) : State :=
  let k := l.foldl (fun m w => max m (s.spacing w)) 0
  l.foldl (fun s w =>
    s.modSlot w fun x => { x with lastIssue := if k = 0 then x.lastIssue else some ((s.core w).cycle + k - 8) }) s

/-- Releases slots jointly (R91). -/
def State.releaseAll (s : State) (l : List Coord) : State := (l.foldl (fun s w => s.complete w 4) s).together l

/-- The slot is held, and the slots whose peers are then all held release with one another at once. -/
def execRalign (n : BitVec 15) (s : State) : Res :=
  .next (
    if n = 0 then s.advance 4
    else
      let s := s.leave (.ralign n (s.core s.cur).cycle)
      s.releaseAll (s.inStep s.cur))

/-- R91: every peer that remains is held at the same word, or the slot's count of cycles has passed. -/
def execRalignRelease (s : State) : Res :=
  let c := s.arg.c
  .next (
    match (s.slot c).hold with
    | some (.ralign n since) =>
      if s.alignedAll c then s.releaseAll (s.inStep c)
      else if since + n.toNat ≤ (s.core c).cycle then s.complete c 4
      else s
    | _ => s)

/-! ## `exit` and `yield` (R89, R90) -/

/-- Step 1 of R89; the requests of the slot perform, and it retires by `SLOT_RETIRE`. -/
def execExit (s : State) : Res := .next ((s.leave .exiting).later .slotRetire (.at s.cur))

/-- Steps 2 and 3 of R89: every posted request has performed (log 15), and the slot retires with DONE. A slot with
requests at a peer waits. -/
def execSlotRetire (s : State) : Res :=
  let c := s.arg.c
  .next (
    if (s.slot c).hold = some .exiting then
      let s := s.drain c
      if s.outstanding c then s else s.retire c .done
    else s)

/-- The other slots of the core that are eligible in this cycle. -/
def State.eligibleOthers (s : State) (c : Coord) : BitVec 16 :=
  BitVec.ofNat 16 ((List.range 16).foldl (fun a i =>
    a + if i ≠ c.slot.toNat && s.mayIssue (c.at (BitVec.ofNat 4 i)) then 2 ^ i else 0) 0)

/-- R90: the slot leaves the rotation. -/
def execYield (s : State) : Res :=
  .next (s.leave (.yield (s.core s.cur).cycle (s.eligibleOthers s.cur)))

/-- R90: the return of a yield is due. -/
def State.yieldDue (s : State) (c : Coord) (since : Nat) (others : BitVec 16) : Bool :=
  since + 16 ≤ (s.core c).cycle
    || (List.range 16).all fun i =>
      !bit others i || match (s.slot (c.at (BitVec.ofNat 4 i))).lastIssue with | none => false | some l => since < l

def execYieldReturn (s : State) : Res :=
  let c := s.arg.c
  .next (
    match (s.slot c).hold with
    | some (.yield since others) => if s.yieldDue c since others then s.complete c 4 else s
    | _ => s)

/-- The cluster's own intervals, counted in the cycles of its core 0 (R234, R237): the shares of landing slots every 65,536
cycles, load-levelling every 4,096. -/
def clusterTimers (c : Coord) (cycle : Nat) : List (Instr × EvArg) :=
  if c.core ≠ 0 then []
  else
    (if cycle % 65536 = 0 then [(.apportionRecompute, .at c)] else [])
      ++ (if cycle % 4096 = 0 then [(.loadLevel, .at c)] else [])

/-- What is due on a core after one of its cycles. -/
def State.timers (s : State) (c : Coord) : List (Instr × EvArg) :=
  clusterTimers c (s.core c).cycle ++ c.slots.filterMap fun w =>
    match (s.slot w).hold with
    | some (.yield since others) => if s.yieldDue w since others then some (.yieldReturn, .at w) else none
    | some (.ralign n since) => if since + n.toNat ≤ (s.core w).cycle then some (.ralignRelease, .at w) else none
    | _ => none

end Sys2Proof.Machine
end

