-- ==== Sys2Proof/Machine/Waits.lean ====
section
/-! DEFINITION. Mailboxes (R185 to R189), waits on timelines, landing counters and lines (R208 to R212), arrivals at knots
(R215), and the sync word instructions (R216 to R222), with the events that end their waits. -/
namespace Sys2Proof.Machine

/-! ## Mailboxes -/

def Core.mbox (k : Core) (n : BitVec 3) : Mailbox := k.mb.get n.toFin

/-- A successful send is a release of sys scope; a failed one orders nothing. It never holds the slot (R186): while a peer or a
`wake` has to finish one of the slot's earlier accesses, the mailbox is taken at once and fills after that access. -/
def execMbsend (n : BitVec 3) (a : BitVec 5) (k : BitVec 3) (s : State) : Res :=
  .next (
    let mb := (s.core s.cur).mbox n
    if mb.full || mb.coming then (s.wk k 0).advance 4
    else
      let s := s.drain s.cur
      let later := s.outstanding s.cur
      let m : Mailbox := { value := s.rg a, full := !later, coming := later, slot := s.cur.slot, strand := s.me.strand }
      let s := (s.modCore s.cur fun c => { c with mb := c.mb.set n.toNat m }).wk k (BitVec.allOnes 64)
      (if later then s.sendLast (.mail n) else s).advance 4)

/-- `c.mbsrc` for a mailbox's sender (R188). -/
def Mailbox.source (m : Mailbox) : Dword := BitVec.ofNat 64 (m.strand.toNat * 2 ^ 32 + m.slot.toNat)

def execMbtake (d : BitVec 5) (n : BitVec 3) (k : BitVec 3) (s : State) : Res :=
  .next (
    let m := (s.core s.cur).mbox n
    if !m.full then (s.wk k 0).advance 4
    else
      let s := (s.wg d m.value).modMe fun x => { x with mbsrc := m.source }
      ((s.modCore s.cur fun c => { c with mb := c.mb.set n.toNat Mailbox.reset }).wk k (BitVec.allOnes 64)).advance 4)

/-! ## Timelines and landing counters -/

def execWaittl (n : BitVec 3) (a : BitVec 5) (s : State) : Res :=
  let v := s.rg a
  .next (if v.toNat ≤ (s.core s.cur).tl.get n.toFin then s.advance 4 else s.leave (.waittl n v))

/-- R209: the timeline has reached the number. -/
def execWaittlSatisfied (s : State) : Res :=
  let c := s.arg.c
  .next (
    match (s.slot c).hold with
    | some (.waittl n v) => if v.toNat ≤ (s.core c).tl.get n.toFin then s.complete c 4 else s
    | _ => s)

/-- The oldest waiter of counter `n`, if enough packets have landed (R211). -/
def Core.lcReady (k : Core) (n : Nat) : Option (Coord × Word) :=
  match k.lcWait.find? (·.1 == n) with
  | some (_, c, e) => if e.toNat ≤ (k.lc.getD n 0).toNat then some (c, e) else none
  | none => none

/-- Serves the oldest waiter: the subtraction and its return. -/
def State.serveLc (s : State) (c : Coord) (n : Nat) : State :=
  match (s.core c).lcReady n with
  | none => s
  | some (w, e) =>
    let s := s.modCore c fun k =>
      { k with lc := k.lc.setIfInBounds n (k.lc.getD n 0 - e), lcWait := k.lcWait.filter fun x => x.2.1 != w }
    let s := s.complete w 4
    if ((s.core c).lcReady n).isSome then s.later .waitlcServe (.num c n) else s

def execWaitlc (n : BitVec 4) (a : BitVec 5) (s : State) : Res :=
  let e : Word := fld (s.rg a) 0 32
  .next (
    if e = 0 then s.advance 4
    else
      ((s.modCore s.cur fun k => { k with lcWait := k.lcWait ++ [(n.toNat, s.cur, e)] }).leave (.waitlc n e)).serveLc
        s.cur n.toNat)

def execWaitlcServe (s : State) : Res := .next (s.serveLc s.arg.c s.arg.n)

/-- A packet has landed (R210). -/
def State.landed (s : State) (c : Coord) (n : Nat) : State :=
  let s := s.modCore c fun k =>
    { k with lc := k.lc.setIfInBounds n (BitVec.ofNat 32 (min ((k.lc.getD n 0).toNat + 1) (2 ^ 32 - 1))) }
  if ((s.core c).lcReady n).isSome then s.later .waitlcServe (.num c n) else s

/-! ## `waitm` (R212) -/

/-- The watch is set or moved, and the instruction returns. -/
def State.watchReturn (s : State) (c : Coord) (line : Nat) : State :=
  (s.modSlot c fun x => { x with watch := some (line, s.mem.vers.get line 0) }).complete c 4

/-- The line at a peer's VA, as a number above every line of this device. -/
def peerLine (dev : BitVec 9) (va : BitVec 48) : Nat := 2 ^ 60 + dev.toNat * 2 ^ 41 + va.toNat / 128

/-- A line of this device that has not changed since the watch's instant holds the slot; on another die, once the look has reached the line's
home (R249). A watched line at a peer holds it until the peer answers (R293). -/
def execWaitm (a : BitVec 5) (s : State) : Res :=
  let p := s.rg a
  .next (
    if s.kindOf p = 6 then s.trap 0x06 p
    else
      s.withPlace p 1 rightR accR fun pl =>
        match pl.peer with
        | some (dev, va) =>
          if (s.me.watch.map (·.1)) = some (peerLine dev va) then s.askPeer (.waitm a) (dev, va) p pl.policy (.read 1)
          else s.watchReturn s.cur (peerLine dev va)
        | none =>
          s.atHome pl fun s =>
            let line := lineOf (pl.addrs.headD 0)
            if s.me.watch = some (line, s.mem.vers.get line 0) then s.leave .waitm else s.watchReturn s.cur line)

def execWaitmReturn (s : State) : Res :=
  let c := s.arg.c
  .next (
    match (s.slot c).hold, (s.slot c).watch with
    | some .waitm, some (line, _) => s.watchReturn c line
    | _, _ => s)

/-! ## Knots (R214, R215) -/

/-- A knot of a die. -/
def State.knot (s : State) (d : BitVec 3) (n : Nat) : Knot := (s.die d).knots.get n Knot.reset
def State.setKnot (s : State) (d : BitVec 3) (n : Nat) (k : Knot) : State :=
  s.modDie d fun x => { x with knots := x.knots.set n k }

def Knot.need (k : Knot) : Nat := fldN k.word 0 13
/-- R213: en, and a need from 1 to 4,096. -/
def Knot.enabled (k : Knot) : Bool := bit k.word 63 && 1 ≤ k.need && k.need ≤ 4096

/-- Device knots are 32 to 39. -/
def deviceKnot (n : Nat) : Bool := 32 ≤ n

/-- Membership (R214). -/
def State.knotMember (s : State) (c : Coord) (n : Nat) : Bool :=
  let k := s.knot c.die n
  k.enabled && fldN k.word 54 9 == (s.slot c).vf && bit (k.rows.get c.cluster.toNat 0) c.core.toNat
    && (!deviceKnot n || bit (fld k.word 40 8 : Byte) c.die.toNat)

/-- The phase that the slot arrived at is still open: its arrival is on its way, or the parity is still the one at which it was
counted. -/
def State.phaseOpen (s : State) (c : Coord) (n : Nat) : Bool :=
  let x := s.slot c
  bit x.knotArrived n && (bit x.knotFly n || (s.knot c.die n).parity == bit x.knotA n)

def setBit {w : Nat} (x : BitVec w) (i : Nat) (b : Bool) : BitVec w :=
  if b then x ||| (1#w <<< i) else x &&& ~~~(1#w <<< i)

/-- The scope of the release of `karr` (R215): die, and device for a device knot. -/
def knotScope (n : Nat) : Nat := if deviceKnot n then 3 else 2

/-- `karr`, then `k`. The arrival is sent after the slot's earlier accesses whose homes are in its scope have performed (R300): while
one of them waits for a `wake` or goes through the peer path, the slot waits, and the instruction reissues. a[n] takes P(n) when the
arrival is counted. -/
def State.arrive (s : State) (n : BitVec 6) (k : State → State) : State :=
  if !s.knotMember s.cur n.toNat then s.trap 0x06 (n.setWidth 64)
  else if s.phaseOpen s.cur n.toNat then s.leave (.knot n false)
  else
    let s := s.drain s.cur
    if s.fencePending 3 (knotScope n.toNat) then s.leave .posted
    else
      let kn := s.knot s.cur.die n.toNat
      let s := s.setKnot s.cur.die n.toNat { kn with inFlight := kn.inFlight ++ [s.cur] }
      let s := s.modMe fun x =>
        { x with knotArrived := setBit x.knotArrived n.toNat true, knotFly := setBit x.knotFly n.toNat true }
      k (s.later .knotArrival (.num s.cur n.toNat))

/-- The slot no longer has an arrival outstanding, and the instruction completes. -/
def State.knotDone (s : State) (c : Coord) (n : Nat) : State :=
  (s.modSlot c fun x => { x with knotArrived := setBit x.knotArrived n false }).complete c 4

/-- `kwait` at the end of an instruction. -/
def State.knotWait (s : State) (n : BitVec 6) : State :=
  if !bit s.me.knotArrived n.toNat then s.advance 4
  else if s.phaseOpen s.cur n.toNat then s.leave (.knot n true)
  else s.knotDone s.cur n.toNat

def execKarr (n : BitVec 6) (s : State) : Res := .next (s.arrive n fun s => s.advance 4)
def execKwait (n : BitVec 6) (s : State) : Res := .next (s.knotWait n)
def execKarrw (n : BitVec 6) (s : State) : Res := .next (s.arrive n fun s => s.knotWait n)

/-- A waiting member returns once its phase is over (R215). -/
def execKwaitRelease (s : State) : Res :=
  let c := s.arg.c
  .next (
    match (s.slot c).hold with
    | some (.knot n last) =>
      if s.phaseOpen c n.toNat then s
      else if last then s.knotDone c n.toNat
      else s.modSlot c fun x => { x with hold := none }
    | _ => s)

/-! ## Sync words (R217, R218) -/

/-- A posted operation on a sync word or join record. Under policy 11 the slot waits: at this device the operation performs at
once and its refusal traps, at a peer the answer to `i` ends the wait (R137, R145). -/
def State.postOrWait (s : State) (i : Instr) (p : Dword) (pl : Place) (op : PacketOp) : State :=
  if pl.waited then
    match pl.peer with
    | some place => s.askPeer i place p pl.policy (.packet op)
    | none =>
      s.orderedHere fun s =>
        s.atHomeAs (pl.xcl || op matches .arm) pl fun s =>
          match firstRefused s.mem s.cur.clusterKey pl.addrs with
          | some (cause, _) => s.trap cause p
          | none =>
            let a := pl.addrs.headD 0
            (State.effect { s with mem := s.cohStore s.cur.clusterKey pl.policy pl.addrs }
              (s.packet s.cur p (.here a) op pl) a).advance 4
  else (s.post p pl fun _ => op).advance 4

/-- The checks of R217 for a record of `n` bytes. Beside the kinds that R217 names as allowed, the xcluster kind is let through, as R217
names only the host kind with a cause: the model's choice (log 94). -/
def State.syncOp (s : State) (i : Instr) (p : Dword) (n : Nat) (op : PacketOp) : State :=
  s.aligned p n <|
    if s.kindOf p = 6 then s.trap 0x06 p else s.withPlace p n 13 accA fun pl => s.postOrWait i p pl op

def execSwexp (a b : BitVec 5) (s : State) : Res :=
  let p := s.rg a
  let x := s.rg b
  .next (
    if bit x 32 then
      s.aligned p 128 <|
        if s.kindOf p = 4 || s.kindOf p = 7 then s.syncOp (.swexp a b) p 128 .arm else s.trap 0x06 p
    else s.syncOp (.swexp a b) p 16 (.swexp (fld x 0 32)))

def execSwadd (a b : BitVec 5) (s : State) : Res := .next (s.syncOp (.swadd a b) (s.rg a) 16 (.swadd (fld (s.rg b) 0 32)))

def execJadd (c a b : BitVec 5) (s : State) : Res :=
  .next (s.syncOp (.jadd c a b) (s.rg a) 128 (.jadd (s.rg b) (fld (s.rg c) 0 4) s.me.strand))

/-- R218: the generation of the word at `a` has reached `g`. -/
def State.genReached (s : State) (a : Nat) (g : BitVec 16) : Bool :=
  (BitVec.ofNat 16 (s.mem.readNat (a + 8) 2) - g).toNat < 0x8000

def execSwwait (a b : BitVec 5) (s : State) : Res :=
  let p := s.rg a
  let g : BitVec 16 := fld (s.rg b) 0 16
  .next (
    s.aligned p 16 <|
      if s.kindOf p = 6 then s.trap 0x06 p
      else
        s.withPlace p 16 rightR accR fun pl =>
          match pl.peer with
          | some place => s.askPeer (.swwait a b) place p pl.policy (.read 16)
          | none =>
            s.settleThen pl fun s =>
              s.atHome pl fun s =>
                match firstRefused s.mem s.cur.clusterKey pl.addrs with
                | some (cause, _) => s.trap cause p
                | none =>
                  let w := pl.addrs.headD 0
                  if s.genReached w g then s.advance 4 else s.leave (.swwait w g))

def execSwwaitReturn (s : State) : Res :=
  let c := s.arg.c
  .next (
    match (s.slot c).hold with
    | some (.swwait a g) => if s.genReached a g then s.complete c 4 else s
    | _ => s)

end Sys2Proof.Machine
end

