-- ==== Sys2Proof/Machine/Copy.lean ====
section
/-! DEFINITION. The copy engine: `capp` and `cadv` (R191 to R196), packets (R197 to R203), completion (R204 to R207), and the
movement firmware (R26; log 13). -/
namespace Sys2Proof.Machine

/-! ## Engine accesses -/

/-- Why an engine's access does not go on. -/
inductive EngStop where
  /-- A page fault: host kind and VA. -/
  | page (host : Bool) (va : BitVec 48)
  /-- The operation ends with a status (R205). -/
  | status (code : BitVec 16)
  deriving DecidableEq, Repr

/-- A stopped resolution as an engine sees it. -/
def Stopped.engine : Stopped → EngStop
  | .trap cause _ => .status (cause.setWidth 16)
  | .miss _ => .status 0x0006
  | .page host va => .page host va

/-- The pointer `off` bytes further on. -/
def RPtr.add (r : RPtr) (off : Nat) : RPtr := { r with p := ptrAdd r.p (BitVec.ofNat 60 off) }

/-- The place of `n` bytes at an engine's pointer. -/
def State.engPlace (s : State) (c : Coord) (vf : Nat) (op : Option OpKey) (r : RPtr) (n : Nat) (rights : BitVec 4) :
    Except EngStop Place :=
  match s.enginePlace c vf op r n rights with
  | .error e => .error e.engine
  | .ok pl => .ok pl

/-- The places of single bytes at offsets from a pointer. -/
def State.engBytes (s : State) (c : Coord) (vf : Nat) (op : Option OpKey) (r : RPtr) (offs : List Nat)
    (rights : BitVec 4) : Except EngStop Place :=
  match collect (fun o => s.engPlace c vf op (r.add o) 1 rights) offs with
  | .error e => .error e
  | .ok l => .ok (Place.join l)

/-- A write of an engine at `agent` to a resolved place: whether a peer's answer has to come before it has performed (R306), and from
which device. One that a home refuses, that is annulled on its way, or whose peer is lost is dropped (R172, R204). -/
def State.engineSend (s : State) (agent : Coord) (vf : Nat) (strand : BitVec 24) (pl : Place) (op : List Nat → PacketOp) :
    State × Option (BitVec 9) :=
  match pl.peer with
  | some (dev, va) =>
    if s.peerLost dev then (s, none)
    else ({ s with out := s.out ++ [.peerWrite (s.outHdr agent.die dev strand false) agent va pl.policy (op [])] }, some dev)
  | none =>
    let (s, ok) := s.crossAll agent strand vf pl.xcl pl.addrs
    if !ok || (firstRefused s.mem agent.clusterKey pl.addrs).isSome then (s, none)
    else
      let p : Packet := { s.packet agent 0 (.here (pl.addrs.headD 0)) (op pl.addrs) pl with vf := vf, strand := strand }
      (State.effect { s with mem := s.cohStore agent.clusterKey pl.policy pl.addrs } p (pl.addrs.headD 0), none)

/-- A write of the engine at `agent`, with a pointer resolved at `c`; dropped when it faults (R172, R204). -/
def State.engineWrite (s : State) (agent c : Coord) (vf : Nat) (strand : BitVec 24) (r : RPtr) (align : Nat)
    (bytes : List Byte) : State × Option (BitVec 9) :=
  if r.p.toNat % align ≠ 0 then (s, none)
  else
    match s.engPlace c vf none r bytes.length rightW with
    | .error _ => (s, none)
    | .ok pl => s.engineSend agent vf strand pl fun addrs => .store (storeBytes addrs bytes) 0

/-- An engine adds to a sync word's count and ORs flags into it (R172, R204); dropped when it faults. -/
def State.engineSync (s : State) (agent c : Coord) (vf : Nat) (strand : BitVec 24) (r : RPtr) (n : Nat)
    (flags : BitVec 16) : State × Option (BitVec 9) :=
  if r.p.toNat % 16 ≠ 0 || sgKind r.seg = 6 then (s, none)
  else
    match s.engPlace c vf none r 16 5 with
    | .error _ => (s, none)
    | .ok pl => s.engineSend agent vf strand pl fun _ => .arrival (BitVec.ofNat 32 n) flags

/-! ## Chain entries (R191, R192) -/

def CopyEntry.op (e : CopyEntry) : Nat := fldN e.ctrl 0 8
def CopyEntry.lc (e : CopyEntry) : Nat := fldN e.ctrl 8 4
def CopyEntry.land (e : CopyEntry) : Bool := bit e.ctrl 12
def CopyEntry.sw (e : CopyEntry) : Bool := bit e.ctrl 13
def CopyEntry.serial (e : CopyEntry) : Bool := bit e.ctrl 14
def CopyEntry.gate (e : CopyEntry) : Bool := bit e.ctrl 15
def CopyEntry.sid (e : CopyEntry) : Nat := fldN e.ctrl 32 32
def CopyEntry.rows (e : CopyEntry) : Nat := fldN e.shape 32 32
def CopyEntry.rowBytes (e : CopyEntry) : Nat := fldN e.shape 0 32
/-- Destination and source row strides. -/
def CopyEntry.ds (e : CopyEntry) : Nat := fldN e.strides 32 32
def CopyEntry.ss (e : CopyEntry) : Nat := fldN e.strides 0 32
/-- Fields of stack-layout's op-specific dword (R200). -/
def CopyEntry.elemBytes (e : CopyEntry) : Nat := fldN e.opf 0 8
def CopyEntry.kp (e : CopyEntry) : Nat := fldN e.opf 8 16
def CopyEntry.np (e : CopyEntry) : Nat := fldN e.opf 24 16
/-- Elements and scales of a row for `qpack` (R201). -/
def CopyEntry.qk (e : CopyEntry) : Nat := e.rowBytes / 4
def CopyEntry.qs (e : CopyEntry) : Nat := (e.qk + 31) / 32

/-- selacc copies only to a destination that is not 0 (R202). -/
def CopyEntry.copies (e : CopyEntry) : Bool := e.op != 5 || e.dst.p != 0

/-- The bytes that an entry counts on its sync word (R204 step 5). -/
def CopyEntry.byteCount (e : CopyEntry) : Nat :=
  match e.op with
  | 3 => e.kp * e.np * e.elemBytes
  | 4 => e.rows * (e.qk + e.qs)
  | 6 => 1
  | _ => e.rows * e.rowBytes

/-! ## Checks at append (R196) -/

/-- Vmax of R201: the largest finite positive value among entries 0 to 127. -/
def vmax (t : DTable) : Option Fp :=
  (List.range 128).foldl (fun m c =>
    match t.value c with
    | .fin false a x => if a = 0 then m else
        match m with
        | some b => if Fp.lt b (.fin false a x) then some (.fin false a x) else m
        | none => some (.fin false a x)
    | _ => m) none

/-- Step 1. -/
def CopyEntry.fieldsOk (e : CopyEntry) : Bool :=
  let op := e.op
  let dk := sgKind e.dst.seg
  (1 ≤ op && op ≤ 6)
    && (op == 6 || (e.rows != 0 && e.rowBytes != 0))
    && (!e.land || ((op == 1 || op == 2 || op == 5) && (dk == 1 || dk == 3)))
    && !(e.sw && op == 5)
    && (match op with
        | 1 => e.opf == 0
        | 3 =>
          let el := e.elemBytes
          (el == 1 || el == 2 || el == 4) && fldN e.opf 40 24 == 0
            && e.kp % 16 == 0 && 16 ≤ e.kp && e.rows ≤ e.kp && e.np % 16 == 0 && 16 ≤ e.np
            && e.rowBytes % el == 0 && e.rowBytes / el ≤ e.np && dk == 7
        | 4 =>
          fldN e.opf 1 63 == 0 && e.rowBytes % 4 == 0 && e.ss % 4 == 0 && e.qk ≤ e.ds && (vmax e.table).isSome
        | 5 =>
          1 ≤ fldN e.opf 0 5 && fldN e.opf 0 5 ≤ 16 && fldN e.opf 5 27 == 0 && e.rowBytes % 4 == 0 && e.stamp.p != 0
        | 6 => e.src.p == 0 && e.dst.p == 0 && e.shape == 0 && e.strides == 0 && e.opf == 0
        | _ => true)

/-- Step 2. -/
def CopyEntry.alignedOk (e : CopyEntry) : Bool :=
  e.stamp.p.toNat % (if e.op = 5 then 64 else if e.sw then 16 else 8) = 0 && (e.op != 3 || e.dst.p.toNat % 64 = 0)

/-- `seg_check` of `rows` rows of `n` bytes at a stride, and the bounds of R129; 0 where it passes. Rows of xcluster kind may run
through the memories of several cores, since each packet is an access of its own. -/
def State.extent (s : State) (c : Coord) (vf : Nat) (r : RPtr) (rows n stride : Nat) (rights : BitVec 4) : BitVec 16 :=
  let off : BitVec 60 := fld r.p 0 60
  let code (x : Except Stopped Unit) : BitVec 16 :=
    match x with | .error (.trap cause _) => cause.setWidth 16 | .error _ => 0x0006 | .ok _ => 0
  let total := (rows - 1) * stride + n
  let last : BitVec 60 := off + BitVec.ofNat 60 ((rows - 1) * stride)
  let ea (o : BitVec 60) (n : Nat) : Except Stopped Unit :=
    match s.ea c r.seg o n r.p with | .ok _ => .ok () | .error e => .error e
  let bounds := if sgKind r.seg = 3 then [code (ea off 1), code (ea (last + BitVec.ofNat 60 (n - 1)) 1)]
    else [code (ea off n), code (ea last n)]
  let checks := [code (s.segCheck vf r.seg off total rights r.p), code (s.segCheck vf r.seg last n rights r.p)] ++ bounds
  (checks.find? (· != 0)).getD 0

/-- An extent of an entry (R196): pointer, rows, bytes of a row, stride and rights. -/
structure CopyExtent where
  r : RPtr
  rows : Nat
  n : Nat
  stride : Nat
  rights : BitVec 4
  deriving DecidableEq, Repr

/-- The source and destination extents of an entry. R196 says only that the destination's is formed in the same way: for `stack-layout` the
model takes the whole padded block that R200 writes, and for `qpack` one run from the first row of R201 to the end of the scales, with the gaps
between rows (log 105). -/
def CopyEntry.extents (e : CopyEntry) : List CopyExtent :=
  let op := e.op
  (if op = 2 || op = 6 then [] else [{ r := e.src, rows := e.rows, n := e.rowBytes, stride := e.ss, rights := rightR }])
    ++ if op = 6 || !e.copies then []
       else if op = 3 then [{ r := e.dst, rows := 1, n := e.kp * e.np * e.elemBytes, stride := 0, rights := rightW }]
       else if op = 4 then [{ r := e.dst, rows := 1, n := e.rows * e.ds + e.rows * e.qs, stride := 0, rights := rightW }]
       else [{ r := e.dst, rows := e.rows, n := e.rowBytes, stride := e.ds, rights := rightW }]

/-- Step 3: source, destination, stamp or sync word. -/
def State.entryExtents (s : State) (c : Coord) (e : CopyEntry) : BitVec 16 :=
  let stamp :=
    if e.stamp.p = 0 then 0
    else if e.sw then (if sgKind e.stamp.seg = 6 then 0x0006 else s.extent c e.vf e.stamp 1 16 0 5)
    else s.extent c e.vf e.stamp 1 (if e.op = 5 then 0x98 else 8) 0 rightW
  ((e.extents.map (fun x => s.extent c e.vf x.r x.rows x.n x.stride x.rights) ++ [stamp]).find? (· != 0)).getD 0

/-- A page that an extent lies in has another policy than its segment, as far as it is mapped (R137, R145 step 5). -/
def State.policyBad (s : State) (c : Coord) (vf : Nat) (x : CopyExtent) : Bool :=
  let kind := sgKind x.r.seg
  (kind == 4 || kind == 6) && (List.range x.rows).any fun i =>
    match s.ea c x.r.seg (fld x.r.p 0 60 + BitVec.ofNat 60 (i * x.stride)) x.n x.r.p with
    | .ok (.paged host va) =>
      (pieces 1024 x.n va.toNat x.n).any fun p =>
        match s.leafFor c vf none host (BitVec.ofNat 48 p.1) x.rights with
        | some leaf => (sgPolicy x.r.seg == 3) != (ptePolicy leaf == 3)
        | none => false
    | _ => false

/-- The failure of `ea` at `n` bytes, as a status; 0 where it passes. -/
def State.eaStatus (s : State) (c : Coord) (r : RPtr) (off n : Nat) : BitVec 16 :=
  match s.ea c r.seg (fld r.p 0 60 + BitVec.ofNat 60 off) n r.p with
  | .error (.trap cause _) => cause.setWidth 16
  | _ => 0

/-- The first byte of an extent's rows that lies outside its space or in a bank that is no scratch (R129, R131), looked for at the ends
of 256-byte pieces: no bank or memory of a core is smaller. -/
def State.spaceStatus (s : State) (c : Coord) (x : CopyExtent) : BitVec 16 :=
  let kind := sgKind x.r.seg
  if kind == 4 || kind == 5 || kind == 6 then 0
  else
    (((List.range x.rows).flatMap fun i => (pieces 256 x.n (i * x.stride) x.n).flatMap fun p =>
      [s.eaStatus c x.r p.1 1, s.eaStatus c x.r (p.1 + p.2 - 1) 1]).find? (· != 0)).getD 0

/-- The status that the checks fix; 0 where they pass. -/
def State.entryStatus (s : State) (c : Coord) (e : CopyEntry) : BitVec 16 :=
  if !e.fieldsOk then 0x0020
  else if !e.alignedOk then 0x0004
  else s.entryExtents c e

/-! ## `capp` and `cadv` (R193, R194) -/

def Core.ctx (k : Core) (n : Nat) : CopyCtx := k.copy.getD n { entries := [], advanced := 0 }
def Core.setCtx (k : Core) (n : Nat) (x : CopyCtx) : Core := { k with copy := k.copy.setIfInBounds n x }
/-- Entries in flight on a core (R190). -/
def Core.inFlight (k : Core) : Nat := (k.copy.toList.map (·.entries.length)).foldl (· + ·) 0

/-- The origin of `capp`: the slot that `c.mbsrc` names (R188). -/
def State.origin (s : State) : Coord := s.cur.at (fld s.me.mbsrc 0 4)

/-- Appends the entry that `bytes` hold; every pointer is resolved against the origin's registers (R191). -/
def State.append (s : State) (ctx : Nat) (p : Dword) (bytes : List Byte) : State :=
  let org := s.origin
  let o := s.slot org
  let k := s.core s.cur
  let rp (q : Dword) : RPtr := { p := q, seg := o.segOf q }
  let d (i : Nat) : Dword := leDword ((bytes.drop (8 * i)).take 8)
  let (s, num) := s.tlNext s.cur ctx
  let tabB := bit (d 7) 0
  let e : CopyEntry := {
    num := num, entry := rp p, ctrl := d 0, src := rp (d 2), dst := rp (d 3), stamp := rp (d 6), shape := d 4
    strides := d 5, opf := d 7, strand := fld s.me.mbsrc 32 24, vf := o.vf, origin := org.slot, status := 0
    truncated := false, phase := .queued, opened := false, row := 0, col := 0, flags := 0
    table := if tabB then k.tabB else k.tabA, tnan := if tabB then fld o.tnan 8 8 else fld o.tnan 0 8
    mx := 0xFF800000, sm := 0, cands := [], skipped := 0, pf := 0, held := false, asked := none, got := [], data := none
    stage := 0 }
  let e := { e with status := s.entryStatus s.cur e }
  let s := s.modCore s.cur fun k => k.setCtx ctx { k.ctx ctx with entries := (k.ctx ctx).entries ++ [e] }
  -- an entry of a strand that has ended completes, advanced or not (R207)
  if (s.die s.cur.die).strandLive e.strand then s else s.later .chainEntryStart (.num s.cur ctx)

/-- The chain is longer than 64 entries: the last one appended completes with status 0x0026. -/
def State.truncate (s : State) (ctx : Nat) : State :=
  s.modCore s.cur fun k =>
    let x := k.ctx ctx
    k.setCtx ctx { x with entries :=
      match x.entries.reverse with
      | [] => []
      | e :: r => ({ e with truncated := true } :: r).reverse }

/-- `cadv` on a context of a core. -/
def State.advanceCtx (s : State) (c : Coord) (ctx : Nat) : State :=
  (s.modCore c fun k => k.setCtx ctx { k.ctx ctx with advanced := (k.nextNum.getD ctx 1) - 1 }).later
    .chainEntryStart (.num c ctx)

/-- What a trap of `capp` does: the firmware advances the context and goes on to the next mailbox value. -/
def State.cappTrap (s : State) (fw : Bool) (ctx : Nat) (cause : BitVec 8) (p : Dword) : State :=
  if fw then (s.modMe fun x => { x with hold := none, pfCount := 0, cappPos := none }).advanceCtx s.cur ctx
  else s.trap cause p

/-- The end of `capp`; the firmware's `cadv` follows. -/
def State.cappDone (s : State) (fw : Bool) (ctx : Nat) : State :=
  if fw then (s.modMe fun x => { x with hold := none, pfCount := 0, cappPos := none }).advanceCtx s.cur ctx
  else s.advance 4

/-- `capp` from entry `64 - fuel` on, at the pointer `p`. A hold keeps the position reached. -/
def State.cappGo (s : State) (i : Instr) (fw : Bool) (ctx : Nat) : Nat → Dword → State
  | 0, p => (if p = 0 then s else s.truncate ctx).cappDone fw ctx
  | fuel + 1, p =>
    if p = 0 then s.cappDone fw ctx
    else
      let org := s.slot s.origin
      let r : RPtr := { p := p, seg := org.segOf p }
      let s := s.modMe fun x => { x with cappPos := some (63 - fuel, p) }
      if p.toNat % 64 ≠ 0 then s.cappTrap fw ctx 0x04 p
      else
        match s.extent s.cur org.vf r 1 64 0 12 with
        | 0 =>
          match s.enginePlace s.cur org.vf none r 64 12 with
          | .error (.page host va) =>
            if fw && (!s.fqOn s.me.vf || 2 ≤ s.me.pfCount) then s.cappTrap fw ctx 0x11 p
            else s.pageFault s.cur host va accRW false p
          | .error (.trap cause _) => s.cappTrap fw ctx cause p
          | .error (.miss _) => s.cappTrap fw ctx 0x06 p
          | .ok pl =>
            if 1024 ≤ (s.core s.cur).inFlight then s.leave .copyFull
            else
              match pl.peer with
              | some place => if s.peerLost place.1 then s.cappTrap fw ctx 0x0B p else s.askPeer i place p pl.policy (.read 64)
              | none =>
                match s.crossAll s.cur s.me.strand s.me.vf pl.xcl pl.addrs with
                | (s, false) => s.leave .dropped
                | (s, true) =>
                  match firstRefused s.mem s.cur.clusterKey pl.addrs with
                  | some (cause, _) => s.cappTrap fw ctx cause p
                  | none =>
                    let bytes := s.mem.bytesAt pl.addrs
                    (s.append ctx p bytes).cappGo i fw ctx fuel (leDword ((bytes.drop 8).take 8))
        | code => s.cappTrap fw ctx (code.setWidth 8) p

/-- `capp` with the position that a hold kept. -/
def State.cappRun (s : State) (i : Instr) (fw : Bool) (ctx : Nat) (p : Dword) : State :=
  match s.me.cappPos with
  | some (n, q) => s.cappGo i fw ctx (64 - n) q
  | none => s.cappGo i fw ctx 64 p

/-- R193: only slot 15 may append; a release toward the engine. -/
def execCapp (n : BitVec 2) (a : BitVec 5) (s : State) : Res :=
  .next (
    if s.cur.slot ≠ 15 then s.trap 0x02 (instrWord (.capp n a))
    else s.releaseThen fun s => s.cappRun (.capp n a) false n.toNat (s.rg a))

def execCadv (n : BitVec 2) (s : State) : Res :=
  .next (
    if s.cur.slot ≠ 15 then s.trap 0x02 (instrWord (.cadv n))
    else (s.advanceCtx s.cur n.toNat).advance 4)

/-! ## The movement firmware (R26) -/


/-- One turn of the firmware: it goes on with a chain that a hold left unfinished, or takes the lowest full mailbox,
appends its chain to the context and advances it (log 13). -/
def State.firmware (s : State) : State :=
  match s.me.cappPos with
  | some (_, p) => s.cappRun .nop true (fldN (s.rg 1) 0 2) p
  | none =>
    match (s.core s.cur).fwWork with
    | none => s
    | some n =>
      let m := (s.core s.cur).mb.getD n Mailbox.reset
      let s := s.modCore s.cur fun k => { k with mb := k.mb.setIfInBounds n Mailbox.reset }
      let s := s.modMe fun x => { (x.wg 1 (BitVec.ofNat 64 n)) with mbsrc := m.source, vf := (s.slot (s.cur.at m.slot)).vf }
      s.cappRun .nop true n m.value

/-! ## Packets (R197 to R202) -/

/-- What the next packet of an entry reads and writes: source bytes by their offset from the source pointer, and `n`
bytes at an offset from the destination pointer. -/
structure CopyPkt where
  srcs : List Nat
  dst : Option Nat
  n : Nat
  deriving DecidableEq, Repr

def CopyEntry.rowCount (e : CopyEntry) : Nat := if e.op = 3 then 1 else e.rows
def CopyEntry.rowLen (e : CopyEntry) : Nat :=
  match e.op with
  | 3 => e.kp * e.np * e.elemBytes
  | 4 => e.qk + e.qs
  | _ => e.rowBytes

/-- The destination offset of byte `col` of row `row`, and how many bytes of the row go on from there without a break. -/
def CopyEntry.dstAt (e : CopyEntry) : Nat × Nat :=
  if e.op = 3 then (e.col, e.rowLen - e.col)
  else if e.op = 4 then
    if e.col < e.qk then (e.row * e.ds + e.col, e.qk - e.col)
    else (e.rows * e.ds + e.row * e.qs + (e.col - e.qk), e.rowLen - e.col)
  else (e.row * e.ds + e.col, e.rowBytes - e.col)

/-- The source element of destination byte `x` of stack-layout (R200); none for padding. -/
def CopyEntry.stackSrc (e : CopyEntry) (x : Nat) : Option Nat :=
  let el := e.elemBytes
  let unit := x / (16 * el)
  let k := unit % e.kp
  let n := unit / e.kp * 16 + x / el % 16
  if k < e.rows && n < e.rowBytes / el then some (k * e.ss + n * el + x % el) else none

/-- Elements of qpack's row that decide bytes `col` to `col + n - 1`: first and count, in whole blocks. Every packet reads the blocks that it
takes part in (R195), so that a block is read again for its scale byte, and where two packets share its codes (log 118). -/
def CopyEntry.qspan (e : CopyEntry) (n : Nat) : Nat × Nat :=
  let (b0, b1) := if e.col < e.qk then (e.col / 32, (e.col + n - 1) / 32) else (e.col - e.qk, e.col - e.qk + n - 1)
  (32 * b0, min (32 * (b1 + 1)) e.qk - 32 * b0)

/-- The next packet (R197). -/
def CopyEntry.packet (e : CopyEntry) : CopyPkt :=
  let (off, room) := e.dstAt
  let base := if e.copies then fldN e.dst.p 0 60 + off else e.col
  let n := min room (256 - base % 256)
  let row := e.row * e.ss
  let span (lo n : Nat) : List Nat := (List.range n).map fun i => row + lo + i
  let srcs :=
    match e.op with
    | 1 => span e.col n
    | 3 => (List.range n).filterMap fun i => e.stackSrc (e.col + i)
    | 4 => let (x, c) := e.qspan n; span (4 * x) (4 * c)
    | 5 =>
      let q0 := (e.col + 3) / 4
      let q1 := (e.col + n + 3) / 4
      span e.col n ++ span (4 * q0) (4 * (q1 - q0))
    | _ => []
  { srcs := srcs, dst := if e.copies && e.op != 6 then some off else none, n := n }

/-- The entry with the packet behind it. -/
def CopyEntry.past (e : CopyEntry) (pk : CopyPkt) : CopyEntry :=
  if e.col + pk.n < e.rowLen then { e with col := e.col + pk.n }
  else if e.row + 1 < e.rowCount then { e with row := e.row + 1, col := 0 }
  else { e with phase := .moved }

/-- The packets from where the entry stands, at most `fuel` of them. -/
def CopyEntry.packets (e : CopyEntry) : Nat → List CopyPkt
  | 0 => []
  | fuel + 1 => if e.phase == .moved then [] else e.packet :: (e.past e.packet).packets fuel

/-- The first packet of the entry whose destination `ea` refuses (R129), as one of xcluster kind that straddles two cores. -/
def State.packetsStatus (s : State) (c : Coord) (e : CopyEntry) : BitVec 16 :=
  let kind := sgKind e.dst.seg
  if !e.copies || e.op = 6 || kind == 4 || kind == 5 || kind == 6 then 0
  else
    (((e.packets (e.rowCount * e.rowLen)).map fun pk =>
      match pk.dst with | some off => s.eaStatus c e.dst off pk.n | none => 0).find? (· != 0)).getD 0

/-- The status that an entry has when it starts (R205): that of its checks, or 0x0005 or 0x0006 for a packet that `ea` or a page's
policy will refuse, so that nothing of it moves. What only changes while it runs ends it where it stands (log 90). -/
def State.startStatus (s : State) (c : Coord) (e : CopyEntry) : BitVec 16 :=
  if e.status ≠ 0 then e.status
  else
    match ((e.extents.map (s.spaceStatus c) ++ [s.packetsStatus c e]).find? (· != 0)) with
    | some st => st
    | none => if e.extents.any (s.policyBad c e.vf) then 0x0006 else 0

/-- The FP32 encodings of a byte list. -/
def wordsOf : Nat → List Byte → List Nat
  | 0, _ => []
  | n + 1, l => leNat (l.take 4) :: wordsOf n (l.drop 4)

/-- The scale byte and codes of a qpack block (R201). -/
def CopyEntry.qblock (e : CopyEntry) (x : List Nat) : Byte × List Byte × BitVec 16 :=
  let v := x.map fp32.decode
  let bad := v.any fun y => match y with | .fin .. => false | _ => true
  if bad then (0xFF, x.map fun _ => e.tnan, flNan)
  else
    let lg (y : Fp) : Option Int := match y with | .fin _ m x => if m = 0 then none else some ((Nat.log2 m : Int) + x) | _ => none
    let t := ((vmax e.table).bind lg).getD 0
    -- floor(log2) is monotone, so the largest exponent is that of the largest magnitude
    let top := (v.filterMap lg).foldl (fun (o : Option Int) y => match o with | none => some y | some z => some (max y z)) none
    let sc : Nat := match top with | none => 127 | some a => (max 0 (min 254 (a - t + 127))).toNat
    let codes := v.map fun y =>
      match y with
      | .fin n m x => enc8 e.table e.tnan (.fin n m (x + 127 - sc))
      | y => enc8 e.table e.tnan y
    (BitVec.ofNat 8 sc, codes.map (·.1), codes.foldl (fun a y => a ||| y.2) 0)

/-- Blocks of 32 elements. -/
def blocks32 : Nat → List Nat → List (List Nat)
  | 0, _ => []
  | n + 1, l => if l.isEmpty then [] else l.take 32 :: blocks32 n (l.drop 32)

/-- The bytes that a packet writes, from the bytes that it read, with the flags of its elements. -/
def CopyEntry.build (e : CopyEntry) (pk : CopyPkt) (data : List Byte) : List Byte × BitVec 16 :=
  match e.op with
  | 2 =>
    let pat := leBytes 8 e.opf.toNat
    ((List.range pk.n).map fun i => pat.getD ((e.col + i) % 8) 0, 0)
  | 3 =>
    let go (acc : List Byte × List Byte) (i : Nat) : List Byte × List Byte :=
      match e.stackSrc (e.col + i) with
      | none => (acc.1 ++ [0], acc.2)
      | some _ => (acc.1 ++ acc.2.take 1, acc.2.drop 1)
    (((List.range pk.n).foldl go ([], data)).1, 0)
  | 4 =>
    let b := (blocks32 (data.length / 4) (wordsOf (data.length / 4) data)).map e.qblock
    if e.col < e.qk then
      (((b.map (·.2.1)).flatten.drop (e.col % 32)).take pk.n, b.foldl (fun a x => a ||| x.2.2) 0)
    else (b.map (·.1), 0)
  | _ => (data.take pk.n, 0)

/-- Inserts a candidate of selacc: descending value, equal values in ascending index. -/
def insertCand (x : Word × Word) : List (Word × Word) → List (Word × Word)
  | [] => [x]
  | y :: r =>
    let a := fp32.decode x.1.toNat
    let b := fp32.decode y.1.toNat
    if b.lt a || (a.eq b && x.2.toNat < y.2.toNat) then x :: y :: r else y :: insertCand x r

/-- exp(a − b) for a ≤ b, correctly rounded to FP32; b finite. -/
def expDiff (a b : Fp) : Nat :=
  match a, b with
  | .fin n1 m1 e1, .fin n2 m2 e2 =>
    let e := min e1 e2
    let val (n : Bool) (m : Nat) (x : Int) : Int :=
      let v : Int := (m * 2 ^ (x - e).toNat : Nat)
      if n then -v else v
    fp32.expNeg (val n1 m1 e1 - val n2 m2 e2).natAbs e
  | _, _ => 0

/-- One element of selacc (R202). -/
def CopyEntry.accumulate (e : CopyEntry) (q : Nat) (x : Nat) : CopyEntry :=
  let v := fp32.decode x
  match v with
  | .fin .. =>
    let m := fp32.decode e.mx.toNat
    let sm := fp32.decode e.sm.toNat
    let one : Fp := fp32.decode 0x3F800000
    let word (n : Nat) : Word := BitVec.ofNat 32 n
    let e :=
      if m.lt v then
        { e with mx := word x, sm := word (fp32.fma 0 sm (fp32.decode (expDiff m v)) one).1 }
      else { e with sm := word (fp32.add 0 sm (fp32.decode (expDiff v m))).1 }
    let index : Word := BitVec.ofNat 32 (fldN e.opf 32 32 + q)
    { e with cands := (insertCand (word x, index) e.cands).take (fldN e.opf 0 5) }
  | _ => { e with skipped := e.skipped + 1, flags := e.flags ||| flInvalid }

/-- selacc's part of a packet: the elements that start in it. -/
def CopyEntry.fold (e : CopyEntry) (pk : CopyPkt) (data : List Byte) : CopyEntry :=
  if e.op ≠ 5 then e
  else
    let q0 := (e.col + 3) / 4
    let x := wordsOf ((data.length - pk.n) / 4) (data.drop pk.n)
    ((List.range x.length).zip x).foldl (fun e y => e.accumulate (e.row * (e.rowBytes / 4) + q0 + y.1) y.2) e

/-- The packet has performed. -/
def CopyEntry.after (e : CopyEntry) (pk : CopyPkt) (flags : BitVec 16) : CopyEntry :=
  { e with flags := e.flags ||| flags, pf := 0, asked := none, got := [], data := none }.past pk

/-! ## Running entries -/

/-- An entry of a core, by context and number. -/
def State.entry (s : State) (c : Coord) (ctx num : Nat) : Option CopyEntry :=
  ((s.core c).ctx ctx).entries.find? (·.num == num)

def State.setEntry (s : State) (c : Coord) (ctx : Nat) (e : CopyEntry) : State :=
  s.modCore c fun k =>
    k.setCtx ctx { k.ctx ctx with entries := updFirst (fun x => x.num == e.num) (fun _ => e) (k.ctx ctx).entries }

/-- The key of an entry as a user of translations. -/
def copyKey (c : Coord) (ctx num : Nat) : OpKey := (1, c.coreKey * 4 + ctx, num)

/-- An event about an entry. -/
def EvArg.entry (c : Coord) (ctx num : Nat) : EvArg := { EvArg.num c ctx with v := BitVec.ofNat 64 num }

/-- The entry moves no more bytes; a status other than 0 is its own (R206). -/
def State.entryMoved (s : State) (c : Coord) (ctx : Nat) (e : CopyEntry) (status : BitVec 16) : State :=
  let e := { e with
    phase := .moved, held := false, asked := none, got := [], data := none
    status := if e.status = 0 then status else e.status }
  ((s.setEntry c ctx e).unpin (copyKey c ctx e.num)).later .chainEntryComplete (.num c ctx)

/-- The entry may start (R194, R195). One whose strand has ended completes without moving anything, whether it is advanced or gated
or neither (R207). -/
def State.entryMayStart (s : State) (c : Coord) (x : CopyCtx) (e : CopyEntry) : Bool :=
  let first := (x.entries.head?.map (·.num)) == some e.num
  !s.paused e.vf
    && (!(s.die c.die).strandLive e.strand || (e.num ≤ x.advanced && !(e.serial && !first) && !(e.gate && !e.opened)))

/-- `CHAIN_ENTRY_START` (R195): the first entry of context `arg.n` that has not started, if it may. -/
def execChainEntryStart (s : State) : Res :=
  let c := s.arg.c
  let ctx := s.arg.n
  let x := (s.core c).ctx ctx
  .next (
    match x.entries.find? (·.phase == .queued) with
    | none => s
    | some e =>
      if !s.entryMayStart c x e then s
      else
        let st := s.startStatus c e
        let s :=
          if st ≠ 0 || !(s.die c.die).strandLive e.strand || e.op = 6 then s.entryMoved c ctx e st
          else (s.setEntry c ctx { e with phase := .running }).later .copyPacket (.entry c ctx e.num)
        s.later .chainEntryStart (.num c ctx))

/-- A page fault holds the entry, with its record (R206). -/
def State.entryHeld (s : State) (c : Coord) (ctx : Nat) (e : CopyEntry) (host : Bool) (va : BitVec 48)
    (acc : BitVec 3) : State :=
  (s.setEntry c ctx { e with pf := e.pf + 1, held := true }).queueRecord e.vf
    (s.record (c.at e.origin) e.vf va.toNat false (if host then 6 else 4) (e.pf + 1) acc.toNat e.strand)

/-- A page fault holds the entry, or ends it (R206, R369). -/
def State.entryFault (s : State) (c : Coord) (ctx : Nat) (e : CopyEntry) (host : Bool) (va : BitVec 48)
    (acc : BitVec 3) : State :=
  if !s.fqOn e.vf || 2 ≤ e.pf then s.entryMoved c ctx e 0x0011 else s.entryHeld c ctx e host va acc

/-- The bytes are written, and a landing counter counts the packet (R197). -/
def State.packetWrite (s : State) (c : Coord) (ctx : Nat) (e : CopyEntry) (pk : CopyPkt) (data : List Byte)
    (pl : Place) : State :=
  let (bytes, flags) := e.build pk data
  let s := if pl.addrs.isEmpty then s
    else State.store { s with mem := s.cohStore c.clusterKey pl.policy pl.addrs } (pl.addrs.zip bytes) 0
  let s :=
    if !e.land || pk.dst.isNone then s
    else if sgKind e.dst.seg = 3 then
      s.landed (Coord.ofKey (((pl.addrs.headD localBase) - localBase) / 2 ^ 16 * 16)) e.lc
    else s.landed c e.lc
  let e := (e.fold pk data).after pk flags
  if e.phase = .moved then s.entryMoved c ctx e 0
  else (s.setEntry c ctx e).later .copyPacket (.entry c ctx e.num)

/-- The rest of a packet once its source bytes are known. A write to a peer is over with the peer's answer. -/
def State.packetStore (s : State) (c : Coord) (ctx : Nat) (e : CopyEntry) (pk : CopyPkt) (data : List Byte) : State :=
  match pk.dst with
  | none => s.packetWrite c ctx e pk data (Place.join [])
  | some off =>
    let r := e.dst.add off
    match s.engPlace c e.vf (some (copyKey c ctx e.num)) r pk.n rightW with
    | .error (.page host va) => s.entryFault c ctx e host va accW
    | .error (.status st) => s.entryMoved c ctx e st
    | .ok pl =>
      match pl.peer with
      | some (dev, va) =>
        if s.peerLost dev then s.entryMoved c ctx e 0x000B
        else
          let op := PacketOp.store (at' 0 (e.build pk data).1) 0
          { s.setEntry c ctx { e with data := some data, asked := some dev } with
            out := s.out ++ [.peerWrite { s.outHdr c.die dev e.strand false with pf := e.pf } (c.at e.origin) va pl.policy op] }
      | none =>
        match s.crossAll c e.strand e.vf pl.xcl pl.addrs with
        | (s, false) => s.entryMoved c ctx e 0x0023
        | (s, true) =>
          match firstRefused s.mem c.clusterKey pl.addrs with
          | some (cause, _) => s.entryMoved c ctx e (cause.setWidth 16)
          | none =>
            (s.pinPtr c e.vf (copyKey c ctx e.num) r pk.n rightW).packetWrite c ctx e pk data pl

/-- How many offsets from the first one on follow each other without a break. -/
def runLength : List Nat → Nat
  | [] => 0
  | [_] => 1
  | o :: o' :: r => if o' = o + 1 then runLength (o' :: r) + 1 else 1

/-- The source bytes of a packet that are still to be read, by their offsets. -/
def CopyEntry.missing (e : CopyEntry) (pk : CopyPkt) : List Nat :=
  if e.got.isEmpty then pk.srcs else pk.srcs.filter fun o => (e.got.find? (·.1 == o)).isNone

/-- The entry's packet from where it stands: its source bytes are read, from a peer one unbroken run after the other, and then its
destination is written. -/
def State.entryPacket (s : State) (c : Coord) (ctx : Nat) (e : CopyEntry) : State :=
  let pk := e.packet
  match e.data, e.missing pk with
  | some data, _ => s.packetStore c ctx e pk data
  | none, [] =>
    s.packetStore c ctx e pk (pk.srcs.map fun o => match e.got.find? (·.1 == o) with | some (_, b) => b | none => 0)
  | none, o :: rest =>
    match s.engBytes c e.vf (some (copyKey c ctx e.num)) e.src (o :: rest) rightR with
    | .error (.page host va) => s.entryFault c ctx e host va accR
    | .error (.status st) => s.entryMoved c ctx e st
    | .ok pl =>
      match pl.peer with
      | some (dev, va) =>
        if s.peerLost dev then s.entryMoved c ctx e 0x000B
        else
          { s.setEntry c ctx { e with asked := some dev } with
            out := s.out ++ [.peerRead { s.outHdr c.die dev e.strand false with pf := e.pf } (c.at e.origin) va pl.policy
              (runLength (o :: rest))] }
      | none =>
        match s.crossAll c e.strand e.vf pl.xcl pl.addrs with
        | (s, false) => s.entryMoved c ctx e 0x0023
        | (s, true) =>
          match firstRefused s.mem c.clusterKey pl.addrs with
          | some (cause, _) => s.entryMoved c ctx e (cause.setWidth 16)
          | none =>
            let s := { s with mem := s.cohLoad c.clusterKey pl.policy pl.addrs }
            let s := s.pinPtr c e.vf (copyKey c ctx e.num) (e.src.add o) (rest.getLastD o + 1 - o) rightR
            s.packetStore c ctx e pk (s.mem.bytesAt pl.addrs)

/-- The answer of a peer to the request that a running entry awaits: bytes of its source, or the end of its write. -/
def State.packetAnswer (s : State) (c : Coord) (ctx : Nat) (e : CopyEntry) (dev : BitVec 9) (r : Reply) : State :=
  let free := { e with asked := none }
  match r with
  | .data b =>
    match e.data with
    | some data => s.packetWrite c ctx free e.packet data (Place.join [])
    | none =>
      let e' := { free with got := e.got ++ at' ((e.missing e.packet).headD 0) b }
      if s.paused e.vf then s.setEntry c ctx e' else s.entryPacket c ctx e'
  | .refused .. => s.entryMoved c ctx e 0x000A
  | .lost => s.later .peerLostAnswer { EvArg.num c dev.toNat with inc := s.dev.incarn }
  | .faulted =>
    if 2 ≤ e.pf then s.entryMoved c ctx e 0x0011 else s.setEntry c ctx { free with pf := e.pf + 1, held := true }

/-- The VF's pre-emption, which waits for requests of its engines that peers still have to answer, is looked at again (R342). -/
def State.saveAgain (s : State) (vf : Nat) : State := if bit (s.vf vf).preempt 0 then s.later .vfSaveComplete (.ofVf vf) else s

/-- The entry has a packet ready. -/
def State.packetReady (s : State) (e : CopyEntry) : Bool :=
  e.phase == .running && !e.held && e.asked.isNone && !s.paused e.vf

/-- The next context with a packet ready, in round-robin order, and its oldest entry that has one (R190). -/
def State.nextPacket (s : State) (c : Coord) : Option (Nat × CopyEntry) :=
  let k := s.core c
  ((List.range 4).map fun i => (k.copyNext + i) % 4).findSome? fun n =>
    ((k.ctx n).entries.find? s.packetReady).map fun e => (n, e)

/-- `COPY_PACKET`: the engine of core `arg.c` serves one packet. With `arg.flag` the event brings a peer's answer to entry `arg.v`
of context `arg.n`. -/
def execCopyPacket (s : State) : Res :=
  let c := s.arg.c
  .next (
    if s.arg.flag then
      if s.staleReply then s
      else
        match s.entry c s.arg.n s.arg.v.toNat with
        | none => s
        | some e =>
          match e.phase, e.asked with
          | .running, some dev => (s.packetAnswer c s.arg.n e dev s.arg.reply).saveAgain e.vf
          | _, _ => s
    else
      match s.nextPacket c with
      | none => s
      | some (n, e) =>
        let s := s.modCore c fun k => { k with copyNext := (n + 1) % 4 }
        if (s.die c.die).strandLive e.strand then s.entryPacket c n e else s.entryMoved c n e 0x0023)

/-- selacc's record up to its stamp (R202). -/
def CopyEntry.recordBytes (e : CopyEntry) : List Byte :=
  leBytes 4 e.mx.toNat ++ leBytes 4 e.sm.toNat ++ leBytes 1 e.cands.length ++ leBytes 3 0 ++ leBytes 4 e.skipped
    ++ ((List.range 16).map fun j =>
      let x := e.cands.getD j (0xFF800000, 0xFFFFFFFF)
      leBytes 4 x.1.toNat ++ leBytes 4 x.2.toNat).flatten

/-- The status with which an entry completes: until the status is written, the end of its strand gives 0x0023 (R207). -/
def State.finalStatus (s : State) (c : Coord) (e : CopyEntry) : BitVec 16 :=
  if 2 ≤ e.stage then e.status
  else if !(s.die c.die).strandLive e.strand then 0x0023
  else if e.status = 0 && e.truncated then 0x0026
  else e.status

/-- selacc's record is to be written (R204 step 2). A truncated entry's is, since R205 gives status 0x0026 the payload "Written"
(log 100). -/
def CopyEntry.records (e : CopyEntry) (st : BitVec 16) : Bool := e.stage = 0 && e.op = 5 && (st = 0 || st = 0x0026)

/-- How a write of selacc's record goes: it has performed, a peer answers it, a page fault holds it, or it ends the entry with a status
as a packet does (R206). -/
inductive RecordStep where
  | done
  | asked (dev : BitVec 9)
  | page (host : Bool) (va : BitVec 48)
  | ends (status : BitVec 16)
  deriving DecidableEq, Repr

/-- The write of selacc's record (R204 step 2). -/
def State.recordWrite (s : State) (c : Coord) (e : CopyEntry) : State × RecordStep :=
  match s.engPlace c e.vf none e.stamp e.recordBytes.length rightW with
  | .error (.page host va) => (s, .page host va)
  | .error (.status st) => (s, .ends st)
  | .ok pl =>
    match pl.peer with
    | some (dev, va) =>
      if s.peerLost dev then (s, .ends 0x000B)
      else
        let op := PacketOp.store (at' 0 e.recordBytes) 0
        ({ s with out := s.out ++ [.peerWrite { s.outHdr c.die dev e.strand false with pf := e.pf } (c.at e.origin) va pl.policy op] },
         .asked dev)
    | none =>
      match s.crossAll c e.strand e.vf pl.xcl pl.addrs with
      | (s, false) => (s, .ends 0x0023)
      | (s, true) =>
        match firstRefused s.mem c.clusterKey pl.addrs with
        | some (cause, _) => (s, .ends (cause.setWidth 16))
        | none =>
          (State.store { s with mem := s.cohStore c.clusterKey pl.policy pl.addrs } (pl.addrs.zip e.recordBytes) 0, .done)

/-- The write of steps 3 to 5 of R204 that comes after `stage` of them. An annulled entry's status and stamp are written all the same
(R207), so that they do not carry its strand. -/
def State.entryWrite (s : State) (c : Coord) (e : CopyEntry) (st : BitVec 16) : State × Option (BitVec 9) :=
  let strand := if st = 0x0023 then 0 else e.strand
  let write (r : RPtr) (align : Nat) (b : List Byte) : State × Option (BitVec 9) := s.engineWrite c c e.vf strand r align b
  let stamp := leBytes 8 (e.sid + st.toNat * 2 ^ 32)
  match e.stage with
  | 0 => (s, none)
  | 1 => write (e.entry.add 2) 2 (leBytes 2 st.toNat)
  | _ =>
    if e.stamp.p = 0 then (s, none)
    else if e.sw then
      (if st = 0 then s.engineSync c c e.vf strand e.stamp (e.byteCount % 2 ^ 32) e.flags else (s, none))
    else if e.op = 5 then write (e.stamp.add 0x90) 8 stamp
    else write e.stamp 8 stamp

/-- Step 6 of R204. -/
def State.entryOver (s : State) (c : Coord) (ctx : Nat) (e : CopyEntry) : State :=
  let s := if e.status = 0x0023 then s.count c.die e.vf 7 else s
  let rest := ((s.core c).ctx ctx).entries.tail
  let s := s.modCore c fun k => k.setCtx ctx { k.ctx ctx with entries := rest }
  let s := s.tlComplete c e.vf ctx e.num
  let s := if (rest.head?.map (·.phase)) = some .moved then s.later .chainEntryComplete (.num c ctx) else s
  let s := s.modSlot (c.at 15) fun y => if y.hold = some .copyFull then { y with hold := none } else y
  (s.resumeWaiting c).later .chainEntryStart (.num c ctx)

/-- The completion of the oldest entry of a context, from its stage on, in at most `fuel` writes: each has performed before the next
begins, so that one at a peer waits for its answer (R204, R306). A page fault of selacc's record holds the entry. -/
def State.entryFinish (s : State) (c : Coord) (ctx : Nat) (e : CopyEntry) : Nat → State
  | 0 => s.entryOver c ctx e
  | fuel + 1 =>
    let st := s.finalStatus c e
    if e.records st then
      match s.recordWrite c e with
      | (s, .done) => s.entryFinish c ctx { e with stage := 1 } fuel
      | (s, .asked dev) => s.setEntry c ctx { e with stage := 1, asked := some dev }
      | (s, .ends st) => s.entryFinish c ctx { e with stage := 1, status := st } fuel
      | (s, .page host va) =>
        if !s.fqOn e.vf || 2 ≤ e.pf then s.entryFinish c ctx { e with stage := 1, status := 0x0011 } fuel
        else s.entryHeld c ctx e host va accW
    else
      let (s, sent) := s.entryWrite c e st
      let e := { e with stage := e.stage + 1, status := if e.stage = 0 then e.status else st, asked := sent }
      if sent.isSome then s.setEntry c ctx e else s.entryFinish c ctx e fuel

/-- A peer's answer to a write of the completion. One to selacc's record ends or holds the entry as one to a packet does (R206); any
other is dropped where it fails. -/
def State.finishAnswer (s : State) (c : Coord) (ctx : Nat) (e : CopyEntry) (r : Reply) : State :=
  let e := { e with asked := none }
  if e.stage = 1 then
    match r with
    | .data _ => s.entryFinish c ctx e 2
    | .refused .. => s.entryFinish c ctx { e with status := 0x000A } 2
    | .lost => s.entryFinish c ctx { e with status := 0x000B } 2
    | .faulted =>
      if 2 ≤ e.pf then s.entryFinish c ctx { e with status := 0x0011 } 2
      else s.setEntry c ctx { e with stage := 0, pf := e.pf + 1, held := true }
  else s.entryFinish c ctx e (3 - e.stage)

/-- `CHAIN_ENTRY_COMPLETE` (R204): the oldest entry of context `arg.n`, once it has moved everything. With `arg.flag` the event brings
a peer's answer to the write of its completion; one of peer lost drops the write, and the device is lost (R291). -/
def execChainEntryComplete (s : State) : Res :=
  let c := s.arg.c
  let ctx := s.arg.n
  .next (
    match ((s.core c).ctx ctx).entries with
    | [] => s
    | e :: _ =>
      if e.phase != .moved || (s.arg.flag && s.staleReply) then s
      else
        match e.asked with
        | some dev =>
          if !s.arg.flag then s
          else if s.arg.reply = .lost then s.later .peerLostAnswer { EvArg.num c dev.toNat with inc := s.dev.incarn }
          else (s.finishAnswer c ctx e s.arg.reply).saveAgain e.vf
        | none =>
          if s.arg.flag || s.paused e.vf || (e.held && (s.die c.die).strandLive e.strand) then s
          else s.entryFinish c ctx { e with held := false } (3 - e.stage))

/-- The request of an entry that awaits a device's answer completes as peer lost (R291). -/
def State.entryLost (s : State) (c : Coord) (ctx : Nat) (e : CopyEntry) : State :=
  (if e.phase = .moved then s.finishAnswer c ctx e .lost else s.entryMoved c ctx e 0x000B).saveAgain e.vf

/-- The loom's chain-advance pulse (R195): the oldest gated entry that waits may start. A gated entry waits once `cadv` has advanced it;
a pulse that finds none advanced is lost (log 99). -/
def State.chainPulse (s : State) (c : Coord) (ctx : Nat) : State :=
  let waits (e : CopyEntry) : Bool := e.phase == .queued && e.gate && !e.opened && e.num ≤ ((s.core c).ctx ctx).advanced
  (s.modCore c fun k =>
    k.setCtx ctx { k.ctx ctx with entries := updFirst waits (fun e => { e with opened := true }) (k.ctx ctx).entries }).later
    .chainEntryStart (.num c ctx)

end Sys2Proof.Machine
end

