-- ==== Sys2Proof/Machine/Tasks.lean ====
section
/-! DEFINITION. The start of a task (R23, R24), helpers (R230), task queues (R231 to R233), landing slots and their dispatch
(R234, R235), class pre-emption (R236, R342, R343) and levelling (R237). -/
namespace Sys2Proof.Machine

/-! ## Launches (R225, R228, R229) -/

def Launch.word (l : Launch) (i : Nat) : Dword := l.packet.getD i 0
def Launch.coresOf (l : Launch) : Nat := fldN (l.word 3) 44 4
def Launch.slotsOf (l : Launch) : Nat := fldN (l.word 3) 40 4
def Launch.rq (l : Launch) : Nat := fldN (l.word 3) 24 6
def Launch.strandOf (l : Launch) : BitVec 24 := fld (l.word 5) 40 24
def Launch.clsOf (l : Launch) : BitVec 2 := fld (l.word 3) 0 2

/-- `c.crew` (R229): the crew field, and the core's index in the crew. -/
def Launch.crewWord (l : Launch) (crew cidx : Nat) : Dword :=
  let d := l.word 3
  BitVec.ofNat 64 (crew % 2 ^ 16 * 2 ^ 48 + fldN d 48 16 * 2 ^ 32 + fldN d 36 4 * 2 ^ 28 + fldN d 32 4 * 2 ^ 24
    + cidx % 16 * 2 ^ 20 + l.coresOf * 2 ^ 16 + l.rq)

/-- The most recent of the launches that satisfy `p`, by the order in which they started. -/
def latest (p : Launch → Bool) (l : List Launch) : Option Launch :=
  l.foldl (fun o x =>
    if x.order = 0 || !p x then o
    else match o with
      | none => some x
      | some y => if y.order < x.order then some x else o) none

/-! ## The start of a task -/

/-- What a task starts with, besides what R23 fixes. -/
structure Start where
  vf : Nat
  pc : Dword
  arg : Dword
  sg : Vector (BitVec 128) 8
  strand : BitVec 24
  cls : BitVec 2
  priv : Bool
  crew : Dword
  qown : BitVec 6
  tvec : Dword
  launch : Option Dword
  deriving DecidableEq, Repr

/-- The slot at the first instruction of a task (R23, R318 to R320, R325). The wake latch stays (R334). -/
def Slot.begin (x : Slot) (t : Start) : Slot :=
  { Slot.reset with
    live := true, vf := t.vf, pc := t.pc, g := Slot.reset.g.set 1 t.arg, sg := t.sg, strand := t.strand, cls := t.cls
    status := if t.priv then 1 else 0, crew := t.crew, qown := t.qown, tvec := t.tvec, launch := t.launch
    lastIssue := x.lastIssue, wakeLatch := x.wakeLatch, nextOwn := x.nextOwn }

/-! ## Helpers (R230) -/

/-- Helper slots reserved for the crew of slot 0 on its core. -/
def State.helpers (s : State) : Nat :=
  match s.launchOf s.cur with
  | none => 0
  | some l => if l.crews.any (l.holds s.me s.cur) then min (l.slotsOf - 1) 10 else 0

/-- The lowest reserved helper slot that runs no task and holds the place of none. -/
def State.freeHelper (s : State) : Option Nat :=
  ((List.range s.helpers).map (· + 1)).find? fun i => !s.taken s.me.vf (s.cur.at (BitVec.ofNat 4 i))

def execHstart (d a b : BitVec 5) (s : State) : Res :=
  .next (
    if s.cur.slot ≠ 0 then s.trap 0x02 (instrWord (.hstart d a b))
    else
      match s.freeHelper with
      | none => (s.wg d 0).advance 4
      | some i =>
        s.releaseThen fun s =>
          let x := s.me
          let t : Start := {
            vf := x.vf, pc := s.rg a, arg := s.rg b, sg := x.sg, strand := x.strand, cls := x.cls
            priv := s.privileged s.cur, crew := x.crew, qown := fld x.crew 0 6, tvec := (s.vf x.vf).vftvec
            launch := x.launch }
          ((s.modSlot (s.cur.at (BitVec.ofNat 4 i)) (·.begin t)).wg d (BitVec.ofNat 64 i)).advance 4)

/-- Some helper of the mask has not retired. -/
def State.joinWaits (s : State) (m : BitVec 10) : Bool :=
  (List.range 10).any fun i => bit m i && s.taken s.me.vf (s.cur.at (BitVec.ofNat 4 (i + 1)))

def execHjoin (a : BitVec 5) (s : State) : Res :=
  let m : BitVec 10 := fld (s.rg a) 1 10
  .next (
    if s.cur.slot ≠ 0 then s.trap 0x02 (instrWord (.hjoin a))
    else s.releaseThen fun s => if s.joinWaits m then s.leave (.hjoin m) else s.advance 4)

/-! ## Queues (R231, R233) -/

def Die.queue (x : Die) (q : Nat) : Queue := x.queues.get q Queue.reset
def Die.setQueue (x : Die) (q : Nat) (v : Queue) : Die := { x with queues := x.queues.set q v }
def Queue.enabled (q : Queue) : Bool := bit q.cfg 63
def Queue.vf (q : Queue) : Nat := fldN q.cfg 54 9
def Queue.cap (q : Queue) : Nat := fldN q.cfg 0 15
def Queue.weight (q : Queue) : Nat := max 1 (fldN q.cfg 40 8)
def Queue.full (q : Queue) : Bool := q.cap ≤ q.entries.length

/-- The order of R233 as a number: highest class, then earliest expiry, unbounded entries last, then enqueue order. -/
def QEntry.rank (e : QEntry) : Nat :=
  ((3 - e.cls.toNat) * 2 ^ 80 + match e.expiry with | none => 2 ^ 79 | some x => min x (2 ^ 79 - 1)) * 2 ^ 80
    + min e.seq (2 ^ 80 - 1)

/-- The entries of a queue in the order of R233. -/
def Queue.ordered (q : Queue) : List QEntry := sortBy QEntry.rank q.entries

/-- The first live entry of an ordered list that satisfies `ok`, and the entries of ended strands before it. -/
def passEntries (live : QEntry → Bool) (ok : QEntry → Bool) : List QEntry → List QEntry × Option QEntry
  | [] => ([], none)
  | e :: r =>
    if !live e then
      let (d, o) := passEntries live ok r
      (e :: d, o)
    else if ok e then ([], some e)
    else passEntries live ok r

/-- Entries of ended strands are dropped and counted (R232, R258). -/
def State.dropEntries (s : State) (d : BitVec 3) (q : Nat) (l : List QEntry) : State :=
  l.foldl (fun s e =>
    (s.modDie d fun x => x.setQueue q { x.queue q with entries := (x.queue q).entries.erase e }).count d e.vf 4) s

/-- The entry of queue `q` that is first by R233 among those that satisfy `ok`; the ended ones before it are dropped. -/
def State.firstEntry (s : State) (d : BitVec 3) (q : Nat) (ok : QEntry → Bool) : State × Option QEntry :=
  let x := s.die d
  let (gone, e) := passEntries (fun e => x.strandLive e.strand) ok (x.queue q).ordered
  (s.dropEntries d q gone, e)

def State.removeEntry (s : State) (d : BitVec 3) (q : Nat) (e : QEntry) : State :=
  (s.modDie d fun x => x.setQueue q { x.queue q with entries := (x.queue q).entries.erase e }).preemptCheck d q

/-! ## Landing slots (R228, R234, R235) -/

/-- The crew for which slot 11 of a core is reserved (R228): the latest to take the core, where an earlier one still lives on its other
cores. -/
def State.reserved (s : State) (c : Coord) : Option (Launch × Crew) :=
  if c.slot ≠ 11 then none
  else
    (s.die c.die).launches.reverse.findSome? fun l =>
      if l.slotsOf != 12 then none
      else (l.crews.reverse.find? fun k => k.live && k.cluster == c.cluster && k.cores.contains c.core).map fun k => (l, k)

/-- The queue that a landing slot serves. -/
def State.servedQueue (s : State) (c : Coord) : Nat :=
  match s.reserved c with
  | some (l, _) => l.rq
  | none => (s.slot c).qown.toNat

/-- The launch of an entry's task on a cluster, and the crew whose `c.crew` fields it takes (R235). -/
def State.fit (s : State) (c : Coord) (e : QEntry) : Option (Launch × Crew) :=
  let here (k : Crew) : Bool := k.live && k.cluster == c.cluster
  let x := s.die c.die
  if e.hint ≠ 0xFFFF then
    (e.launch.bind (x.launch? e.vf)).bind fun l =>
      (l.crews.find? fun k => here k && k.index == e.hint.toNat).map fun k => (l, k)
  else
    (latest (fun l => l.vf == e.vf && l.rq == e.queue && l.crews.any here) x.launches).bind fun l =>
      (l.crews.filter here).foldl (fun (o : Option (Launch × Crew)) k => match o with
        | none => some (l, k)
        | some (_, k') => if k.index < k'.index then some (l, k) else o) none

/-- The records of the displaced tasks that wait for a landing slot (R236). -/
def State.displacedOn (s : State) (c : Coord) : List Saved :=
  if s.awaited c then s.vfs.flatMap fun v => v.2.displaced.filterMap fun l => Sparse.find? l.2 c.key else []

/-- A landing slot takes the entry: its queue, a crew on the cluster, a reservation, no record of the VF that is to be restored there, and
no displaced task of its class or a higher one. -/
def State.takes (s : State) (c : Coord) (e : QEntry) : Bool :=
  e.queue == s.servedQueue c && !s.paused e.vf && (s.savedAt e.vf .saved c).isNone
    && (match s.fit c e, s.reserved c with
        | none, _ => false
        | some _, none => true
        | some (l, k), some (l', k') => e.hint ≠ 0xFFFF && l.id == l'.id && l.vf == l'.vf && k.index == k'.index)
    && (s.displacedOn c).all fun r => r.slot.cls.toNat < e.cls.toNat

/-- The landing slots of a core. -/
def landing (c : Coord) : List Coord := [c.at 11, c.at 12]

/-- The cores of a cluster. -/
def Coord.cores (c : Coord) : List Coord := (List.range 8).map fun i => { c with core := BitVec.ofNat 3 i, slot := 0 }

/-- Prefetches of the cores whose landing slots take the entry. -/
def State.offer (s : State) (d : BitVec 3) (e : QEntry) : List (Instr × EvArg) :=
  let clusters := (((s.die d).launches.flatMap fun l => l.crews.filterMap fun k =>
    if k.live then some k.cluster else none)).eraseDups
  clusters.flatMap fun cl =>
    (Coord.cores { die := d, cluster := cl, core := 0, slot := 0 }).filterMap fun c =>
      if (landing c).any fun w => s.takes w e then some (Instr.queuePrefetch, EvArg.at c) else none

/-! ## `enq`, `deq` and `tspawn` (R232) -/

/-- Appends an entry, with the next number of the enqueue order. It may pre-empt a task, or else the landing slots may take
it. -/
def State.appendEntry (s : State) (d : BitVec 3) (e : QEntry) : State :=
  let e := { e with seq := (s.die d).enqueued }
  let s := s.modDie d fun x =>
    { x.setQueue e.queue { x.queue e.queue with entries := (x.queue e.queue).entries ++ [e] } with
      enqueued := x.enqueued + 1 }
  (s.preemptCheck d e.queue).laters (s.offer d e)

/-- R232: the queue may be used by the slot, or the trap. -/
def State.queueOk (s : State) (q : Nat) (k : Queue → State) : State :=
  let x := (s.die s.cur.die).queue q
  if !x.enabled || x.vf ≠ s.me.vf then s.trap 0x06 (BitVec.ofNat 64 q) else k x

/-- The allowance that the enqueue writes, and the expiry of the strand on this die. -/
def State.allowance (s : State) (strand : BitVec 24) : Word × Option Nat :=
  if strand = 0 then (BitVec.allOnes 32, none)
  else
    let d := s.cur.die
    let x := (s.die d).expiryAt strand
    (BitVec.ofNat 32 (min (x - s.now d) (2 ^ 32 - 2)), some x)

/-- The queue that a slot's `enq` or `tspawn` has taken a place of while its store is on its way to a peer. -/
def Slot.enqueuing (x : Slot) : Option Nat :=
  if x.elems.isEmpty then none
  else match x.hold with
    | some (.load (.enq a _ _) ..) => some (fldN (x.rg a) 0 6)
    | some (.load (.tspawn ..) ..) => some (fldN x.crew 0 6)
    | _ => none

/-- Queue `q` of a die is full: its entries and the ones whose stores are on their way reach cap. -/
def State.queueFull (s : State) (d : BitVec 3) (q : Nat) : Bool :=
  let k := (s.die d).queue q
  k.cap ≤ k.entries.length + (s.slots.filter fun x => (Coord.ofKey x.1).die == d && x.2.enqueuing == some q).length

/-- The unit has the entry, and the instruction succeeds. -/
def State.enqueued (s : State) (k : BitVec 3) (e : QEntry) : State :=
  ((s.appendEntry s.cur.die e).wk k (BitVec.allOnes 64)).advance 4

/-- What `enq` or `tspawn` stores into the descriptor at `p`, from offset 0x10, and the entry that it appends (R232). The launch that R231
captures for an `enq` outside the queue's launch is sought among those of the issuer's VF (log 47). -/
def State.enqWork (s : State) (i : Instr) (p : Dword) (bytes : List Byte) : List Byte × QEntry :=
  let d (i : Nat) : Dword := leDword ((bytes.drop (8 * i)).take 8)
  let x := s.me
  let recent (q : Nat) : Option Dword := (latest (fun l => l.vf == x.vf && l.rq == q) (s.die s.cur.die).launches).map (·.id)
  match i with
  | .tspawn .. =>
    let (alw, expiry) := s.allowance x.strand
    let stage := fldN x.crew 28 4
    let hint : BitVec 16 := fld x.crew 48 16
    let w2 := putFld (putFld (putFld (d 2) 40 x.strand) 32 x.cls) 0 alw
    let w3 := putFld (putFld (d 3) 48 (BitVec.ofNat 16 stage)) 32 hint
    (leBytes 8 w2.toNat ++ leBytes 8 w3.toNat,
     { ptr := p, strand := x.strand, cls := x.cls, stage := stage, hint := hint, expiry := expiry
       launch := x.launch, vf := x.vf, queue := fldN x.crew 0 6, seq := 0 })
  | i =>
    let q := match i with | .enq a _ _ => fldN (s.rg a) 0 6 | _ => 0
    let strand : BitVec 24 := fld (d 2) 40 24
    let (alw, expiry) := s.allowance strand
    let launch := match s.launchOf s.cur with | some l => if l.rq = q then some l.id else recent q | none => recent q
    (leBytes 4 alw.toNat,
     { ptr := p, strand := strand, cls := fld (d 2) 32 2, stage := fldN (d 3) 48 16, hint := fld (d 3) 32 16
       expiry := expiry, launch := launch, vf := x.vf, queue := q, seq := 0 })

/-- The descriptor at `p` has been read: the stores of `enq` or `tspawn`, which perform before the entry is appended. At a peer the
slot waits for the answer; a peer that is lost refuses the store (R232, R293). -/
def State.enqueue (s : State) (i : Instr) (k : BitVec 3) (p : Dword) (bytes : List Byte) : State :=
  let (b, e) := s.enqWork i p bytes
  let w := ptrAdd p 0x10
  s.withPlace w b.length rightW accW fun pl =>
    match pl.peer with
    | some place =>
      if s.peerLost place.1 && !pl.waited then (s.postFault s.cur 0x0B w).enqueued k e
      else (s.modMe fun x => { x with elems := [bytes], enq := some e }).askPeer i place w pl.policy (.waitedStore (at' 0 b) 0)
    | none =>
      s.orderedHere fun s =>
        s.storeThen i w pl b 0 0 (fun _ => w) fun s => (s.drain s.cur).enqueued k e

/-- The descriptor of `enq` has been read. -/
def State.finEnq (s : State) (i : Instr) (q : Nat) (p : Dword) (k : BitVec 3) (bytes : List Byte) : State :=
  if 15 < fldN (leDword ((bytes.drop 24).take 8)) 48 16 then s.trap 0x05 p
  else if s.queueFull s.cur.die q then (s.wk k 0).advance 4
  else s.enqueue i k p bytes

/-- A descriptor of the current slot at `p`: what a peer has answered already, or a load (R145). -/
def State.descriptor (s : State) (i : Instr) (p : Dword) (k : List Byte → State → State) : State :=
  match s.me.elems with
  | b :: _ => k b s
  | [] => s.loadThen i p 32 rightR accR (fun _ => p) k

def execEnq (a b : BitVec 5) (k : BitVec 3) (s : State) : Res :=
  let q := fldN (s.rg a) 0 6
  let p := s.rg b
  .next (
    s.queueOk q fun _ =>
      s.aligned p 32 <| s.descriptor (.enq a b k) p fun bytes s => s.finEnq (.enq a b k) q p k bytes)

def execDeq (d a : BitVec 5) (k : BitVec 3) (s : State) : Res :=
  let q := fldN (s.rg a) 0 6
  .next (
    s.queueOk q fun _ =>
      match s.firstEntry s.cur.die q fun _ => true with
      | (s, none) => (s.wk k 0).advance 4
      | (s, some e) => (((s.removeEntry s.cur.die q e).wg d e.ptr).wk k (BitVec.allOnes 64)).advance 4)

/-- The descriptor of `tspawn` has been read: the four fields and the allowance are stored. -/
def State.finTspawn (s : State) (i : Instr) (p : Dword) (k : BitVec 3) (bytes : List Byte) : State :=
  if s.queueFull s.cur.die (fldN s.me.crew 0 6) then (s.wk k 0).advance 4 else s.enqueue i k p bytes

def execTspawn (a : BitVec 5) (k : BitVec 3) (s : State) : Res :=
  let q := fldN s.me.crew 0 6
  let p := s.rg a
  .next (
    s.queueOk q fun _ =>
      if s.queueFull s.cur.die q then (s.wk k 0).advance 4
      else s.aligned p 32 <| s.descriptor (.tspawn a k) p fun bytes s => s.finTspawn (.tspawn a k) p k bytes)

/-- The answer to the store of an `enq` or `tspawn` at a peer, with the cause of a refusal: the captured entry is appended all the
same, and the refusal is recorded (R232). -/
def State.enqStored (s : State) (k : BitVec 3) (p : Dword) (refused : Option Byte) : State :=
  match s.me.enq with
  | none => s
  | some e =>
    let s := s.modMe fun x => { x with enq := none }
    (match refused with | some cause => s.postFault s.cur cause p | none => s).enqueued k e

/-! ## Prefetch and dispatch (R233, R235) -/

/-- The entry that comes first for the landing slots of a core, with its queue removed of the ended ones before it. -/
def State.bestFor (s : State) (c : Coord) : State × Option QEntry :=
  (landing c).foldl (fun (a : State × Option QEntry) w =>
    let (s, o) := a
    let q := s.servedQueue w
    if !((s.die c.die).queue q).enabled then (s, o)
    else
      match s.firstEntry c.die q (s.takes w) with
      | (s, none) => (s, o)
      | (s, some e) =>
        match o with
        | none => (s, some e)
        | some e' => if e.rank < e'.rank then (s, some e) else (s, o))
    (s, none)

/-- One free place of the prefetch buffer is filled. -/
def State.prefetchOne (s : State) (c : Coord) : State :=
  if 2 ≤ (s.core c).prefetch.length then s
  else
    match s.bestFor c with
    | (s, none) => s
    | (s, some e) => (s.removeEntry c.die e.queue e).modCore c fun k => { k with prefetch := k.prefetch ++ [e] }

/-- `QUEUE_PREFETCH`: the free places of the core's buffer are filled, and its free landing slots dispatch. Entries whose
crew has gone return to their queues, where their numbers keep their order, and are offered to the other cores (R233). -/
def execQueuePrefetch (s : State) : Res :=
  let c := s.arg.c
  let k := s.core c
  let back := k.prefetch.filter fun e => !(landing c).any fun w => s.takes w e
  let s := if back.isEmpty then s
    else
      let s := s.setCore c { k with prefetch := k.prefetch.filter fun e => !back.contains e }
      back.foldl (fun s e =>
        (s.modDie c.die fun x =>
          x.setQueue e.queue { x.queue e.queue with entries := (x.queue e.queue).entries ++ [e] }).preemptCheck c.die e.queue) s
  let s := s.laters (back.flatMap (s.offer c.die)).eraseDups
  let s := (s.prefetchOne c).prefetchOne c
  .next (
    s.laters (
      ((landing c).filter fun w => !(s.slot w).live && !(s.core c).prefetch.isEmpty).map
        (fun w => (Instr.taskDispatch, EvArg.at w))
      ))

/-- A task's segment registers: the launch's table with the skein registers at kind 0 (R24, R235). -/
def Launch.taskSegs (l : Launch) : Vector (BitVec 128) 8 := l.segs

/-- A landing slot starts the entry's task: everything but the entry pointer and the argument, which it reads next. A better entry
may then pre-empt it (R236). -/
def State.startTask (s : State) (c : Coord) (e : QEntry) (l : Launch) (k : Crew) : State :=
  let cidx := (k.cores.findIdx? (· == c.core)).getD 15
  (s.modSlot c fun x =>
    { x.begin {
        vf := l.vf, pc := 0, arg := 0, sg := l.taskSegs, strand := e.strand, cls := e.cls, priv := false
        crew := l.crewWord (if e.hint = 0xFFFF then 0xFFFF else k.index) cidx, qown := x.qown
        tvec := (s.vf l.vf).vftvec, launch := some l.id } with starting := some e.ptr }).preemptCheck c.die e.queue

/-- Entry and argument have been read: the task's first instruction is next. -/
def State.finDispatch (s : State) (c : Coord) (bytes : List Byte) : State :=
  s.modSlot c fun x =>
    { x.wg 1 (leDword (bytes.drop 8)) with pc := leDword (bytes.take 8), starting := none, hold := none, pfCount := 0 }

/-- The task starts in trap entry. -/
def State.dispatchTrap (s : State) (c : Coord) (cause : BitVec 8) (p : Dword) : State :=
  (s.modSlot c fun x => { x with starting := none, pfCount := 0 }).trapAt c cause p 0

/-- The landing slot's own load of entry and argument (R235). -/
def State.dispatchRead (s : State) (c : Coord) : State :=
  match (s.slot c).starting with
  | none => s
  | some p =>
    match s.dataPlace c p 16 rightR with
    | .error (.trap cause _) => s.dispatchTrap c cause p
    | .error (.miss block) => s.queueService c 0x0C block p 0
    | .error (.page host va) =>
      if !s.fqOn (s.slot c).vf || 2 ≤ (s.slot c).pfCount then s.dispatchTrap c 0x11 p
      else s.pageFault c host va accR false p
    | .ok pl =>
      match pl.peer with
      | some place =>
        if s.peerLost place.1 then s.dispatchTrap c 0x0B p
        else State.askPeer { s with cur := c } .nop place p pl.policy (.read 16)
      | none =>
        match s.crossAll c (s.slot c).strand (s.slot c).vf pl.xcl pl.addrs with
        | (s, false) => s.modSlot c fun x => { x with hold := some .dropped }
        | (s, true) =>
          match firstRefused s.mem c.clusterKey pl.addrs with
          | some (cause, _) => s.dispatchTrap c cause p
          | none => s.finDispatch c (s.mem.bytesAt pl.addrs)

/-- The older prefetched entry that slot `c` takes, once those of ended strands before it are dropped. -/
def State.nextPrefetched (s : State) (c : Coord) : State × Option QEntry :=
  let k := s.core c
  let (gone, e) := passEntries (fun e => (s.die c.die).strandLive e.strand) (s.takes c) k.prefetch
  let rest := (gone ++ e.toList).foldl (fun l x => l.erase x) k.prefetch
  let s := if rest.length = k.prefetch.length then s else s.setCore c { k with prefetch := rest }
  (gone.foldl (fun s x => s.count c.die x.vf 4) s, e)

/-- `TASK_DISPATCH`: a free landing slot starts the older prefetched entry that it takes. -/
def execTaskDispatch (s : State) : Res :=
  let c := s.arg.c
  .next (
    if (s.slot c).live || !(c.slot == 11 || c.slot == 12) then s
    else
      match s.nextPrefetched c with
      | (s, none) => if (s.core c).prefetch.length < 2 && (s.bestFor c).2.isSome then s.later .queuePrefetch (.at c) else s
      | (s, some e) =>
        match s.fit c e with
        | none => s
        | some (l, k) => ((s.startTask c e l k).dispatchRead c).later .queuePrefetch (.at c))

/-! ## Apportioning (R234) -/

/-- The queues with a ready entry for a cluster, ascending. An entry in a prefetch buffer has left its queue (log 96). -/
def State.readyQueues (s : State) (c : Coord) : List Nat :=
  let x := s.die c.die
  (List.range 64).filter fun q =>
    let k := x.queue q
    k.enabled && k.entries.any fun e => x.strandLive e.strand && (s.fit c e).isSome

/-- Shares of `n` slots by weight: whole parts, then one each to the largest remainders, equal ones to the lower queue. -/
def shares (n : Nat) (w : List (Nat × Nat)) : List (Nat × Nat) :=
  let total := (w.map (·.2)).foldl (· + ·) 0
  let base := w.map fun x => (x.1, n * x.2 / total)
  let left := n - (base.map (·.2)).foldl (· + ·) 0
  let extra := ((sortBy (fun x : Nat × Nat => total - n * x.2 % total) w).take left).map (·.1)
  base.map fun x => (x.1, if extra.contains x.1 then x.2 + 1 else x.2)

/-- `APPORTION_RECOMPUTE` for the cluster `arg.c`. A slot that holds a task takes its owner when it retires; one for which a
displaced task waits keeps it (R236). -/
def execApportionRecompute (s : State) : Res :=
  let c := s.arg.c
  let qs := s.readyQueues c
  let slots := c.cores.flatMap fun k => (landing k).filter fun w => (s.reserved w).isNone
  .next (
    if qs.isEmpty then s
    else
      let owners := (shares slots.length (qs.map fun q => (q, ((s.die c.die).queue q).weight))).flatMap fun x =>
        List.replicate x.2 x.1
      let s := (slots.zip owners).foldl (fun s x =>
        if s.awaited x.1 then s
        else
          let q := BitVec.ofNat 6 x.2
          s.modSlot x.1 fun y => if y.live then { y with nextOwn := some q } else { y with qown := q, nextOwn := none }) s
      (s.preemptChecks c.die).laters (c.cores.map fun k => (Instr.queuePrefetch, EvArg.at k)))

/-! ## Slot records (R342 to R344) -/

/-- A slot with the registers of a record's bytes 0x000 to 0x9FF; reserved bits are ignored (R6). -/
def Slot.ofRecord (x : Slot) (b : List Byte) : Slot :=
  let d (o : Nat) : Dword := leDword ((b.drop o).take 8)
  { x with
    pc := d 0
    g := Vector.ofFn fun i => if i.val = 0 then 0 else d (8 * i.val)
    v := Vector.ofFn fun i => BitVec.ofNat 512 (leNat ((b.drop (0x100 + 64 * i.val)).take 64))
    status := fld (d 0x900) 0 3
    k := Vector.ofFn fun i => if i.val = 0 then 0 else d (0x900 + 8 * i.val)
    sg := Vector.ofFn fun i =>
      putFld (BitVec.ofNat 128 (leNat ((b.drop (0x940 + 16 * i.val)).take 16))) 112 (0 : BitVec 6)
    strand := fld (d 0x9C0) 0 24, cls := fld (d 0x9C8) 0 2, epc := d 0x9D0, tval := d 0x9D8, cause := fld (d 0x9E0) 0 8
    tvec := d 0x9E8 &&& ~~~3#64, nfsw := d 0x9F0, rfptr := d 0x9F8 }

/-- Sixteen fresh free dwords stand for the bytes that the core alone reads (log 26). -/
def State.heldBytes (s : State) : Nat → State × List Byte
  | 0 => (s, [])
  | n + 1 =>
    let (s, v) := s.free
    let (s, r) := s.heldBytes n
    (s, leBytes 8 v.toNat ++ r)

/-- What a pre-empted slot's record keeps of it (R342): a wait or hold reissues, and so does a `yield` (log 109); a `ralign` ends
(R91); a wait at a knot goes on (R215); a pending reply, the copy of an `shrecv` (R285) and an unanswered message (R295) complete in the record. A whole core's
save keeps who waits for slot 13 (R344). -/
def Slot.halted (x : Slot) (whole : Bool) : Slot :=
  match x.hold with
  | some (.ralign ..) => x.done 4
  | some (.knot n true) => { x with hold := some (.knot n true) }
  | some (.load i p dev) =>
    if replyPending i then { x with hold := some (.load i p dev) } else { x with hold := none, elems := [] }
  | some (.shrecv k d n a) => { x with hold := some (.shrecv k d n a) }
  | some (.message t n) => { x with hold := some (.message t n) }
  | some (.service cause block) => { x with hold := if whole then some (.service cause block) else none }
  | _ => { x with hold := none }

/-- The record still waits for something of its own. -/
def Slot.incomplete (x : Slot) : Bool :=
  match x.hold with
  | some (.load ..) | some (.shrecv ..) | some (.message ..) => true
  | _ => false

/-- The packets of a task on their way go with its saved context, or come back with it. -/
def State.portTo (s : State) (c : Coord) (vf : Nat) (old new : Standing) : State :=
  { s with port := s.port.map fun p => if p.coord == c && p.vf == vf && p.task == old then { p with task := new } else p }

/-- A change of the walks of a cluster. -/
def State.mapWalks (s : State) (c : Coord) (f : Walk → Walk) : State :=
  let cl := s.cluster c
  if cl.walk.isNone then s else s.setCluster c { cl with walk := cl.walk.map f, walkQ := cl.walkQ.map f }

/-- The record of a slot is written to the VF's context area, and the slot has no task (R342). Its owner stays (R234). -/
def State.saveSlot (s : State) (c : Coord) (whole : Bool) : State :=
  let s := match (s.core c).serving with
    | some k => if !whole && c.slot = k && !(s.core c).servedGone then s.serviceOver c else s
    | none => s
  let s := s.withdraw c
  -- a walk is suspended at a visit boundary (R313)
  let w : Standing := if whole then .saved else .displaced (s.depth c)
  let s := s.mapWalks c fun y => if y.of c then { y with suspended := true, task := w } else y
  let old := s.slot c
  let x := old.halted whole
  let s := (if x.hold.isNone then s.loosen c old else s).realign old
  let (s, held) := s.heldBytes 16
  let a := recordAddr (s.vf x.vf).ctxarea c
  -- the area has one place for the slot: the device keeps the bytes of another record of the VF that lie there (log 50)
  let s := (s.vf x.vf).standings.foldl (fun s o =>
    match s.savedAt x.vf o c with
    | some r => if r.kept.isNone then s.setSaved x.vf o c { r with kept := some (s.mem.read a 2688) } else s
    | none => s) s
  let s := s.deviceStore a (x.recordBytes ++ held)
  let s := s.setSaved x.vf w c { slot := x, held := held, kept := none }
  (s.portTo c x.vf .present w).setSlot c { Slot.reset with
    qown := x.qown, nextOwn := x.nextOwn, wakeLatch := false, lastIssue := x.lastIssue, retired := x.retired }

/-- The restored slot goes on: it takes the trap of a reply that was refused meanwhile (R325); a wait at a knot, or for slot 13, is
looked at again. -/
def State.resumed (s : State) (c : Coord) : State :=
  match (s.slot c).pend, (s.slot c).hold with
  | some (cause, tval), _ => (s.modSlot c fun x => { x with pend := none }).trapAt c cause tval (s.slot c).pc
  | none, some (.knot ..) => s.later .kwaitRelease (.at c)
  | none, some (.service ..) => if (s.core c).serving.isNone then s.later .shadowServiceStart (.at c) else s
  | none, _ => s

/-- The record of a slot has been read, and is gone: the latest of the VF's others whose bytes it had taken the place of comes back to it. -/
def State.recordRead (s : State) (c : Coord) (vf : Nat) (w : Standing) (r : Saved) : State :=
  let s := s.modVf vf fun v => v.setRecords w ((v.records w).erase c.key)
  let other (o : Standing) : Option (Standing × Saved × List Byte) :=
    (s.savedAt vf o c).bind fun q => q.kept.map fun b => (o, q, b)
  match r.kept, (s.vf vf).standings.reverse.findSome? other with
  | none, some (o, q, b) => (s.setSaved vf o c { q with kept := none }).deviceStore (recordAddr (s.vf vf).ctxarea c) b
  | _, _ => s

/-- The record of a slot is restored (R342): an altered one retires the slot with FAULT, one of an ended strand with
CUT. -/
def State.restoreSlot (s : State) (c : Coord) (vf : Nat) (w : Standing) : State :=
  match s.savedAt vf w c with
  | none => s
  | some r =>
    let a := recordAddr (s.vf vf).ctxarea c
    let b := r.kept.getD (s.mem.read a 2688)
    let s := (s.recordRead c vf w r).portTo c vf w .present
    let s := s.mapWalks c fun x => if x.coord = c && x.vf = vf && x.task = w then { x with task := .present } else x
    let y := s.slot c
    let x := { (r.slot.ofRecord b) with live := true, qown := y.qown, nextOwn := y.nextOwn, lastIssue := y.lastIssue }
    let s := s.setSlot c x
    -- a slot that slot 13 serves ends during the service (R332)
    let served := (s.core c).serving = some c.slot && (x.hold matches some (.service ..))
    let gone (s : State) : State := if served then s.modCore c fun k => { k with servedGone := true } else s
    if b.drop 0xA00 ≠ r.held then (gone s).retire c .fault
    else if !(s.die c.die).strandLive x.strand then (gone s).retire c .cut
    else s.resumed c

/-! ## Class pre-emption (R236) -/

/-- A queue owns a landing slot: a reserved slot 11 is none (R234). -/
def State.owns (s : State) (q : Nat) (w : Coord) : Bool := (s.reserved w).isNone && (s.slot w).qown.toNat == q

/-- The landing slots of a die that a queue owns. -/
def State.ownedBy (s : State) (d : BitVec 3) (q : Nat) : List Coord :=
  (clustersOf d).flatMap fun cl =>
    (Coord.cores { die := d, cluster := cl, core := 0, slot := 0 }).flatMap fun k =>
      (landing k).filter fun w => s.owns q w

/-- When the task of a landing slot ends, strand 0 last. -/
def State.taskExpiry (s : State) (c : Coord) : Nat :=
  let id := (s.slot c).strand
  if id = 0 then 2 ^ 80 else (s.die c.die).expiryAt id

/-- The task that gives way: the lowest class, then the latest expiry, and of equal ones (as two of strand 0) that of the lowest-numbered
landing slot (log 50). -/
def State.giveWay (s : State) (l : List Coord) : Option Coord :=
  l.foldl (fun o c =>
    match o with
    | none => some c
    | some b =>
      let x := (s.slot c).cls.toNat
      let y := (s.slot b).cls.toNat
      if x < y || (x == y && s.taskExpiry b < s.taskExpiry c) then some c else some b) none

/-- A landing slot whose task may give way to the entry: the entry can start there, and the context area is enabled (log 50). -/
def State.displaceable (s : State) (e : QEntry) (w : Coord) : Bool := s.takes w e && bit (s.vf (s.slot w).vf).ctxarea 63

/-- `CLASS_PREEMPT` for queue `arg.n` of the die `arg.c`: its first ready entry displaces a task when every landing slot
that the queue owns runs one of a lower class. An entry in a prefetch buffer has left its queue, and is not first in it (log 96). -/
def execClassPreempt (s : State) : Res :=
  let d := s.arg.c.die
  let q := s.arg.n
  .next (
    if !((s.die d).queue q).enabled then s
    else
      match s.firstEntry d q fun _ => true with
      | (s, none) => s
      | (s, some e) =>
        let own := s.ownedBy d q
        if own.isEmpty || own.any fun w => !(s.slot w).live || e.cls.toNat ≤ (s.slot w).cls.toNat then s
        else
          match s.giveWay (own.filter (s.displaceable e)) with
          | none => s
          | some w =>
            let s := (s.saveSlot w false).modDie d fun x => { x with displaced := x.displaced ++ [(w.key, q)] }
            match s.fit w e with
            | none => s
            | some (l, k) => ((s.removeEntry d q e).startTask w e l k).dispatchRead w)

/-- The latest of the displaced tasks of a slot waits for it no more. -/
def Die.undisplaced (x : Die) (key : Nat) : Die :=
  { x with displaced := match takeFirst (·.1 == key) x.displaced.reverse with | some (_, r) => r.reverse | none => x.displaced }

/-- The VF whose context area holds the latest of the displaced tasks of a slot, where that stands, and its record. -/
def State.displacedLast (s : State) (c : Coord) : Option (Nat × Standing × Saved) :=
  let w : Standing := .displaced (s.depth c - 1)
  s.vfs.findSome? fun v => ((v.2.records w).find? c.key).map fun r => (v.1, w, r)

/-- `DISPLACED_TASK_RESUME`: the displaced task of the slot `arg.c` resumes once the slot is free and its queue owns it; of several, the
one that was displaced last (log 50). A record that waits for a reply stays (R342). -/
def execDisplacedTaskResume (s : State) : Res :=
  let c := s.arg.c
  .next (
    match (s.die c.die).displaced.reverse.find? (·.1 == c.key) with
    | none => s
    | some (_, q) =>
      if (s.slot c).live || !s.owns q c then s
      else
        match s.displacedLast c with
        | none => (s.modDie c.die (·.undisplaced c.key)).landingFree c
        | some (vf, w, r) =>
          if r.slot.incomplete || s.paused vf then s
          else ((s.modDie c.die (·.undisplaced c.key)).restoreSlot c vf w).preemptChecks c.die)

/-! ## Levelling (R237) -/

/-- The cluster of the crew that an entry's hint names. -/
def State.hintedTo (s : State) (d : BitVec 3) (e : QEntry) : Option (BitVec 6) :=
  if e.hint = 0xFFFF then none
  else
    (e.launch.bind ((s.die d).launch? e.vf)).bind fun l =>
      (l.crews.find? fun k => k.live && k.index == e.hint.toNat).map (·.cluster)

/-- The ready entries of the levellable queues that are hinted to a cluster, in the order of R233. One in a prefetch buffer has left its
queue: it neither counts nor moves (log 96). -/
def State.hinted (s : State) (d : BitVec 3) (cl : BitVec 6) : List QEntry :=
  let x := s.die d
  sortBy QEntry.rank (((List.range 64).map fun q => x.queue q).flatMap fun k =>
    if k.enabled && bit k.cfg 53 then
      k.entries.filter fun e => x.strandLive e.strand && s.hintedTo d e == some cl
    else [])

/-- The crew of an entry's launch on a cluster, as a hint: the first of the launch's crews there that is live (log 97). -/
def State.rehint (s : State) (d : BitVec 3) (cl : BitVec 6) (e : QEntry) : Option QEntry :=
  (e.launch.bind ((s.die d).launch? e.vf)).bind fun l =>
    (l.crews.find? fun k => k.live && k.cluster == cl).map fun k => { e with hint := BitVec.ofNat 16 k.index }

/-- The neighbour with the fewest hinted entries, the lower number winning a tie. -/
def State.neighbour (s : State) (c : Coord) : Option (BitVec 6 × Nat) :=
  let n := c.cluster.toNat
  let near := (if n = 0 then [] else [n - 1]) ++ if n + 1 < clusterCount c.die then [n + 1] else []
  near.foldl (fun (o : Option (BitVec 6 × Nat)) k =>
    let y := BitVec.ofNat 6 k
    let p := (s.hinted c.die y).length
    match o with
    | none => some (y, p)
    | some (_, p') => if p < p' then some (y, p) else o) none

/-- `LOAD_LEVEL` for the cluster `arg.c`. -/
def execLoadLevel (s : State) : Res :=
  let c := s.arg.c
  let d := c.die
  let mine := s.hinted d c.cluster
  .next (
    match s.neighbour c with
    | none => s
    | some (y, p) =>
      if p + 1 < mine.length then
        let moves := (mine.reverse.filterMap fun e => (s.rehint d y e).map fun e' => (e, e')).take ((mine.length - p) / 2)
        let s := moves.foldl (fun s m =>
          s.modDie d fun x => x.setQueue m.1.queue { x.queue m.1.queue with
            entries := updFirst (· == m.1) (fun _ => m.2) (x.queue m.1.queue).entries }) s
        -- the queues' first entries may fit other landing slots than before (R236)
        let s := ((moves.map (·.1.queue)).eraseDups).foldl (fun s q => s.preemptCheck d q) s
        s.laters (moves.flatMap fun m => s.offer d m.2).eraseDups
      else s)

end Sys2Proof.Machine
end

