-- ==== Sys2Proof/Machine/Skeins.lean ====
section
/-! DEFINITION. Skeins (R262 to R276): capacity and placement, the copies between shares and backing copies (log 17), a launch's
skein list (step 2 of R227), `skfind` and `skflush`, and eviction and restore. -/
namespace Sys2Proof.Machine

/-! ## Capacity and placement (R262, R263, R268) -/

/-- Units of 64 KiB (stack) or 128 KiB (banks) of the VF's region on a cluster: first and count. -/
def skRegion (cap : Dword) (banks : Bool) (die : BitVec 3) : Nat × Nat :=
  if banks then
    let first := fldN cap 58 4
    let n := fldN cap 54 4
    (first, if 8 < n then 0 else min n (16 - first))
  else
    let first := fldN cap 32 11
    (first, min (fldN cap 43 11) ((if isMatrix die then 256 else 1024) - first))

/-- Bytes of a unit. -/
def skUnit (banks : Bool) : Nat := if banks then 2 ^ 17 else 2 ^ 16

/-- Share size in bytes, and in units. -/
def Skein.bytes (k : Skein) : Nat := k.size * 2 ^ 16
def Skein.units (k : Skein) : Nat := if k.banks then k.size / 2 else k.size

/-- The byte of a cluster's stack partition in its die's stack (R18, R132). -/
def partitionBase (die : BitVec 3) (cl : BitVec 6) : Nat := cl.toNat * (if isMatrix die then 2 ^ 24 else 2 ^ 26)

/-- Where a share's bytes start in the flat space. -/
def Skein.shareAddr (k : Skein) (sh : BitVec 3 × BitVec 6 × Nat) : Nat :=
  if k.banks then bankAddr (sh.1.toNat * 64 + sh.2.1.toNat) sh.2.2 else stackAddr sh.1.toNat sh.2.2

def Die.skeins (x : Die) (vf : Nat) : List Skein := x.dirs.get vf []
def Die.setSkeins (x : Die) (vf : Nat) (l : List Skein) : Die := { x with dirs := x.dirs.put vf l [] }
def Die.skein? (x : Die) (vf : Nat) (name : Dword) : Option Skein := (x.skeins vf).find? (·.name == name)
def Die.modSkein (x : Die) (vf : Nat) (name : Dword) (f : Skein → Skein) : Die :=
  x.setSkeins vf ((x.skeins vf).map fun k => if k.name == name then f k else k)
def State.modSkein (s : State) (d : BitVec 3) (vf : Nat) (name : Dword) (f : Skein → Skein) : State :=
  s.modDie d fun x => x.modSkein vf name f

/-- Units of a cluster's region that shares of the VF hold: first and count. -/
def usedUnits (l : List Skein) (banks : Bool) (die : BitVec 3) (cl : BitVec 6) : List (Nat × Nat) :=
  l.flatMap fun k =>
    if k.banks != banks || k.state == .evicted then []
    else
      (k.shares.filter fun sh => sh.1 == die && sh.2.1 == cl).map fun sh =>
        ((sh.2.2 - if banks then 0 else partitionBase die cl) / skUnit banks, k.units)

/-- The lowest free run of `z` units of a cluster's region, with the region's free units. -/
def fitOn (cap : Dword) (l : List Skein) (banks : Bool) (z : Nat) (die : BitVec 3) (cl : BitVec 6) :
    Option (Nat × Nat) :=
  let (first, n) := skRegion cap banks die
  let used := usedUnits l banks die cl
  let free := n - (used.map (·.2)).foldl (· + ·) 0
  let clear (u : Nat) : Bool := used.all fun r => r.1 + r.2 ≤ u || u + z ≤ r.1
  (((List.range (n + 1 - z)).map (first + ·)).find? fun u => z ≤ n && clear u).map fun u => (u, free)

/-- The dies of a skein's die kind. -/
def skDies (matrixDies : Bool) : List (BitVec 3) := if matrixDies then [4, 5, 6, 7] else [0, 1, 2, 3]

/-- R268: the shares of a placement, if it succeeds. Share s, which R264 backs at s * z, goes to the s-th cluster in the order of the ranks
(log 114). -/
def State.placeShares (s : State) (d : BitVec 3) (vf : Nat) (k : Skein) (nsh : Nat) :
    Option (List (BitVec 3 × BitVec 6 × Nat)) :=
  let x := s.die d
  let cap := x.skcap.get vf 0
  let l := x.skeins vf
  let fit := (skDies k.matrixDies).flatMap fun die => (clustersOf die).filterMap fun cl =>
    (fitOn cap l k.banks k.units die cl).map fun r => (r.2, die, cl, r.1)
  let ranked := (sortBy (fun f : Nat × BitVec 3 × BitVec 6 × Nat => 2048 - f.1) fit).take nsh
  if ranked.length < nsh then none
  else some (ranked.map fun f =>
    (f.2.1, f.2.2.1, (if k.banks then 0 else partitionBase f.2.1 f.2.2.1) + f.2.2.2 * skUnit k.banks))

/-- The victim of R268: a skein whose shares are still being read is resident in the directory. Of two with one last-attach id, as one
packet leaves them, it is the first in the order in which they were made (log 113). -/
def State.victim (s : State) (d : BitVec 3) (vf : Nat) (k : Skein) (named : List Dword) : Option Skein :=
  (((s.die d).skeins vf).filter fun v =>
    v.state == .resident && !v.pinned && v.banks == k.banks && v.matrixDies == k.matrixDies
      && !named.contains v.name).foldl (fun o v => match o with
    | none => some v
    | some w => if v.lastAttach.toNat < w.lastAttach.toNat then some v else o) none

/-! ## Copies (R271) -/

/-- The leaf's flat address for a KiB of the VF's device space, as a controller of cluster `c` reaches it. -/
def State.backingAddr (s : State) (c : Coord) (vf : Nat) (va : Nat) (need : BitVec 4) : Option Nat :=
  let v := BitVec.ofNat 48 va
  (s.leafFor c vf none false v need).map fun leaf => leafAddr leaf false (s.pageUnit vf false v).2 v

/-- The bytes of those 8-byte words among `n` at `src` that `ok` lets through, for the same place at `dst`. -/
def Memory.wordsFrom (m : Memory) (src dst n : Nat) (ok : Nat → Bool) : List (Nat × Byte) :=
  ((List.range n).filter ok).flatMap fun i =>
    (List.range 8).map fun j => (dst + 8 * i + j, m.byte (src + 8 * i + j))

/-- A word at an address is refused to a cluster's controller (R146). -/
def wordRefused (m : Memory) (cl : Nat) (a : Nat) : Bool := (firstRefused m cl ((List.range 8).map (a + ·))).isSome

/-- Writes one KiB of a share back; what faults is left unwritten. -/
def State.backKb (s : State) (c : Coord) (vf : Nat) (share va : Nat) : State :=
  match s.backingAddr c vf va rightW with
  | none => s
  | some b =>
    let cl := c.clusterKey
    let addrs := (List.range 1024).map (b + ·)
    State.store { s with mem := s.cohStore cl 0 addrs }
      (s.mem.wordsFrom share b 128 fun i => !wordRefused s.mem cl (share + 8 * i) && !wordRefused s.mem cl (b + 8 * i)) 0

/-- Reads one KiB of a share from its backing copy; a word that is not restored becomes poison. -/
def State.restoreKb (s : State) (c : Coord) (vf : Nat) (share va : Nat) : State :=
  let poison (s : State) (p : Nat → Bool) : State :=
    { s with mem := ((List.range 128).filter p).foldl (fun m i => m.setTag (share + 8 * i) 3) s.mem }
  match s.backingAddr c vf va rightR with
  | none => poison s fun _ => true
  | some b =>
    let bad (i : Nat) : Bool := wordRefused s.mem c.clusterKey (b + 8 * i)
    let s := { s with mem := s.cohStore c.clusterKey 2 ((List.range 1024).map (share + ·)) }
    poison (s.store (s.mem.wordsFrom b share 128 fun i => !bad i) 0) bad

/-- A copy of the shares of a skein, KiB by KiB, each by the controllers of the share's cluster. -/
def State.eachShare (s : State) (k : Skein) (f : State → Coord → Nat → Nat → State) : State :=
  ((List.range k.shares.length).zip k.shares).foldl (fun s x =>
    let sh := x.2
    let c : Coord := { die := sh.1, cluster := sh.2.1, core := 0, slot := 0 }
    let base := k.back.toNat * 2 ^ 21 + x.1 * k.bytes
    (List.range (k.size * 64)).foldl (fun s i => f s c (k.shareAddr sh + 1024 * i) (base + 1024 * i)) s) s

/-- Every share is written back to its backing copy. -/
def State.writeBackShares (s : State) (vf : Nat) (k : Skein) : State :=
  s.eachShare k fun s c a va => s.backKb c vf a va

/-- Every share is read from its backing copy. -/
def State.restoreShares (s : State) (vf : Nat) (k : Skein) : State :=
  s.eachShare k fun s c a va => s.restoreKb c vf a va

/-- The shares of a made skein are zero with tags 00 (R267); a word that holds poison stays as it is, since making a skein is none of the
writes that R146 and R338 let clear it (log 80). The words become empty, as `zline` leaves them (log 115). -/
def State.clearShares (s : State) (k : Skein) : State :=
  { s with mem := k.shares.foldl (fun m sh => m.clearUnpoisoned (k.shareAddr sh) k.bytes) s.mem }

/-- The placement of the skein is among those recorded, or an earlier one than the last of them. -/
def Skein.isIn (k : Skein) (l : List ((Dword × Dword) × Nat)) : Bool := l.any fun w => w.1 == (k.name, k.made) && k.placed ≤ w.2

/-- The placement of the skein is recorded as the last one. -/
def Skein.recordIn (k : Skein) (l : List ((Dword × Dword) × Nat)) : List ((Dword × Dword) × Nat) :=
  l.filter (·.1 != (k.name, k.made)) ++ [((k.name, k.made), k.placed)]

/-- The placement's shares are still to be read from their backing copies (R268, R270). -/
def State.restoring (s : State) (vf : Nat) (k : Skein) : Bool := !k.isIn (s.vf vf).restored

/-- The placement has been evicted and written back already, by another die that applied the eviction (log 17). -/
def State.evictedElsewhere (s : State) (vf : Nat) (k : Skein) : Bool := k.isIn (s.vf vf).wroteBack

/-- The shares of a placement hold the skein's data: the first die that applies a make clears all of them, and the first that
completes a restore reads all of them, so that a die that lags, or that dropped the packet, neither holds the others up nor brings
a share in a second time (log 54). -/
def State.bringIn (s : State) (vf : Nat) (k : Skein) (f : State → State) : State :=
  if s.restoring vf k then (f s).modVf vf fun y => { y with restored := k.recordIn y.restored } else s

/-! ## The skein list of a launch (R264, R266, R267) -/

/-- The entries of a VF's launch queue that a die has passed. -/
def State.lqPassed (s : State) (vf : Nat) (d : BitVec 3) : Nat := s.mem.readNat (physBase (s.vf vf).lqbase + 16 + 8 * d.toNat) 8

/-- What treating one entry of the list does. -/
inductive SkOut where
  | go (s : State)
  /-- Step 2 waits, and the distribution is tried again. -/
  | wait (s : State)
  /-- The packet is dropped; evictions and restores already performed stand (R267). -/
  | drop (s : State) (st : Byte)

def accMake (a : Dword) : Bool := fldN a 0 2 == 2

/-- The access dword is legal (R264). -/
def accOk (a : Dword) : Bool :=
  if accMake a then
    fldN a 32 5 == 0 && fldN a 2 6 == 0 && 1 ≤ fldN a 16 16 && fldN a 16 16 ≤ 1024
      && (!bit a 9 || fldN a 16 16 % 2 == 0)
  else fldN a 0 2 != 3 && fldN a 2 62 == 0

/-- The shares of a placement, or the eviction that has to come first: it waits until every attachment of the victim has ended, and
until its shares have been read. -/
def State.placeOrEvict (s : State) (d : BitVec 3) (vf : Nat) (named : List Dword) (k : Skein) (nsh : Nat)
    (f : List (BitVec 3 × BitVec 6 × Nat) → SkOut) : SkOut :=
  match s.placeShares d vf k nsh with
  | some shares => f shares
  | none =>
    match s.victim d vf k named with
    | none => .drop s 0x27
    | some v =>
      if v.attached.isEmpty && !s.restoring vf v then .wait (s.later .skeinEviction { EvArg.dieVf d vf with v := v.name }) else .wait s

/-- One entry of the list: name and access dword. An entry already treated for this packet stands. -/
def State.skeinOne (s : State) (d : BitVec 3) (vf : Nat) (id : Dword) (named : List Dword) (e : Dword × Dword) :
    SkOut :=
  let x := s.die d
  let name := e.1
  if name = 0 || 1 < (named.filter (· == name)).length || !accOk e.2 then .drop s 0x20
  else
    let held := x.skein? vf name
    if (match held with | some k => k.attached.any (·.1 == id) | none => false) then .go s
    else if accMake e.2 then
      if held.isSome then .drop s 0x20
      else if 256 ≤ (x.skeins vf).length then .drop s 0x27
      else
        let k : Skein := {
          name := name, made := id, back := fld e.2 37 27, size := fldN e.2 16 16, banks := bit e.2 9, matrixDies := bit e.2 8
          shares := [], lastAttach := id, prevAttach := id, pinned := false, state := .resident
          placed := id.toNat, attached := [(id, true)] }
        s.placeOrEvict d vf named k (fldN e.2 10 6 + 1) fun shares =>
          let k := { k with shares := shares }
          .go ((s.modDie d fun x => x.setSkeins vf (x.skeins vf ++ [k])).bringIn vf k (·.clearShares k))
    else
      match held with
      | none => .drop s 0x20
      | some k =>
        let rw := fldN e.2 0 2 == 1
        if k.state == .released then .drop s 0x20
        else if k.attached.any fun a => rw || a.2 then .wait s
        else
          let attach (s : State) : State :=
            s.modSkein d vf name fun k =>
              { k with attached := k.attached ++ [(id, rw)], prevAttach := k.lastAttach, lastAttach := id }
          if k.state == .evicted then
            s.placeOrEvict d vf named k k.shares.length fun shares =>
              .go ((attach (s.modSkein d vf name fun k => { k with shares := shares, state := .resident, placed := id.toNat })).later
                .skeinRestoreComplete { EvArg.dieVf d vf with v := name })
          else .go (attach s)

/-- The list in ascending order. -/
def State.skeinList (s : State) (d : BitVec 3) (vf : Nat) (id : Dword) (named : List Dword) :
    List (Dword × Dword) → SkOut
  | [] => .go s
  | e :: r =>
    match s.skeinOne d vf id named e with
    | .go s => s.skeinList d vf id named r
    | o => o

/-- A dropped packet's attachments and skeins are undone (R267). -/
def State.undoSkeins (s : State) (d : BitVec 3) (vf : Nat) (id : Dword) : State :=
  s.modDie d fun x =>
    x.setSkeins vf ((x.skeins vf).filterMap fun k =>
      if k.attached.any (·.1 == id) then
        if k.prevAttach = id then none
        else some { k with attached := k.attached.filter (·.1 != id), lastAttach := k.prevAttach }
      else some k)

/-- The attachments of a launch end (R269); a released skein without one is freed (R266). -/
def State.detach (s : State) (d : BitVec 3) (vf : Nat) (id : Dword) : State :=
  s.modDie d fun x =>
    x.setSkeins vf (((x.skeins vf).map fun k => { k with attached := k.attached.filter (·.1 != id) }).filter fun k =>
      !(k.state == .released && k.attached.isEmpty))

/-- `SKEIN_EVICTION` on die `arg.c` of the skein `arg.v` of `arg.vf`: every share is written back, and then the space is free. The first
die that evicts the placement writes all of its shares back, so that no die frees or restores one before that (R268, R272). -/
def execSkeinEviction (s : State) : Res :=
  let d := s.arg.c.die
  let vf := s.arg.vf
  .next (
    match (s.die d).skein? vf s.arg.v with
    | none => s
    | some k =>
      if k.state == .resident && !s.restoring vf k && !k.pinned && k.attached.isEmpty then
        let s := if s.evictedElsewhere vf k then s
          else (s.writeBackShares vf k).modVf vf fun y => { y with wroteBack := k.recordIn y.wroteBack }
        -- the share count stays with the entry: its places are no longer held
        (s.modSkein d vf k.name fun k => { k with state := .evicted }).later .launchDistribute (.dieVf d vf)
      else s)

/-- `SKEIN_RESTORE_COMPLETE`: every share of the placement has been read from its backing copy. Launches that wait go on. -/
def execSkeinRestoreComplete (s : State) : Res :=
  let d := s.arg.c.die
  let vf := s.arg.vf
  .next (
    match (s.die d).skein? vf s.arg.v with
    | none => s
    | some k =>
      if k.state != .evicted && s.restoring vf k then
        let s := s.bringIn vf k (·.restoreShares vf k)
        let s := s.laters (allDies.map fun d => (Instr.launchDistribute, EvArg.dieVf d vf))
        s.laters (s.slots.filterMap fun (c, x) =>
          match x.hold with
          | some (.skflush _) => some (Instr.skflushComplete, EvArg.at (Coord.ofKey c))
          | _ => none)
      else s)

/-! ## `skfind` (R273) -/

/-- The index of a name in the skein list of the slot's launch, and its access dword. -/
def State.skeinIndex (s : State) (name : Dword) : Option (Nat × Dword) :=
  (s.launchOf s.cur).bind fun l =>
    (l.skeins.findIdx? fun e => e.1 == name).map fun j => (j, ((l.skeins.getD j (0, 0)).2))

/-- The share that the slot reaches: its cluster's, or for a stack skein the die's lowest. -/
def Skein.reachable (k : Skein) (c : Coord) : Option (BitVec 3 × BitVec 6 × Nat) :=
  if k.state == .evicted then none
  else
    match k.shares.find? fun sh => sh.1 == c.die && sh.2.1 == c.cluster with
    | some sh => some sh
    | none =>
      if k.banks then none
      else
        (k.shares.filter fun sh => sh.1 == c.die).foldl (fun o sh => match o with
          | none => some sh
          | some b => if sh.2.1.toNat < b.2.1.toNat then some sh else o) none

/-- The segment register of a share (R273). -/
def Skein.segment (k : Skein) (acc : Dword) (sh : BitVec 3 × BitVec 6 × Nat) : BitVec 128 :=
  let rights : Nat := if fldN acc 0 2 = 0 then 8 else 13
  let hi := (if k.banks then 2 else 7) * 2 ^ 60 + rights * 2 ^ 56 + k.bytes
  BitVec.ofNat 128 (hi * 2 ^ 64 + sh.2.2)

def execSkfind (d a : BitVec 5) (s : State) : Res :=
  let name := s.rg a
  .next (
    match s.skeinIndex name with
    | none => s.trap 0x06 name
    | some (j, acc) =>
      match ((s.die s.cur.die).skein? s.me.vf name).bind fun k => (k.reachable s.cur).map fun sh => (k, sh) with
      | none => (s.wg d 0).advance 4
      | some (k, sh) =>
        if s.restoring s.me.vf k then s.trap 0x10 name
        else
          let n := 7 - j
          ((s.modMe fun x => { x with sg := x.sg.setIfInBounds n (k.segment acc sh) }).wg d
            (BitVec.ofNat 64 (n * 2 ^ 61))).advance 4)

/-! ## `skflush` (R275) -/

def execSkflush (a : BitVec 5) (s : State) : Res :=
  let name := s.rg a
  .next (
    match s.skeinIndex name with
    | none => s.trap 0x06 name
    | some _ => (s.leave (.skflush name)).later .skflushComplete (.at s.cur))

/-- `SKFLUSH_COMPLETE`: every share is written back, earlier stores of the slot included, and the slot returns. A share that is
still being restored is written back once it has been restored, and a store that waits behind a packet which a `wake` or the peer path
has to finish is waited for. -/
def execSkflushComplete (s : State) : Res :=
  let c := s.arg.c
  let x := s.slot c
  .next (
    match x.hold with
    | some (.skflush name) =>
      match (s.die c.die).skein? x.vf name with
      | none => s.complete c 4
      | some k =>
        if k.state == .evicted then s.complete c 4
        else if s.restoring x.vf k then s
        else
          let s := s.drain c
          if s.port.any fun p => p.of c && (p.isHere || p.holdsBack s.dev.devno) then s
          else (s.writeBackShares x.vf k).complete c 4
    | _ => s)

end Sys2Proof.Machine
end

