-- ==== Sys2Proof/Machine/Launches.lean ====
section
/-! DEFINITION. The launch port and the launch queue (R366 to R368), the distribution algorithm (R225 to R228, R245), directory
packets and stage maps (R238, R274), the end of a launch (R269), and `skrel` and `skpin` (R274). -/
namespace Sys2Proof.Machine

/-! ## The launch queue (R368) -/

/-- Bytes of the device's own control lines and queue entries. -/
def State.hardStore (s : State) (a : Nat) (bytes : List Byte) : State := s.deviceStore a bytes

def Vf.lqBase (x : Vf) : Nat := physBase x.lqbase
def Vf.lqN (x : Vf) : Nat := x.lqsize.toNat

def State.lqTail (s : State) (vf : Nat) : Nat := s.mem.readNat (s.vf vf).lqBase 8
def State.lqCommon (s : State) (vf : Nat) : Nat := s.mem.readNat ((s.vf vf).lqBase + 8) 8
/-- The address of entry `k`. -/
def State.lqEntry (s : State) (vf k : Nat) : Nat := (s.vf vf).lqBase + 128 + 256 * (k % (s.vf vf).lqN)

/-- The queue takes no entry: it is full or disabled. -/
def State.lqFull (s : State) (vf : Nat) : Bool :=
  !ringSizeOk (s.vf vf).lqsize || (s.vf vf).lqN ≤ s.lqTail vf - s.lqCommon vf

/-- A packet enters the queue (R368): its id, then the record, then the tail. -/
def State.lqAppend (s : State) (vf : Nat) (packet : Vector Dword 16) (source : Nat) (sup : Bool) : State :=
  let k := s.lqTail vf
  let id := (s.vf vf).lastId + 1
  let s := s.modVf vf fun x => { x with lastId := id }
  let bytes := ((packet.set 2 id).toList.map fun d => leBytes 8 d.toNat).flatten
    ++ leBytes 8 (source + if sup then 4 else 0) ++ leBytes 8 (s.now 0) ++ leBytes 112 0
  let s := s.hardStore (s.lqEntry vf k) bytes
  let s := s.hardStore (s.vf vf).lqBase (leBytes 8 (k + 1))
  s.laters (allDies.map fun d => (Instr.launchDistribute, EvArg.dieVf d vf))

/-- Sixteen dwords at an address. -/
def State.packetAt (s : State) (a : Nat) : Vector Dword 16 := Vector.ofFn fun i => s.mem.dword (a + 8 * i.val)

/-- The ready head of a submission ring: its address. -/
def State.ringReady (s : State) (vf r : Nat) : Option Nat :=
  match s.ringHead vf r with
  | some a => if s.mem.readNat (a + 16) 8 = s.ringConsumed ((s.vf vf).sqbase.getD r 0) + 1 then some a else none
  | none => none

/-- The first ready head, ring 1 first. -/
def State.readyRing (s : State) (vf : Nat) : Option (Nat × Nat) :=
  match s.ringReady vf 1 with
  | some a => some (1, a)
  | none => (s.ringReady vf 0).map fun a => (0, a)

/-- `LAUNCH_PORT_TAKE` of the VF `arg.vf`: a packet of the device itself, or the first ready head. Its source is the host where the
last write to the entry's line came over the host link, else a device program (R368; log 53). A VF under pre-emption takes
nothing. -/
def execLaunchPortTake (s : State) : Res :=
  let vf := s.arg.vf
  let x := s.vf vf
  .next (
    if s.lqFull vf || s.paused vf then s
    else
      match x.portQ with
      | p :: rest => ((s.modVf vf fun x => { x with portQ := rest }).lqAppend vf p 2 false).later .launchPortTake (.ofVf vf)
      | [] =>
        match s.readyRing vf with
        | none => s
        | some (r, a) =>
          let base := x.sqbase.getD r 0
          let n := s.ringConsumed base + 1
          let s := s.lqAppend vf (s.packetAt a) (if s.mem.hostLines.contains (lineOf a) then 0 else 1) (r == 1)
          (s.hardStore (physBase base + 8) (leBytes 8 n)).later .launchPortTake (.ofVf vf))

/-- A die passes entry `k` with its outcome: the status byte, its count, and the common count when that rises. -/
def State.lqPass (s : State) (vf : Nat) (d : BitVec 3) (k : Nat) (st : Byte) : State :=
  let base := (s.vf vf).lqBase
  let s := s.hardStore (s.lqEntry vf k + 0x90 + d.toNat) [st]
  let s := s.hardStore (base + 16 + 8 * d.toNat) (leBytes 8 (k + 1))
  let low := allDies.foldl (fun m d => min m (s.lqPassed vf d)) (k + 1)
  let s :=
    if s.lqCommon vf < low then
      let s := (s.hardStore (base + 8) (leBytes 8 low)).later .launchPortTake (.ofVf vf)
      s.unhold fun y => y.vf == vf && y.hold == some .dirQueue
    else s
  -- the die reads on, and a die behind the tail may have waited for this one
  s.laters ((allDies.filter fun t => t == d || s.lqPassed vf t < s.lqTail vf).map fun t =>
    (Instr.launchDistribute, EvArg.dieVf t vf))

/-! ## Reading a packet (R225 to R227) -/

def pkCrews (p : Vector Dword 16) : Nat := fldN (p.get 3) 48 16
def pkKind (p : Vector Dword 16) : Nat := fldN (p.get 3) 30 2
def pkStage (p : Vector Dword 16) : Nat := fldN (p.get 3) 36 4
def pkNsk (p : Vector Dword 16) : Nat := fldN (p.get 3) 16 8
def pkFlag (p : Vector Dword 16) (i : Nat) : Bool := bit (p.get 3) (8 + i)
def pkStrand (p : Vector Dword 16) : BitVec 24 := fld (p.get 5) 40 24

/-- Step 1: kind, ranges, zero fields and the done pointer. -/
def pkFieldsOk (p : Vector Dword 16) : Bool :=
  let d := p.get 3
  let cores := fldN d 44 4
  let slots := fldN d 40 4
  1 ≤ pkCrews p && 1 ≤ cores && cores ≤ 8 && 1 ≤ slots && slots ≤ 12 && pkKind p != 3 && pkNsk p ≤ 8
    && fldN d 10 5 == 0 && fldN d 2 6 == 0 && (p.toList.drop 8).all (· == 0) && (p.get 7).toNat % 16 == 0

/-- A device-kind segment that covers the VF's space (R226, R229). -/
def deviceSeg : BitVec 128 := BitVec.ofNat 128 ((4 * 2 ^ 60 + 15 * 2 ^ 56 + 2 ^ 48 - 1) * 2 ^ 64)

/-- A device-kind load of the VF by a die's launch reader; none where it faults or is refused. -/
def State.readerLoad (s : State) (d : BitVec 3) (vf : Nat) (p : Dword) (n : Nat) : Option (List Byte) :=
  let c := dieCoord d
  match s.enginePlace c vf none { p := p, seg := deviceSeg } n rightR with
  | .error _ => none
  | .ok pl => if (firstRefused s.mem c.clusterKey pl.addrs).isSome then none else some (s.mem.bytesAt pl.addrs)

/-- The segment registers and the skein list of a packet. -/
def State.readTables (s : State) (d : BitVec 3) (vf : Nat) (p : Vector Dword 16) :
    Option (Vector (BitVec 128) 8 × List (Dword × Dword)) :=
  let nsk := pkNsk p
  let entry (b : List Byte) (i : Nat) : Nat := leNat ((b.drop (16 * i)).take 16)
  if (p.get 6).toNat % 16 ≠ 0 then none
  else
    match s.readerLoad d vf (p.get 6) 128 with
    | none => none
    | some t =>
      match if nsk = 0 then some [] else s.readerLoad d vf (p.get 4) (16 * nsk) with
      | none => none
      | some l =>
        let reg (i : Nat) : BitVec 128 :=
          if 8 - nsk ≤ i then 0 else putFld (BitVec.ofNat 128 (entry t i)) 112 (0 : BitVec 6)
        some (Vector.ofFn fun i => reg i.val,
          (List.range nsk).map fun j => (fld (BitVec.ofNat 128 (entry l j)) 0 64, fld (BitVec.ofNat 128 (entry l j)) 64 64))

/-- Step 1's strand (R227, R245, R248): the new state, and whether the packet goes on. -/
def State.packetStrand (s : State) (d : BitVec 3) (vf : Nat) (p : Vector Dword 16) : State × Bool :=
  let id := pkStrand p
  if id = 0 then (s, true)
  else if pkFlag p 1 && !(s.die d).strandEnded id then
    let alw := min (fldN (p.get 5) 0 32) (2 ^ 32 - 2)
    match (s.die d).receiptOne 0 vf id (s.now d + alw - fldN (s.die d).linkb 48 16) with
    | some x => (s.setDie d x, true)
    | none => (s.count d vf 12, false)
  else if (s.die d).strandLive id then (s, true)
  else (s.count d vf 5, false)

/-! ## Candidates, hash and placement (steps 3 to 5) -/

/-- The die kinds of a packet. -/
def kindDies (kind : Nat) : List (BitVec 3) :=
  if kind = 1 then [0, 1, 2, 3] else if kind = 2 then [4, 5, 6, 7] else allDies

/-- L: ordered by die and cluster. -/
def State.candidates (s : State) (d : BitVec 3) (vf : Nat) (p : Vector Dword 16) (skeins : List (Dword × Dword)) :
    List (BitVec 3 × BitVec 6) :=
  match skeins with
  | e :: _ =>
    match (s.die d).skein? vf e.1 with
    | some k => sortBy (fun x : BitVec 3 × BitVec 6 => x.1.toNat * 64 + x.2.toNat) (k.shares.map fun sh => (sh.1, sh.2.1))
    | none => []
  | [] =>
    (kindDies (pkKind p)).flatMap fun t =>
      let cls := (clustersOf t).map fun c => (t, c)
      match (s.die d).maps.find? (vf * 8 + t.toNat) with
      | none => cls
      | some m => cls.filter fun c => m.getD c.2.toNat 0 == pkStage p

/-- R227 step 4. -/
def launchHash (id : Dword) (n : Nat) : Nat :=
  ((fld id 0 32 : Word) ^^^ fld id 32 32 ^^^ ((fld id 0 32 : Word) >>> 13)).toNat % n

/-- The cluster of crew `i`. -/
def crewPlace (l : List (BitVec 3 × BitVec 6)) (h i : Nat) : BitVec 3 × BitVec 6 := l.getD ((h + i) % l.length) (0, 0)

/-! ## Waiting dies (R268, R269) -/

/-- Every share of the named skeins is restored, on every die. -/
def State.allRestored (s : State) (d : BitVec 3) (vf : Nat) (skeins : List (Dword × Dword)) : Bool :=
  skeins.all fun e =>
    match (s.die d).skein? vf e.1 with
    | none => true
    | some x => !s.restoring vf x

/-- A die that placed crews of the launch has still to send its retirement notice (R269). -/
def State.unfinished (s : State) (vf k : Nat) (id : Dword) (d : BitVec 3) : Bool :=
  match (s.die d).launch? vf id with
  | some l => l.pending.contains d
  | none => s.lqPassed vf d ≤ k

/-! ## `LAUNCH_DISTRIBUTE` -/

/-- The packet is dropped by this die. -/
def State.dropPacket (s : State) (d : BitVec 3) (vf k : Nat) (id : Dword) (st : Byte) : State :=
  let s := ((s.undoSkeins d vf id).lqPass vf d k st).later .retirementNotice { EvArg.dieVf d vf with v := id }
  s.laters (allDies.map fun t => (Instr.launchDistribute, EvArg.dieVf t vf))

/-- Steps 3 to 6, once the skeins are attached. -/
def State.placeCrews (s : State) (d : BitVec 3) (vf k : Nat) (p : Vector Dword 16) (segs : Vector (BitVec 128) 8)
    (skeins : List (Dword × Dword)) (sup : Bool) : State :=
  let id := p.get 2
  let l := s.candidates d vf p skeins
  if l.isEmpty then s.dropPacket d vf k id 0x20
  else
    let h := launchHash id l.length
    let n := pkCrews p
    let places := (List.range (min n l.length)).map fun i => crewPlace l h i
    let dies := (places.map (·.1)).eraseDups
    let mine := (List.range n).filterMap fun i =>
      let x := crewPlace l h i
      if x.1 = d then
        some ({ launch := id, index := i, cluster := x.2, cores := [], started := false, retired := false } : Crew)
      else none
    let pending := dies.filter fun t => t == d || s.unfinished vf k id t
    let launch : Launch := { id := id, vf := vf, packet := p, segs := segs, skeins := skeins, supervisor := sup
                             crews := mine, pending := pending, order := 0 }
    let s := s.modDie d fun x => { x with launches := x.launches ++ [launch] }
    let s := if pending.isEmpty then s.detach d vf id else s
    let s := s.laters (((mine.map (·.cluster)).eraseDups).map fun c =>
      (Instr.crewStart, EvArg.at { die := d, cluster := c, core := 0, slot := 0 }))
    s.lqPass vf d k 0x00

/-- The entry that a die reads next (R227, R274): a directory packet and a stage map are applied by their own events. Step 1 passes a
stage map too, whose crews, cores and slots are 0 (log 116). A packet that waits is tried again when what it waits for ends. -/
def execLaunchDistribute (s : State) : Res :=
  let d := s.arg.c.die
  let vf := s.arg.vf
  let k := s.lqPassed vf d
  .next (
    if !ringSizeOk (s.vf vf).lqsize || s.lqTail vf ≤ k then s
    else
      let a := s.lqEntry vf k
      let p := s.packetAt a
      let id := p.get 2
      if pkFlag p 7 then
        s.later (if fldN (p.get 8) 60 4 = 0 then .stageMapApply else .directoryPacketApply) (.dieVf d vf)
      else if !pkFieldsOk p then s.dropPacket d vf k id 0x20
      else
        match s.readTables d vf p with
        | none => s.dropPacket d vf k id 0x20
        | some (segs, skeins) =>
          match s.packetStrand d vf p with
          | (s, false) => s.dropPacket d vf k id 0x23
          | (s, true) =>
            match s.skeinList d vf id (skeins.map (·.1)) skeins with
            | .drop s st => s.dropPacket d vf k id st
            | .wait s => s
            | .go s =>
              if !pkFlag p 0 && !s.allRestored d vf skeins then s
              else s.placeCrews d vf k p segs skeins (bit (s.mem.dword (a + 0x80)) 2))

/-! ## Directory packets and stage maps (R238, R274) -/

/-- The next entry of a die, if it has flags bit 7. -/
def State.nextMap (s : State) (d : BitVec 3) (vf : Nat) : Option (Nat × Vector Dword 16) :=
  let k := s.lqPassed vf d
  let p := s.packetAt (s.lqEntry vf k)
  if ringSizeOk (s.vf vf).lqsize && k < s.lqTail vf && pkFlag p 7 then some (k, p) else none

/-- Operation and name of a directory packet on a die's directory. -/
def Die.applyDirectory (x : Die) (vf op : Nat) (name : Dword) : Die :=
  if op = 2 then x.modSkein vf name fun k => { k with pinned := true }
  else if op = 1 then
    x.setSkeins vf ((x.skeins vf).filterMap fun k =>
      if k.name ≠ name then some k
      else if k.attached.isEmpty || k.state == .evicted then none
      else some { k with state := .released })
  else x

def execDirectoryPacketApply (s : State) : Res :=
  let d := s.arg.c.die
  let vf := s.arg.vf
  .next (
    match s.nextMap d vf with
    | none => s
    | some (k, p) =>
      let op := fldN (p.get 8) 60 4
      if op = 0 then s
      else (s.modDie d fun x => x.applyDirectory vf op (p.get 9)).lqPass vf d k 0x00)

/-- The stage of each cluster of a map (R238). -/
def mapStages (p : Vector Dword 16) : List Nat :=
  (List.range 48).map fun c => fldN (p.getD (9 + c / 16) 0) (4 * (c % 16)) 4

def execStageMapApply (s : State) : Res :=
  let d := s.arg.c.die
  let vf := s.arg.vf
  .next (
    match s.nextMap d vf with
    | none => s
    | some (k, p) =>
      if fldN (p.get 8) 60 4 ≠ 0 then s
      else
        (s.modDie d fun x => { x with maps := x.maps.set (vf * 8 + fldN (p.get 8) 0 3) (mapStages p) }).lqPass vf d k 0x00)

/-! ## The start of a crew (R228) -/

/-- The slots that the crew needs on a core are free. -/
def State.coreFree (s : State) (c : Coord) (slots : Nat) : Bool :=
  (List.range slots).all fun i => !(s.slot (c.at (BitVec.ofNat 4 i))).live

/-- The oldest crew of a cluster that has not started, with its launch. -/
def Die.nextCrew (x : Die) (cl : BitVec 6) : Option (Launch × Crew) :=
  x.launches.findSome? fun l =>
    (l.crews.find? fun k => k.cluster == cl && !k.started && !k.retired).map fun k => (l, k)

def State.modLaunch (s : State) (d : BitVec 3) (vf : Nat) (id : Dword) (f : Launch → Launch) : State :=
  s.modDie d fun x => { x with launches := (updFirst (fun l => l.id == id && l.vf == vf) f x.launches) }

def State.modCrew (s : State) (d : BitVec 3) (l : Launch) (k : Crew) (f : Crew → Crew) : State :=
  s.modLaunch d l.vf l.id fun l' => { l' with crews := updFirst (fun k' => k'.index == k.index) f l'.crews }

/-- Slot 0 of each core of the crew starts as its control context. -/
def State.startCrew (s : State) (d : BitVec 3) (l : Launch) (k : Crew) (cores : List (BitVec 3)) : State :=
  let s := s.modCrew d l k fun k => { k with cores := cores, started := true }
  let s := if l.order ≠ 0 then s
    else
      let n := (s.die d).started + 1
      (s.modDie d fun x => { x with started := n }).modLaunch d l.vf l.id fun l' => { l' with order := n }
  ((List.range cores.length).zip cores).foldl (fun s x =>
    s.modSlot { die := d, cluster := k.cluster, core := x.2, slot := 0 } fun y =>
      y.begin {
        vf := l.vf, pc := l.word 0, arg := l.word 1, sg := l.segs, strand := l.strandOf, cls := l.clsOf
        priv := l.supervisor, crew := l.crewWord k.index x.1, qown := y.qown, tvec := (s.vf l.vf).vftvec
        launch := some l.id }) s

/-- A launch whose crews on a die have all retired sends its notice (R269). -/
def State.noticeIfDone (s : State) (d : BitVec 3) (vf : Nat) (id : Dword) : State :=
  match (s.die d).launch? vf id with
  | some l =>
    if l.crews.all (·.retired) then s.later .retirementNotice { EvArg.dieVf d vf with v := id } else s
  | none => s

/-- A launch one of whose crews was dropped before it started: its packet counts as dropped already (R258). -/
def Launch.dropped (l : Launch) : Bool := l.crews.any fun k => k.retired && !k.started

/-- `CREW_START` on the cluster `arg.c`: the oldest waiting crew starts on the lowest free cores. A crew whose strand has
ended is dropped (R255); its launch packet counts once on the die (R258). -/
def execCrewStart (s : State) : Res :=
  let c := s.arg.c
  let d := c.die
  .next (
    match (s.die d).nextCrew c.cluster with
    | none => s
    | some (l, k) =>
      if !(s.die d).strandLive l.strandOf then
        let s := s.modCrew d l k fun k => { k with retired := true }
        ((if l.dropped then s else s.count d l.vf 5).noticeIfDone d l.vf l.id).later .crewStart (.at c)
      else
        let free := ((List.range 8).map (BitVec.ofNat 3)).filter fun core =>
          s.coreFree { c with core := core } l.slotsOf
        if s.paused l.vf || free.length < l.coresOf then s
        else
          let s := s.startCrew d l k (free.take l.coresOf)
          ((s.preemptChecks d).laters (c.cores.map fun w => (Instr.queuePrefetch, EvArg.at w))).later .crewStart (.at c))

/-! ## The end of a launch (R269) -/

/-- `RETIREMENT_NOTICE` from die `arg.c` for the launch `arg.v` of `arg.vf`, once every store of its slots there has performed: every
die drops it from those it waits for, and the attachments end where none is left. -/
def execRetirementNotice (s : State) : Res :=
  let src := s.arg.c.die
  let vf := s.arg.vf
  let id := s.arg.v
  .next (
    if (s.port.any fun p => p.launch == some id && p.vf == vf && p.coord.die == src)
        || s.loose.any fun x => x.stores && x.launch == some id && x.vf == vf && x.coord.die == src then s
    else allDies.foldl (fun s d =>
      match (s.die d).launch? vf id with
      | none => s
      | some l =>
        let left := l.pending.filter (· != src)
        if left.length = l.pending.length then s
        else
          let s := s.modLaunch d vf id fun l' => { l' with pending := left }
          if left.isEmpty then (s.detach d vf id).later .launchDistribute (.dieVf d vf) else s) s)

/-! ## `skrel` and `skpin` (R274) -/

/-- A directory packet: operation and name. -/
def directoryPacket (op : Nat) (name : Dword) : Vector Dword 16 :=
  (((Vector.replicate 16 (0 : Dword)).set 3 0x8000).set 8 (BitVec.ofNat 64 (op * 2 ^ 60))).set 9 name

/-- The append is a release; the slot waits while the queue has no place. -/
def State.appendDirectory (s : State) (op : Nat) (name : Dword) : State :=
  s.releaseThen fun s =>
    let vf := s.me.vf
    if s.lqFull vf || !(s.vf vf).portQ.isEmpty then s.leave .dirQueue
    else (s.lqAppend vf (directoryPacket op name) 2 false).advance 4

def execSkrel (a : BitVec 5) (s : State) : Res := .next (s.appendDirectory 1 (s.rg a))
def execSkpin (a : BitVec 5) (s : State) : Res := .next (s.appendDirectory 2 (s.rg a))

/-! ## The occupancy monitor (R238) -/

/-- Ready entries, prefetched ones included, and running tasks of a stage on a die. -/
def State.occupancy (s : State) (d : BitVec 3) (stage : Nat) : Nat :=
  let x := s.die d
  let ready := ((List.range 64).map fun q =>
    ((x.queue q).entries.filter fun e => e.stage == stage && x.strandLive e.strand).length).foldl (· + ·) 0
  let running := (List.filter (fun k : Nat × Slot =>
    (Coord.ofKey k.1).die == d && k.2.live && k.2.launch.isSome && fldN k.2.crew 28 4 == stage) s.slots).length
  let fetched := (List.filter (fun k : Nat × Core => k.1 / 512 == d.toNat) s.cores).map fun k =>
    (k.2.prefetch.filter fun e => e.stage == stage && x.strandLive e.strand).length
  ready + fetched.foldl (· + ·) 0 + running

/-- Corrects the cluster counts by `fuel` single clusters, up or down. A stage that has been corrected has a remainder of 0 from then on; and
where no stage with n_s > 1 has another remainder, the lowest of those gives a cluster (log 111). -/
def correctStages (n : Nat) : Nat → List (Nat × Nat) → List (Nat × Nat)
  | 0, l => l
  | fuel + 1, l =>
    let sum := (l.map (·.1)).foldl (· + ·) 0
    let pick (better : Nat → Nat → Bool) (ok : Nat × Nat → Bool) : Option Nat :=
      ((List.range l.length).zip l).foldl (fun (o : Option Nat) x =>
        if !ok x.2 then o
        else match o with
          | none => some x.1
          | some j => if better x.2.2 (l.getD j (0, 0)).2 then some x.1 else some j) none
    if sum < n then
      match pick (fun a b => b < a) fun _ => true with
      | none => l
      | some j => correctStages n fuel (l.modify j fun x => (x.1 + 1, 0))
    else if n < sum then
      match pick (fun a b => a < b) fun x => 1 < x.1 && x.2 != 0 with
      | some j => correctStages n fuel (l.modify j fun x => (x.1 - 1, 0))
      | none =>
        match pick (fun a b => a < b) fun x => 1 < x.1 with
        | none => l
        | some j => correctStages n fuel (l.modify j fun x => (x.1 - 1, x.2))
    else l

/-- The stage of each of `n` clusters from the counts `o`; none where all are 0. -/
def stageCounts (n : Nat) (o : List Nat) : Option (List Nat) :=
  let total := o.foldl (· + ·) 0
  if total = 0 then none
  else
    let first := o.map fun x => (if n * x / total = 0 && 0 < x then 1 else n * x / total, n * x % total)
    some ((correctStages n 64 first).map (·.1))

/-- The map packet of a die. -/
def mapPacket (d : BitVec 3) (counts : List Nat) : Vector Dword 16 :=
  let stages := ((List.range counts.length).zip counts).flatMap fun x => List.replicate x.2 x.1
  let word (j : Nat) : Dword :=
    BitVec.ofNat 64 ((List.range 16).foldl (fun a i => a + stages.getD (16 * j + i) 0 * 16 ^ i) 0)
  (((((Vector.replicate 16 (0 : Dword)).set 3 0x8000).set 8 (d.setWidth 64)).set 9 (word 0)).set 10 (word 1)).set 11 (word 2)

/-- A phase of knot `n` has completed on a die. -/
def State.monitor (s : State) (d : BitVec 3) (n : Nat) : State :=
  let o := (s.die d).occcfg
  if !bit o 63 || fldN o 48 6 ≠ n then s
  else
    let vf := fldN o 54 9
    match stageCounts (clusterCount d) ((List.range (fldN o 44 4 + 1)).map (s.occupancy d)) with
    | none => s
    | some counts => (s.modVf vf fun x => { x with portQ := x.portQ ++ [mapPacket d counts] }).later .launchPortTake (.ofVf vf)

end Sys2Proof.Machine
end

