-- ==== Sys2Proof/Machine/Knots.lean ====
section
/-! DEFINITION. The phases of knots (R213, R214). -/
namespace Sys2Proof.Machine

/-- A phase of knot `n` is over on a die: P flips, its members return, and the occupancy monitor acts (R238). -/
def State.knotFlip (s : State) (d : BitVec 3) (n : Nat) : State :=
  let k := s.knot d n
  let s := s.setKnot d n { k with parity := !k.parity, count := 0 }
  let s := s.laters (s.slots.filterMap fun (c, x) =>
    if (Coord.ofKey c).die != d then none
    else match x.hold with
      | some (.knot m _) => if m.toNat = n then some (Instr.kwaitRelease, EvArg.at (Coord.ofKey c)) else none
      | _ => none)
  s.monitor d n

/-- The eight dies flip together. -/
def State.deviceFlip (s : State) (n : Nat) : State := allDies.foldl (fun s d => s.knotFlip d n) s

/-- Every die that takes part has counted its need. -/
def State.deviceReady (s : State) (d : BitVec 3) (n : Nat) : Bool :=
  let k := s.knot d n
  k.enabled && allDies.all fun t =>
    !bit (fld k.word 40 8 : Byte) t.toNat || ((s.knot t n).enabled && (s.knot t n).need ≤ (s.knot t n).count)

/-- The arrival of a slot at knot `n` reaches it: a[n] takes P(n) (R215). -/
def Slot.knotAt (x : Slot) (n : Nat) (parity : Bool) : Slot :=
  { x with knotA := setBit x.knotA n parity, knotFly := setBit x.knotFly n false }

/-- The same for the task that sent it, in its slot or in its record. -/
def State.knotAt (s : State) (c : Coord) (n : Nat) (parity : Bool) : State :=
  let sent (v : Nat × Vf) : Option (Nat × Standing) := v.2.standings.findSome? fun w =>
    match (v.2.records w).find? c.key with | some r => if bit r.slot.knotFly n then some (v.1, w) else none | none => none
  match s.vfs.findSome? sent with
  | some (v, w) => s.modSaved v w c (·.knotAt n parity)
  | none => if bit (s.slot c).knotFly n then s.modSlot c (·.knotAt n parity) else s

/-- `KNOT_ARRIVAL` of the slot `arg.c` at knot `arg.n`. A knot that has been disabled since the arrival was sent does not count it, and the
slot waits for the next flip (log 101). -/
def execKnotArrival (s : State) : Res :=
  let c := s.arg.c
  let n := s.arg.n
  let k := s.knot c.die n
  .next (
    if !k.inFlight.contains c then s
    else
      let s := s.knotAt c n k.parity
      let k := { k with inFlight := k.inFlight.erase c }
      if !k.enabled then s.setKnot c.die n k
      else
        let s := s.setKnot c.die n { k with count := k.count + 1 }
        if k.need ≤ k.count + 1 then
          if deviceKnot n then (if s.deviceReady c.die n then s.later .deviceKnotComplete (.num c n) else s)
          else s.knotFlip c.die n
        else s)

/-- `DEVICE_KNOT_COMPLETE` of device knot `arg.n`, as die `arg.c` finds it. -/
def execDeviceKnotComplete (s : State) : Res :=
  .next (if s.deviceReady s.arg.c.die s.arg.n then s.deviceFlip s.arg.n else s)

/-- Writable fields of the knot word (R213). -/
def knotMask : Dword := 0xFFC0FF0000001FFF

/-- The knot word is written: the current phase completes at once (R213). -/
def State.writeKnotWord (s : State) (d : BitVec 3) (n : Nat) (v : Dword) : State :=
  let s := s.setKnot d n { s.knot d n with word := v &&& knotMask }
  if deviceKnot n then s.deviceFlip n else s.knotFlip d n

/-- `KNOT_WORD_WRITE`: knot `arg.n` of the die `arg.c` takes the word `arg.v`. -/
def execKnotWordWrite (s : State) : Res :=
  .next (if s.arg.n ≤ 39 then s.writeKnotWord s.arg.c.die s.arg.n s.arg.v else s)

end Sys2Proof.Machine
end

