-- ==== Sys2Proof/Machine/Epilogue.lean ====
section
/-! DEFINITION. The epilogue processor (R181 to R183). Every instruction is a function on the processor's record; the
instruction's meaning applies it to the cluster in `State.unit` (log 22), and a drain applies it element by element. -/
namespace Sys2Proof.Machine

/-! ## Registers and data -/

def EpiRun.r (x : EpiRun) (i : BitVec 3) : Nat := (x.e.get i.toFin).toNat
def EpiRun.fp (x : EpiRun) (i : BitVec 3) : Fp := fp32.decode (x.r i)

/-- e[d] := the result, with its flags; the next word follows. -/
def EpiRun.put (x : EpiRun) (d : BitVec 3) (v : FRes) : EpiRun :=
  { x with e := x.e.set d.toNat (BitVec.ofNat 32 v.1), flags := x.flags ||| v.2 }

/-- The address after the word that ran, or `n` words further; past address 255 the element ends (R181). -/
def EpiRun.go (x : EpiRun) (n : Nat) : EpiRun :=
  let pc := x.pc + 1 + n
  { x with pc := pc, ended := x.ended || 255 < pc }

/-- W(i) of R182. -/
def epiW (d : Sparse Word) (imm : BitVec 6) (i : Nat) : Nat := (d.get ((32 * imm.toNat + i) % 2048) 0).toNat

/-! ## Conversions (R182) -/

/-- An integer format's width and sign. -/
def epiInt (f : BitVec 3) : Nat × Bool := if f = 3 then (8, true) else if f = 4 then (8, false) else if f = 5 then (16, true) else (32, true)

/-- An integer conversion of `estore`: to nearest even, then clamped; a NaN gives 0. Clamping and a NaN raise saturation, a NaN
invalid, and a finite value that is not delivered inexact. -/
def epiToInt (w : Nat) (signed : Bool) (x : Fp) : FRes :=
  match x with
  | .nan _ => (0, flInvalid ||| flSat)
  | .inf n => (wrapInt w (if n then intMin signed w else intMax signed w), flSat)
  | .fin n m e =>
    let (k, inexact) := roundTo 0 n m e 0
    let (c, clamped) := clampInt signed w (if n then -(k : Int) else k)
    (wrapInt w c, (if clamped then flSat else 0) ||| (if clamped || inexact then flInexact else 0))

/-- Bytes that a store format writes. -/
def epiSize (f : BitVec 3) : Nat := if f = 0 || f = 6 then 4 else if f = 3 || f = 4 then 1 else 2

/-- The stored bits of an FP32 encoding. -/
def epiConv (f : BitVec 3) (x : Nat) : FRes :=
  let v := fp32.decode x
  if f = 0 then (x, 0)
  else if f = 1 then fp16.ofFp 0 v
  else if f = 2 then bf16.ofFp 0 v
  else epiToInt (epiInt f).1 (epiInt f).2 v

/-- The FP32 value of what `epiConv` stores. -/
def epiBack (f : BitVec 3) (x : Nat) : FRes :=
  let r := epiConv f x
  if f = 0 then (if (fp32.decode x).isNan then fp32.ofFp 0 (fp32.decode x) else (x, 0))
  else if f = 1 then ((fp32.ofFp 0 (fp16.decode r.1)).1, r.2)
  else if f = 2 then ((fp32.ofFp 0 (bf16.decode r.1)).1, r.2)
  else ((fp32.ofInt 0 (intOf (epiInt f).2 (epiInt f).1 r.1)).1, r.2)

/-! ## The instructions -/

def EpiRun.enop (x : EpiRun) : EpiRun := x.go 0
def EpiRun.emul (x : EpiRun) (d a b : BitVec 3) : EpiRun := (x.put d (fp32.mul 0 (x.fp a) (x.fp b))).go 0
def EpiRun.eadd (x : EpiRun) (d a b : BitVec 3) : EpiRun := (x.put d (fp32.add 0 (x.fp a) (x.fp b))).go 0
def EpiRun.escl (x : EpiRun) (m : Sparse Word) (d a : BitVec 3) (i : BitVec 6) : EpiRun :=
  (x.put d (fp32.mul 0 (x.fp a) (fp32.decode (epiW m i x.n)))).go 0
def EpiRun.ebias (x : EpiRun) (m : Sparse Word) (d a : BitVec 3) (i : BitVec 6) : EpiRun :=
  (x.put d (fp32.add 0 (x.fp a) (fp32.decode (epiW m i x.n)))).go 0

/-- The segment of R183: 0 when x < X(0), else the largest j with X(j) ≤ x. For breakpoints out of order, x may lie below X(0) and have such
a j: the 0 goes first (log 106). -/
def etabIndex (m : Sparse Word) (i : BitVec 6) (x : Fp) : Nat :=
  if x.lt (fp32.decode (epiW m i 0)) then 0
  else (List.range 64).foldl (fun r j =>
    let b := fp32.decode (epiW m i j)
    if b.lt x || b.eq x then j else r) 0

def EpiRun.etab (x : EpiRun) (m : Sparse Word) (d a : BitVec 3) (i : BitVec 6) : EpiRun :=
  let j := etabIndex m i (x.fp a)
  (x.put d (fp32.fma 0 (fp32.decode (epiW m i (64 + j))) (x.fp a) (fp32.decode (epiW m i (128 + j))))).go 0

def EpiRun.eclmp (x : EpiRun) (d a b : BitVec 3) : EpiRun :=
  let lo := fp32.minMax true (x.r a) (x.r b)
  let hi := fp32.minMax false lo.1 (x.r (b + 1))
  (x.put d (hi.1, lo.2 ||| hi.2)).go 0

def EpiRun.ecvt (x : EpiRun) (d a f : BitVec 3) : EpiRun := (x.put d (epiBack f (x.r a))).go 0
def EpiRun.emax (x : EpiRun) (d a b : BitVec 3) : EpiRun := (x.put d (fp32.minMax true (x.r a) (x.r b))).go 0
def EpiRun.emin (x : EpiRun) (d a b : BitVec 3) : EpiRun := (x.put d (fp32.minMax false (x.r a) (x.r b))).go 0

/-- A NaN leaves e[d]; a signalling one raises invalid (R103). -/
def EpiRun.eabsmax (x : EpiRun) (d a : BitVec 3) : EpiRun :=
  (if (x.fp a).isNan then { x with flags := x.flags ||| if (x.fp a).isSnan then flInvalid else 0 } else x.put d (fp32.minMax true (x.r d) (x.r a % 2 ^ 31))).go 0

/-- Conditions of `eflag`. -/
def epiCond (c : BitVec 3) (x y : Fp) : Bool :=
  match c.toNat with
  | 0 => x.lt y
  | 1 => x.lt y || x.eq y
  | 2 => x.eq y
  | 3 => !x.eq y
  | 4 => x.isNan || y.isNan
  | 5 => true
  | _ => false

/-- Compares raise invalid for a signalling NaN (R116); the conditions true and false compare nothing. -/
def EpiRun.eflag (x : EpiRun) (c a b : BitVec 3) : EpiRun :=
  let inv : BitVec 16 := if c.toNat ≤ 4 && ((x.fp a).isSnan || (x.fp b).isSnan) then flInvalid else 0
  { x with ef := epiCond c (x.fp a) (x.fp b), flags := x.flags ||| inv }.go 0

def EpiRun.esel (x : EpiRun) (d a b : BitVec 3) : EpiRun := (x.put d (if x.ef then x.r a else x.r b, 0)).go 0

/-- The element's bytes at its place in the target's local memory (R178). -/
def EpiRun.estore (x : EpiRun) (a f : BitVec 3) : EpiRun :=
  let r := epiConv f (x.r a)
  let n := epiSize f
  { x with stores := x.stores ++ [(x.rowBase + x.n * n, leBytes n r.1)], flags := x.flags ||| r.2 }.go 0

def EpiRun.eskip (x : EpiRun) (i : BitVec 6) : EpiRun := x.go (if x.ef then i.toNat else 0)
def EpiRun.eend (x : EpiRun) : EpiRun := { x with ended := true }

/-! ## Running a program (R181) -/

/-- One instruction on the record; `m` is the data memory. -/
def EpiRun.one (x : EpiRun) (m : Sparse Word) (i : Instr) : EpiRun :=
  match i with
  | .enop => x.enop
  | .emul d a b => x.emul d a b
  | .eadd d a b => x.eadd d a b
  | .escl d a i => x.escl m d a i
  | .ebias d a i => x.ebias m d a i
  | .etab d a i => x.etab m d a i
  | .eclmp d a b => x.eclmp d a b
  | .ecvt d a f => x.ecvt d a f
  | .emax d a b => x.emax d a b
  | .emin d a b => x.emin d a b
  | .eabsmax d a => x.eabsmax d a
  | .eflag c a b => x.eflag c a b
  | .esel d a b => x.esel d a b
  | .estore a f => x.estore a f
  | .eskip i => x.eskip i
  | .eend => x.eend
  | _ => { x with illegal := true, ended := true }

/-- At most `fuel` words from the record's address on. -/
def EpiRun.run (x : EpiRun) (prog : Sparse (BitVec 16)) (m : Sparse Word) : Nat → EpiRun
  | 0 => x
  | fuel + 1 =>
    if x.ended then x
    else
      match decodeEpi (prog.get x.pc 0xF000) with
      | none => { x with illegal := true, ended := true }
      | some i => (x.one m i).run prog m fuel

/-- The record at the start of an element: e0 to e3 and ef are set, e4 to e7 persist (R181). -/
def EpiRun.start (acc : Word) (persist : Vector Word 4) (entry n rowBase : Nat) : EpiRun :=
  { e := #v[acc, 0, 0, 0, persist.get 0, persist.get 1, persist.get 2, persist.get 3], ef := false, pc := entry, n := n
    rowBase := rowBase, stores := [], flags := 0, ended := false, illegal := false }

/-! ## Meanings (R182) -/

/-- An instruction of the cluster in `State.unit`. -/
def State.epi (s : State) (f : Sparse Word → EpiRun → EpiRun) : State :=
  s.modCluster s.unit fun x => { x with epi := f x.epiD x.epi }

def execEnop (s : State) : Res := .next (s.epi fun _ x => x.enop)
def execEmul (d a b : BitVec 3) (s : State) : Res := .next (s.epi fun _ x => x.emul d a b)
def execEadd (d a b : BitVec 3) (s : State) : Res := .next (s.epi fun _ x => x.eadd d a b)
def execEscl (d a : BitVec 3) (i : BitVec 6) (s : State) : Res := .next (s.epi fun m x => x.escl m d a i)
def execEbias (d a : BitVec 3) (i : BitVec 6) (s : State) : Res := .next (s.epi fun m x => x.ebias m d a i)
def execEtab (d a : BitVec 3) (i : BitVec 6) (s : State) : Res := .next (s.epi fun m x => x.etab m d a i)
def execEclmp (d a b : BitVec 3) (s : State) : Res := .next (s.epi fun _ x => x.eclmp d a b)
def execEcvt (d a f : BitVec 3) (s : State) : Res := .next (s.epi fun _ x => x.ecvt d a f)
def execEmax (d a b : BitVec 3) (s : State) : Res := .next (s.epi fun _ x => x.emax d a b)
def execEmin (d a b : BitVec 3) (s : State) : Res := .next (s.epi fun _ x => x.emin d a b)
def execEabsmax (d a : BitVec 3) (s : State) : Res := .next (s.epi fun _ x => x.eabsmax d a)
def execEflag (c a b : BitVec 3) (s : State) : Res := .next (s.epi fun _ x => x.eflag c a b)
def execEsel (d a b : BitVec 3) (s : State) : Res := .next (s.epi fun _ x => x.esel d a b)
def execEstore (a f : BitVec 3) (s : State) : Res := .next (s.epi fun _ x => x.estore a f)
def execEskip (i : BitVec 6) (s : State) : Res := .next (s.epi fun _ x => x.eskip i)
def execEend (s : State) : Res := .next (s.epi fun _ x => x.eend)

end Sys2Proof.Machine
end

