-- ==== Sys2Proof/Machine/Matrix.lean ====
section
/-! DEFINITION. The matrix unit: format contexts (R159, R160), commands and their issue (R161 to R165, R174 to R177), checks at
acceptance (R169, R170), scheduling (R171), K-steps (R166 to R168), drains (R178 to R180) and completion (R172). -/
namespace Sys2Proof.Machine

/-! ## The record (R161) -/

def MCmd.d (x : MCmd) (i : Nat) : Dword := x.record.getD i 0
def MCmd.op (x : MCmd) : Nat := fldN (x.d 0) 0 8
def MCmd.flag (x : MCmd) (i : Nat) : Bool := bit (x.d 0) (8 + i)
def MCmd.accumulate (x : MCmd) : Bool := x.flag 0
def MCmd.token (x : MCmd) : Word := fld (x.d 0) 32 32
def MCmd.m (x : MCmd) : Nat := fldN (x.d 1) 0 16
def MCmd.n (x : MCmd) : Nat := fldN (x.d 1) 16 16
def MCmd.k (x : MCmd) : Nat := fldN (x.d 1) 32 16
def MCmd.mode (x : MCmd) (i : Nat) : Bool := bit (x.d 1) (48 + i)
/-- P of mmac (R176). -/
def MCmd.parts (x : MCmd) : Nat := if x.op = 2 then fldN (x.d 1) 56 3 + 1 else 1
def MCmd.ctx (x : MCmd) : Nat := fldN (x.d 2) 48 4
def MCmd.s (x : MCmd) : Nat := fldN (x.d 2) 52 12
def MCmd.base (x : MCmd) : Nat := fldN (x.d 5) 14 18
def MCmd.pitch (x : MCmd) : Nat := fldN (x.d 5) 0 14
def MCmd.dpitch (x : MCmd) : Nat := fldN (x.d 6) 24 15
def MCmd.doff (x : MCmd) : Nat := fldN (x.d 6) 8 16
def MCmd.entry (x : MCmd) : Nat := fldN (x.d 6) 0 8
/-- The drain is part of the command. -/
def MCmd.drains (x : MCmd) : Bool := x.op == 3 || ((x.op == 1 || x.op == 2) && x.flag 1)

/-- The target unit that a record names; none where it names no cluster (R175). -/
def recordUnit (d5 : Dword) : Option Coord :=
  let c : Coord := { die := fld d5 56 3, cluster := fld d5 50 6, core := 0, slot := 0 }
  if c.ok then some c else none

/-- ⌈a/16⌉. -/
def blocks (a : Nat) : Nat := (a + 15) / 16
def MCmd.mb (x : MCmd) : Nat := blocks x.m
def MCmd.nb (x : MCmd) : Nat := blocks x.n
def MCmd.kbs (x : MCmd) : Nat := blocks x.k
def MCmd.mp (x : MCmd) : Nat := 16 * x.mb
def MCmd.np (x : MCmd) : Nat := 16 * x.nb
def MCmd.kp (x : MCmd) : Nat := 16 * x.kbs

/-! ## Masks (R164) -/

/-- Position `i` of an extent of `n` is on: the last block takes the mask where its mode bit is set. -/
def onMask (n : Nat) (useMask : Bool) (mask : Nat) (i : Nat) : Bool :=
  let full := 16 * (blocks n - 1)
  i < full || (i < n && (!useMask || mask.testBit (i % 16)))

def MCmd.rowon (x : MCmd) (i : Nat) : Bool := onMask x.m (x.mode 0) (fldN (x.d 2) 0 16) i
def MCmd.colon (x : MCmd) (i : Nat) : Bool := onMask x.n (x.mode 1) (fldN (x.d 2) 16 16) i
def MCmd.depthon (x : MCmd) (i : Nat) : Bool := onMask x.k (x.mode 2) (fldN (x.d 2) 32 16) i

/-! ## Accumulators (R157, R158, R176) -/

/-- Partition size in elements. -/
def psize (die : BitVec 3) : Nat := if isMatrix die then 32768 else 8192
/-- Largest M and N. -/
def maxMN (die : BitVec 3) : Nat × Nat := if isMatrix die then (384, 640) else (128, 512)
/-- Outputs along a side of the array's block. -/
def blockSide (die : BitVec 3) : Nat := if isMatrix die then 32 else 16

/-- Band height. -/
def MCmd.h (x : MCmd) : Nat := if x.op = 2 then 16 * ((x.mb + x.parts - 1) / x.parts) else max x.m 1

/-- The element of output (m, n). -/
def MCmd.elem (x : MCmd) (die : BitVec 3) (m n : Nat) : Nat :=
  if x.op = 2 then (x.base / psize die + m / x.h) * psize die + m % x.h * x.pitch + n
  else x.base + m * x.pitch + n

/-- Live outputs of a row, as runs of columns. -/
def MCmd.runs (x : MCmd) : List (Nat × Nat) :=
  let full := 16 * (x.nb - 1)
  (if full = 0 then [] else [(0, full)])
    ++ ((List.range 16).filterMap fun i => if x.colon (full + i) then some (full + i, 1) else none)

/-- The live outputs of the command as runs of accumulator elements. -/
def MCmd.segs (x : MCmd) (die : BitVec 3) : List (Nat × Nat) :=
  ((List.range x.m).filter x.rowon).flatMap fun m => x.runs.map fun r => (x.elem die m r.1, r.2)

/-- Two lists of runs share an element. -/
def runsMeet (a b : List (Nat × Nat)) : Bool := a.any fun x => b.any fun y => x.1 < y.1 + y.2 && y.1 < x.1 + x.2

/-- The elements that a command writes or drains; none for an eload. -/
def MCmd.region (x : MCmd) (die : BitVec 3) : List (Nat × Nat) := if x.op = 5 then [] else x.segs die

/-! ## Commands of a unit -/

def MCmd.same (x : MCmd) (sender : Coord) (tl5 : Bool) (num : Nat) : Bool :=
  x.sender.coreKey == sender.coreKey && x.onTl5 == tl5 && x.num == num

/-- An event about a command of the unit at `u`; bit 32 of `v` tells its timeline. -/
def EvArg.cmd (s : State) (u : Coord) (x : MCmd) : EvArg :=
  { EvArg.num u x.num with v := x.sender.bits s.dev.devno ||| if x.onTl5 then 1#64 <<< 32 else 0 }

/-- The command that an event concerns. -/
def State.argCmd (s : State) : Option MCmd :=
  (s.cluster s.arg.c).cmds.find? (·.same (Coord.ofBits s.arg.v) (bit s.arg.v 32) s.arg.n)

def State.setCmd (s : State) (u : Coord) (x : MCmd) : State :=
  s.modCluster u fun cl => { cl with cmds := updFirst (·.same x.sender x.onTl5 x.num) (fun _ => x) cl.cmds }

def MCmd.key (x : MCmd) : OpKey := (2, x.sender.coreKey * 2 + (if x.onTl5 then 1 else 0), x.num)

/-- The command that the array works on. -/
def Cluster.current (cl : Cluster) : Option MCmd :=
  match cl.running with
  | some (c, t, n) => cl.cmds.find? (·.same c t n)
  | none => none

/-- The timeline of a command. -/
def MCmd.tl (x : MCmd) : Nat := if x.onTl5 then 5 else 4

/-- Commands and `mxfmt`s that a core has outstanding (R171). -/
def State.mxOutstanding (s : State) (c : Coord) : Nat :=
  s.clusters.foldl (fun a kx =>
    a + (kx.2.cmds.filter (·.sender.coreKey == c.coreKey)).length
      + (kx.2.fmts.filter (·.sender.coreKey == c.coreKey)).length) 0

/-- A number completes on a sender's timeline, and slots that wait at the limit go on. -/
def State.mxDone (s : State) (c : Coord) (vf tl num : Nat) : State :=
  let s := s.tlComplete c vf tl num
  c.slots.foldl (fun s w => s.modSlot w fun y => if y.hold = some .matrixFull then { y with hold := none } else y) s

/-! ## Completion (R172) -/

/-- Requests of a unit that waited for one another are tried again. -/
def State.unitRetry (s : State) (u : Coord) : State :=
  let cl := s.cluster u
  s.laters ((cl.fmts.map fun r => (Instr.mxfmtApply, EvArg.num u r.num))
    ++ (cl.cmds.filter (·.phase == .sent)).map (fun x => (Instr.matrixCommandAccept, EvArg.cmd s u x))
    ++ [(Instr.matrixCommandStart, EvArg.at u)])

/-- The final e7, where flag 4 is set and an epilogue ran. -/
def MCmd.statistic (x : MCmd) : Bool := x.flag 4 && x.ran

/-- The write of steps 3 to 5 that comes after `stage` of them. An annulled command takes step 5 alone, and its status is written
although its strand has ended (R184), so that the write does not carry it. With no flag raised and flag 3 clear there is nothing for step
3 to do, and the sync word is not accessed (log 110). -/
def State.cmdWrite (s : State) (u : Coord) (x : MCmd) : State × Option (BitVec 9) :=
  let cut := x.status = 0x0023
  let strand := if cut then 0 else x.strand
  let arrives := x.flag 3 || x.flags != 0
  match x.stage with
  | 0 =>
    if cut || x.sync.p = 0 || !arrives then (s, none)
    else s.engineSync u x.sender x.vf strand x.sync (if x.flag 3 then 1 else 0) x.flags
  | 1 =>
    if cut || !x.statistic then (s, none)
    else s.engineWrite u x.sender x.vf strand (x.recPtr.add 4) 4 (leBytes 4 (x.persist.get 3).toNat)
  | _ => s.engineWrite u x.sender x.vf strand (x.recPtr.add 2) 2 (leBytes 2 x.status.toNat)

/-- Step 6: the command is gone from its unit, and its number completes. -/
def State.cmdGone (s : State) (u : Coord) (x : MCmd) : State :=
  let s := if x.status = 0x0023 then s.count u.die x.vf 8 else s
  let s := s.modCluster u fun cl =>
    { cl with
      cmds := cl.cmds.filter fun y => !y.same x.sender x.onTl5 x.num
      running := if cl.running = some (x.sender, x.onTl5, x.num) then none else cl.running }
  ((((s.unpin x.key).mxDone x.sender x.vf x.tl x.num).unitRetry u).resumeWaiting u).saveAgain x.vf

/-- The completion of a command of the unit from its stage on, in at most `fuel` writes: each has performed before the next begins, so
that one at a peer waits for its answer (R306). -/
def State.cmdFinish (s : State) (u : Coord) (x : MCmd) : Nat → State
  | 0 => s.cmdGone u x
  | fuel + 1 =>
    let (s, sent) := s.cmdWrite u x
    let x := { x with stage := x.stage + 1, asked := sent }
    if sent.isSome then s.setCmd u x else s.cmdFinish u x fuel

/-- A command that no unit takes completes. -/
def State.cmdEnd (s : State) (u : Coord) (x : MCmd) : State :=
  (s.modCluster u fun cl => { cl with cmds := cl.cmds ++ [x] }).cmdFinish u x (3 - x.stage)

/-! ## Issue (R174 to R177) -/

/-- The command is on its way: its unit on another die may drop it, and that die then answers as for an annulled command (R184,
R249). -/
def State.mxSend (s : State) (u : Coord) (x : MCmd) : State :=
  let (s, ok) := s.cross s.cur.die u.die false x.strand x.vf true
  if ok then
    (s.modCluster u fun cl => { cl with cmds := cl.cmds ++ [x] }).later .matrixCommandAccept (.cmd s u x)
  else s.cmdEnd u { x with phase := .finished, status := 0x0023 }

/-- The record has been read (R175). While it was on its way from a peer, other slots of the core may have reached the limit of R171: then
the slot waits for a completion, and its instruction reissues. Else the command takes its number and is sent. One whose record names no cluster takes no step but the
last two of R172. -/
def State.mxRecord (s : State) (via : BitVec 2) (tl5 : Bool) (dest : Option (BitVec 25)) (p : Dword)
    (bytes : List Byte) : State :=
  let rec' : Vector Dword 8 := Vector.ofFn fun i => leDword ((bytes.drop (8 * i.val)).take 8)
  let x := s.me
  if 16 ≤ s.mxOutstanding s.cur then s.leave .matrixFull else
  let (s, num) := s.tlNext s.cur (if tl5 then 5 else 4)
  let cmd : MCmd := {
    num := num, onTl5 := tl5, sender := s.cur, record := rec', recPtr := s.rptr p, a := s.rptr (rec'.get 3)
    b := s.rptr (rec'.get 4), sync := s.rptr (rec'.get 7), dest := dest.getD (fld (rec'.get 6) 39 25)
    strand := x.strand, cls := x.cls, vf := x.vf, via := via, phase := .sent, held := false, status := 0, flags := 0
    rb := 0, cb := 0, kb := 0, dm := 0, dn := 0, persist := Vector.replicate 4 0, ran := false, pf := 0, faultHeld := false
    asked := none, stage := 0 }
  (match recordUnit (rec'.get 5) with
   | some u => s.mxSend u cmd
   | none => s.cmdEnd s.cur { cmd with phase := .finished, status := 0x0020, stage := 2 }).advance 4

/-- The issue of a command (R175): the segment check for reading and writing, the limit of R171, and the load of the record; its
pointer is not position-translated (R143). -/
def State.mxIssue (s : State) (i : Instr) (via : BitVec 2) (tl5 : Bool) (dest : Option (BitVec 25)) (p : Dword) :
    State :=
  let r := s.rptr p
  s.aligned p 64 <|
    match s.segCheck s.me.vf r.seg (fld p 0 60) 64 12 p with
    | .error e => s.stopAt s.cur e accR p
    | .ok () =>
      s.releaseThen fun s =>
        if 16 ≤ s.mxOutstanding s.cur then s.leave .matrixFull
        else
          match s.enginePlace s.cur s.me.vf none r 64 rightR with
          | .error e => s.stopAt s.cur e accR p
          | .ok pl =>
            match pl.peer with
            | some place => s.askPeer i place p pl.policy (.read 64)
            | none =>
              s.atHome pl fun s =>
                match firstRefused s.mem s.cur.clusterKey pl.addrs with
                | some (cause, _) => s.trap cause p
                | none => s.mxRecord via tl5 dest p (s.mem.bytesAt pl.addrs)

def execMma (a : BitVec 5) (s : State) : Res := .next (s.mxIssue (.mma a) 0 false none (s.rg a))
def execMmac (a : BitVec 5) (s : State) : Res := .next (s.mxIssue (.mmac a) 1 false none (s.rg a))
def execMzero (a : BitVec 5) (s : State) : Res := .next (s.mxIssue (.mzero a) 3 false none (s.rg a))
def execMdrain (a b : BitVec 5) (s : State) : Res :=
  .next (s.mxIssue (.mdrain a b) 2 true (some (fld (s.rg b) 0 25)) (s.rg a))

/-! ## Format contexts (R159, R160) -/

/-- The context that an `mxfmt` writes at the unit of cluster `u`. -/
def MxReq.ctx (x : MxReq) (u : Coord) : Option Nat :=
  if x.sender.clusterKey = u.clusterKey then some x.sender.core.toNat
  else if fldN x.word 0 4 < 8 then none
  else some (fldN x.word 0 4)

def execMxfmt (a b : BitVec 5) (s : State) : Res :=
  let g := s.rg a
  let u : Coord := { die := fld g 13 3, cluster := fld g 7 6, core := 0, slot := 0 }
  .next (
    if !u.ok then s.trap 0x05 g
    else
      s.releaseThen fun s =>
        if 16 ≤ s.mxOutstanding s.cur then s.leave .matrixFull
        else
          let k := s.core s.cur
          let (s, num) := s.tlNext s.cur 4
          let r : MxReq := { num := num, sender := s.cur, vf := s.me.vf, word := s.rg b, tabA := k.tabA, tabB := k.tabB }
          ((s.modCluster u fun cl => { cl with fmts := cl.fmts ++ [r] }).later .mxfmtApply (.num u num)).advance 4)

/-- The command names context `i` (R160, R161). -/
def MCmd.names (x : MCmd) (i : Nat) : Bool := (x.op == 1 || x.op == 2) && x.ctx == i

/-- The `mxfmt` waits: a command that names its context is unfinished, or an earlier `mxfmt` of its core is. -/
def Cluster.fmtWaits (cl : Cluster) (u : Coord) (r : MxReq) : Bool :=
  match r.ctx u with
  | none => false
  | some i =>
    let earlier (c : Coord) (n : Nat) : Bool := c.coreKey == r.sender.coreKey && n < r.num
    cl.cmds.any (fun x => x.names i && (x.phase != .sent || earlier x.sender x.num))
      || cl.fmts.any fun q => q.ctx u == some i && earlier q.sender q.num

/-- The context's new contents: codes 5 to 15, or bits 63:13 not zero, give invalid types. -/
def FmtCtx.written (x : FmtCtx) (r : MxReq) (owner : Dword) : FmtCtx :=
  let a := fld r.word 4 4
  let b := fld r.word 8 4
  let bad := fldN r.word 13 51 != 0 || 5 ≤ a.toNat || 5 ≤ b.toNat
  { x with atype := if bad then 15 else a, btype := if bad then 15 else b, scale := bit r.word 12
           tabA := r.tabA, tabB := r.tabB, owner := some owner }

/-- `MXFMT_APPLY`: the first `mxfmt` of the unit `arg.c` with number `arg.n` that need not wait. -/
def execMxfmtApply (s : State) : Res :=
  let u := s.arg.c
  let cl := s.cluster u
  .next (
    match takeFirst (fun r : MxReq => r.num == s.arg.n && !cl.fmtWaits u r) cl.fmts with
    | none => s
    | some (r, rest) =>
      let s := s.modCluster u fun cl =>
        { cl with
          fmts := rest
          ctx := match r.ctx u with
            | none => cl.ctx
            | some i => cl.ctx.setIfInBounds i
                ((cl.ctx.getD i FmtCtx.reset).written r ((r.sender.at 0).bits s.dev.devno)) }
      (s.mxDone r.sender r.vf 4 r.num).unitRetry u)

/-! ## Acceptance (R169, R170) -/

/-- Step 1: op, shape and alignment (R162 to R165, R175, R176). Every op but an eload, `mmac` too, needs 1 ≤ N; `mmac` may have K = 0
(log 43). -/
def MCmd.shapeOk (x : MCmd) (die : BitVec 3) : Bool :=
  let own := match x.via with | 0 => x.op == 1 || x.op == 5 | 1 => x.op == 2 | 2 => x.op == 3 | _ => x.op == 4
  let (mm, mn) := maxMN die
  let ps := psize die
  own &&
    (if x.op = 5 then x.a.p.toNat % 64 == 0 && x.b.p.toNat % 64 == 0
     else
       1 ≤ x.m && x.m ≤ mm && 1 ≤ x.n && x.n ≤ mn
         && (if x.op = 2 then
               x.base % ps == 0 && x.base / ps + x.parts - 1 ≤ 7 && (x.parts - 1) * x.h < x.m
                 && (x.h - 1) * x.pitch + x.n ≤ ps
             else
               x.n ≤ x.pitch && (x.op != 1 || 1 ≤ x.k) && x.base / ps ≤ 7
                 && (x.base + (x.m - 1) * x.pitch + x.n - 1) / ps == x.base / ps)
         && (x.op != 1 && x.op != 2 || (x.a.p.toNat % 64 == 0 && x.b.p.toNat % 64 == 0)))

/-- Step 2: some entry of the capability table matches. -/
def Cluster.capable (cl : Cluster) (die : BitVec 3) (x : MCmd) : Bool :=
  let segs := if x.op = 5 then [(0, 8 * psize die)] else x.segs die
  cl.mcap.any fun e =>
    let v := e.2
    bit v 63 && fldN v 54 9 == x.vf && fld v 0 32 == x.token
      && segs.all fun r => fldN v 42 8 ≤ r.1 / 1024 && (r.1 + r.2 - 1) / 1024 ≤ fldN v 34 8

/-- Step 3: the format context; a command from another cluster needs one of 8 to 15 that its core owns. -/
def State.fmtOk (s : State) (u : Coord) (x : MCmd) : Bool :=
  let f := (s.cluster u).ctx.getD x.ctx FmtCtx.reset
  let own := x.sender.clusterKey == u.clusterKey
  (if own then x.ctx == x.sender.core.toNat
   else 8 ≤ x.ctx && f.owner == some ((x.sender.at 0).bits s.dev.devno))
    && f.atype != 15 && f.btype != 15

/-- Bytes of an element type (R160). -/
def typeBytes (t : BitVec 4) : Nat := if t = 2 then 4 else if t.toNat < 2 then 2 else 1

/-- An operand of `n` bytes by the A rules (R165); 0 where it passes. After the checks of R128 every byte has to lie in its space, in a
scratch bank where the kind is cluster, and in a page of the segment's policy as far as it is mapped, so that the accumulators of a command
that fails one of them are untouched (R173, log 102). -/
def State.operandA (s : State) (x : MCmd) (r : RPtr) (n : Nat) : BitVec 16 :=
  let kind := sgKind r.seg
  let ext : CopyExtent := { r := r, rows := 1, n := n, stride := 0, rights := rightR }
  if !(kind == 1 || kind == 2 || kind == 7 || kind == 4) then 0x0006
  else
    match s.extent x.sender x.vf r 1 n 0 rightR with
    | 0 =>
      match s.spaceStatus x.sender ext with
      | 0 => if s.policyBad x.sender x.vf ext then 0x0006 else 0
      | st => st
    | st => st

/-- B on a matrix die: of stack kind, on the unit's die, wholly in the unit's partition. R165 gives no order among these checks: the
model checks kind and die, then limit and right, then the partition (log 88). -/
def State.operandB (s : State) (u : Coord) (x : MCmd) (n : Nat) : BitVec 16 :=
  if !isMatrix u.die then s.operandA x x.b n
  else if sgKind x.b.seg ≠ 7 || x.sender.die ≠ u.die then 0x0022
  else
    match s.operandA x x.b n with
    | 0 =>
      let a := sgBase x.b.seg + fldN x.b.p 0 60
      if a / 2 ^ 24 = u.cluster.toNat && (n = 0 || (a + n - 1) / 2 ^ 24 = u.cluster.toNat) then 0 else 0x0022
    | st => st

/-- Sizes of the padded extents of A and B, with their scales (R163). -/
def MCmd.extA (x : MCmd) (f : FmtCtx) : Nat := x.mp * x.kp * typeBytes f.atype + if f.scale then x.mp * x.s else 0
def MCmd.extB (x : MCmd) (f : FmtCtx) : Nat := x.np * x.kp * typeBytes f.btype + if f.scale then x.np * x.s else 0

/-- Steps 4 and 5. -/
def State.operandStatus (s : State) (u : Coord) (x : MCmd) : BitVec 16 :=
  if x.op = 5 then
    let a := if x.a.p = 0 then 0 else s.operandA x x.a 512
    if a ≠ 0 then a else if x.b.p = 0 then 0 else s.operandA x x.b 8192
  else if x.op = 1 || x.op = 2 then
    let f := (s.cluster u).ctx.getD x.ctx FmtCtx.reset
    let a := s.operandA x x.a (x.extA f)
    if a ≠ 0 then a
    else
      let b := s.operandB u x (x.extB f)
      if b ≠ 0 then b else if f.scale && x.s < (x.k + 31) / 32 then 0x000F else 0
  else 0

/-- The checks of R170 in order; 0 where they pass. -/
def State.acceptStatus (s : State) (u : Coord) (x : MCmd) : BitVec 16 :=
  if !x.shapeOk u.die then 0x0020
  else if !(s.cluster u).capable u.die x then 0x000D
  else if (x.op = 1 || x.op = 2) && !s.fmtOk u x then 0x0021
  else s.operandStatus u x

/-- The command's work is over; what remains is its completion (R172). -/
def State.cmdOver (s : State) (u : Coord) (x : MCmd) (status : BitVec 16) : State :=
  let x := { x with phase := .finished, status := status, faultHeld := false, held := false }
  (s.setCmd u x).later .matrixCommandComplete (.cmd s u x)

def State.cmdLive (s : State) (u : Coord) (x : MCmd) : Bool := (s.die u.die).strandLive x.strand

/-- The command waits for an `mxfmt` that its core sent before it. -/
def Cluster.cmdWaits (cl : Cluster) (u : Coord) (x : MCmd) : Bool :=
  !x.onTl5 && cl.fmts.any fun r => r.sender.coreKey == x.sender.coreKey && r.num < x.num && (match r.ctx u with | some i => x.names i | none => false)

/-- `MATRIX_COMMAND_ACCEPT`. -/
def execMatrixCommandAccept (s : State) : Res :=
  let u := s.arg.c
  .next (
    match s.argCmd with
    | none => s
    | some x =>
      if x.phase != .sent || (s.cluster u).cmdWaits u x then s
      else if !s.cmdLive u x then s.cmdOver u x 0x0023
      else
        let st := s.acceptStatus u x
        if st ≠ 0 then s.cmdOver u { x with flags := if st = 0x000F then flScale else 0 } st
        else
          -- accepted commands stand in the order of their acceptance
          let y := { x with phase := .accepted, held := x.flag 5 }
          (s.modCluster u fun cl =>
            { cl with cmds := cl.cmds.filter (fun z => !z.same x.sender x.onTl5 x.num) ++ [y] }).later
            .matrixCommandStart (.at u))

/-! ## Scheduling (R171) -/

/-- An unfinished command that was accepted earlier blocks `x`. -/
def Cluster.blocked (cl : Cluster) (die : BitVec 3) (x : MCmd) : Bool :=
  let earlier := (cl.cmds.takeWhile fun y => !y.same x.sender x.onTl5 x.num).filter fun y => y.phase != .sent
  earlier.any fun y =>
    runsMeet (y.region die) (x.region die) || (x.op == 5 && y.drains) || (x.drains && y.op == 5)

/-- Commands that may take the array: suspended ones, and accepted ones that are not held and not blocked. -/
def Cluster.runnable (cl : Cluster) (die : BitVec 3) : List MCmd :=
  cl.cmds.filter fun x => (x.phase == .running && !x.faultHeld) || (x.phase == .accepted && !x.held && !cl.blocked die x)

/-- The runnable commands of a unit, but for those of a VF under pre-emption (R345). -/
def State.runnable (s : State) (u : Coord) : List MCmd := ((s.cluster u).runnable u.die).filter fun x => !s.paused x.vf

/-- The highest class, and among equals the one accepted first. -/
def bestCmd (l : List MCmd) : Option MCmd :=
  l.foldl (fun o x => match o with
    | none => some x
    | some y => if y.cls.toNat < x.cls.toNat then some x else o) none

/-- `x` takes the array. -/
def State.takeArray (s : State) (u : Coord) (x : MCmd) : State :=
  let y := { x with phase := if x.phase == .accepted then .running else x.phase }
  ((s.modCluster u fun cl => { cl with running := some (x.sender, x.onTl5, x.num) }).setCmd u y).later
    .matrixBlockStep (.at u)

/-- `MATRIX_COMMAND_START`: a free array takes the best runnable command; one held by a page fault gives way to a command
of higher class. -/
def execMatrixCommandStart (s : State) : Res :=
  let u := s.arg.c
  .next (
    match (s.cluster u).current, bestCmd (s.runnable u) with
    | none, some x => s.takeArray u x
    | some y, some x => if y.faultHeld && y.cls.toNat < x.cls.toNat then s.takeArray u x else s
    | _, none => s)

/-! ## The K-step sum (R166, R167) -/

/-- An element of a type: its value. -/
def FmtCtx.elem (f : FmtCtx) (t : BitVec 4) (bytes : List Byte) : Fp :=
  let x := leNat bytes
  match t.toNat with
  | 0 => fp16.decode x
  | 1 => bf16.decode x
  | 2 => fp32.decode x
  | 3 => f.tabA.value x
  | _ => f.tabB.value x

/-- A product with its scales: none for 0 × ∞. -/
def product (a b : Fp) (sa sb : Nat) : Option Fp :=
  if zeroTimesInf a b then none
  else if sa = 255 || sb = 255 then some (.nan false)
  else
    match a, b with
    | .nan _, _ => some (.nan false)
    | _, .nan _ => some (.nan false)
    | .inf n1, .inf n2 => some (.inf (n1 != n2))
    | .inf n1, .fin n2 _ _ => some (.inf (n1 != n2))
    | .fin n1 _ _, .inf n2 => some (.inf (n1 != n2))
    | .fin n1 m1 e1, .fin n2 m2 e2 => some (.fin (n1 != n2) (m1 * m2) (e1 + e2 + sa + sb - 254))

def Fp.isInf : Fp → Bool
  | .inf _ => true
  | _ => false

/-- The exact sum of finite terms as an integer times 2^e. -/
def sumAt (e : Int) (l : List Fp) : Int :=
  l.foldl (fun a x => match x with
    | .fin n m y =>
      let v : Int := (m * 2 ^ (y - e).toNat : Nat)
      a + if n then -v else v
    | _ => a) 0

/-- `ksum` (R167). -/
def ksum (c : Word) (ps : List (Option Fp)) : FRes :=
  let terms := fp32.decode c.toNat :: ps.filterMap id
  if ps.any (·.isNone) then fp32.nanRes true
  else if terms.any (·.isNan) then fp32.nanRes false
  else if terms.contains (.inf false) && terms.contains (.inf true) then fp32.nanRes true
  else if terms.contains (.inf false) then fp32.infRes false
  else if terms.contains (.inf true) then fp32.infRes true
  else if terms.all fun x => match x with | .fin true 0 _ => true | _ => false then (fp32.signBit, 0)
  else
    let e := terms.foldl (fun a x => match x with | .fin _ _ y => min a y | _ => a) 0
    let v := sumAt e terms
    if v = 0 then (0, 0) else fp32.round 0 (v < 0) v.natAbs e

/-! ## Block steps -/

/-- Scales beyond the last K-step's, which are read and not used (R168): the first, and how many of a row. -/
def MCmd.surplus (x : MCmd) (f : FmtCtx) : Nat × Nat :=
  let j := (x.k + 31) / 32
  if f.scale && x.kbs ≤ x.kb + 1 then (j, x.s - j) else (j, 0)

/-- The places that one step reads (R163): pieces (offset, bytes) of A or B; the last step of a block reads the surplus scales too. -/
def MCmd.piecesA (x : MCmd) (f : FmtCtx) (rows : List Nat) : List (Nat × Nat) :=
  let e := typeBytes f.atype
  let base (m : Nat) : Nat := x.mp * x.kp * e + m * x.s
  let (j, more) := x.surplus f
  (if x.kbs = 0 then [] else rows.map (fun m => ((m * x.kp + 16 * x.kb) * e, 16 * e))
      ++ if f.scale then rows.map fun m => (base m + x.kb / 2, 1) else [])
    ++ if more = 0 then [] else rows.map fun m => (base m + j, more)

def MCmd.piecesB (x : MCmd) (f : FmtCtx) (cols : List Nat) : List (Nat × Nat) :=
  let e := typeBytes f.btype
  let base (n : Nat) : Nat := x.np * x.kp * e + n * x.s
  let (j, more) := x.surplus f
  (if x.kbs = 0 then [] else (cols.filter (· % 16 == 0)).map (fun n => ((n / 16 * x.kp + 16 * x.kb) * 16 * e, 256 * e))
      ++ if f.scale then cols.map fun n => (base n + x.kb / 2, 1) else [])
    ++ if more = 0 then [] else cols.map fun n => (base n + j, more)

/-- Resolved places of pieces of an operand. -/
def State.mxPlaces (s : State) (x : MCmd) (r : RPtr) (l : List (Nat × Nat)) : Except EngStop (List Place) :=
  collect (fun p => s.engPlace x.sender x.vf (some x.key) (r.add p.1) p.2 rightR) l

/-- A stopped operand access: a page fault holds the command, or ends it at the third (R165, R369). What has changed under a running
command, a bank that has left scratch mode or a page with another policy, ends it with 0x0006 at the K-step that meets it: the model's choice
(log 102). -/
def State.mxStop (s : State) (u : Coord) (x : MCmd) (e : EngStop) : State :=
  match e with
  | .status st => s.cmdOver u x st
  | .page host va =>
    if !s.fqOn x.vf || 2 ≤ x.pf then s.cmdOver u x 0x0011
    else
      (s.setCmd u { x with pf := x.pf + 1, faultHeld := true }).queueRecord x.vf
        (s.record x.sender x.vf va.toNat false (if host then 6 else 4) (x.pf + 1) 1 x.strand)

/-- The command has read its operands: `k` goes on with the bytes of the pieces of A and of B. -/
def State.mxRead (s : State) (u : Coord) (x : MCmd) (pa pb : List (Nat × Nat))
    (k : State → List (List Byte) → List (List Byte) → State) : State :=
  match s.mxPlaces x x.a pa with
  | .error e => s.mxStop u x e
  | .ok la =>
    match s.mxPlaces x x.b pb with
    | .error e => s.mxStop u x e
    | .ok lb =>
      let addrs := ((la ++ lb).map (·.addrs)).flatten
      let (s, ok) := s.crossAll u x.strand x.vf false addrs
      if !ok then s
      else
        match firstRefused s.mem u.clusterKey addrs with
        | some (cause, _) => s.cmdOver u x (cause.setWidth 16)
        | none =>
          let pins := pa.map (fun p => (x.a.add p.1, p.2)) ++ pb.map fun p => (x.b.add p.1, p.2)
          let s := pins.foldl (fun s p => s.pinPtr x.sender x.vf x.key p.1 p.2 rightR) s
          k s (la.map fun p => s.mem.bytesAt p.addrs) (lb.map fun p => s.mem.bytesAt p.addrs)

/-- The element `i` of a byte list of elements of type `t`. -/
def FmtCtx.at (f : FmtCtx) (t : BitVec 4) (bytes : List Byte) (i : Nat) : Fp :=
  f.elem t ((bytes.drop (i * typeBytes t)).take (typeBytes t))

def Fp.special : Fp → Bool
  | .fin .. => false
  | _ => true

/-- The accumulator elements after a step, with the step's flags: rows and columns of the block, and what was read. Where the shape lets
several outputs share an element (`mmac` with a pitch below N), each takes the element as it was before the step, and the value of the last
output of the block, row by row, stays: the model's choice (log 103). -/
def MCmd.blockStep (x : MCmd) (die : BitVec 3) (f : FmtCtx) (acc : Sparse Word) (rows cols : List Nat)
    (ba bb : List (List Byte)) : Sparse Word × BitVec 16 :=
  let aVal (i k : Nat) : Fp := f.at f.atype (ba.getD i []) k
  let bVal (j k : Nat) : Fp := f.at f.btype (bb.getD (j / 16) []) (k * 16 + j % 16)
  let npanels := (cols.filter (· % 16 == 0)).length
  let sa (i : Nat) : Nat := if f.scale then leNat (ba.getD (rows.length + i) []) else 127
  let sb (j : Nat) : Nat := if f.scale then leNat (bb.getD (npanels + j) []) else 127
  let ks := List.range 16
  let dep (k : Nat) : Bool := x.depthon (16 * x.kb + k)
  let ri := (List.range rows.length).zip rows
  let ci := (List.range cols.length).zip cols
  let masked :=
    (ri.any fun r => ks.any fun k => !(x.rowon r.2 && dep k) && (aVal r.1 k).special)
      || ci.any fun c => ks.any fun k => !(x.colon c.2 && dep k) && (bVal c.1 k).special
  let first := x.kb == 0 && !x.accumulate
  let out := (ri.filter fun r => x.rowon r.2).flatMap fun r => (ci.filter fun c => x.colon c.2).map fun c =>
    let e := x.elem die r.2 c.2
    let v : Word := if first then 0 else acc.get e 0
    let ps := (ks.filter dep).map fun k => product (aVal r.1 k) (bVal c.1 k) (sa r.1) (sb c.1)
    (e, ksum v ps)
  (out.foldl (fun a o => a.put o.1 (BitVec.ofNat 32 o.2.1) 0) acc,
   out.foldl (fun a o => a ||| o.2.2) (if masked then flMasked else 0))

/-- The next block step: K-steps first, then columns, then rows; none after the last. -/
def MCmd.nextStep (x : MCmd) (side : Nat) : Option MCmd :=
  if x.kb + 1 < x.kbs then some { x with kb := x.kb + 1 }
  else if (x.cb + 1) * side < x.np then some { x with kb := 0, cb := x.cb + 1 }
  else if (x.rb + 1) * side < x.mp then some { x with kb := 0, cb := 0, rb := x.rb + 1 }
  else none

/-- The next live output at or after (m, n) in visit order (R178). -/
def MCmd.nextLive (x : MCmd) (m n : Nat) : Option (Nat × Nat) :=
  let inRow (r lo : Nat) : Option Nat :=
    if x.rowon r && r < x.m then ((List.range x.n).filter (lo ≤ ·)).find? x.colon else none
  match inRow m n with
  | some c => some (m, c)
  | none =>
    (List.range x.m).findSome? fun r => if r ≤ m then none else (inRow r 0).map fun c => (r, c)

/-- The drain's target (R161, R177). -/
def MCmd.target (x : MCmd) : Coord := Coord.ofBits (x.dest.setWidth 64)

/-- The drain is over: where its flag asks for them and the status is 0, the wake of every band's core is delivered, after
all writes (R172 step 2, R176, R180). -/
def State.drainOver (s : State) (u : Coord) (x : MCmd) (status : BitVec 16) : State :=
  let s :=
    if x.flag 2 && status = 0 then
      (List.range x.parts).foldl (fun s b =>
        s.later .wakeDelivery { EvArg.at { x.target with core := x.target.core + BitVec.ofNat 3 b } with vf := x.vf }) s
    else s
  s.cmdOver u x status

/-- Live outputs before the place of the drain, in visit order (R178). -/
def MCmd.visited (x : MCmd) : Nat :=
  ((List.range x.dm).filter x.rowon).length * ((List.range x.n).filter x.colon).length
    + ((List.range x.dn).filter x.colon).length

/-- The array work is over: the drain begins, if there is one (R179), or the command is over. -/
def State.drainStart (s : State) (u : Coord) (x : MCmd) : State :=
  if !x.drains then s.cmdOver u x 0
  else
    let t := x.target
    if fld x.dest 16 9 ≠ s.dev.devno || !t.ok || 7 < t.core.toNat + (x.parts - 1) then s.cmdOver u x 0x0025
    else
      match x.nextLive 0 0 with
      | none => s.drainOver u x 0
      | some (m, n) =>
        let x := { x with phase := .draining, dm := m, dn := n }
        (s.setCmd u x).later .drainElement (.cmd s u x)

/-- Every live output becomes +0. -/
def MCmd.zeroed (x : MCmd) (die : BitVec 3) (acc : Sparse Word) : Sparse Word :=
  let segs := x.segs die
  acc.filter fun e => !segs.any fun r => r.1 ≤ e.1 && e.1 < r.1 + r.2

/-- The words of an image as a sparse table. -/
def imageOf {w : Nat} (size count : Nat) (bytes : List Byte) (d : BitVec w) : Sparse (BitVec w) :=
  (List.range count).foldl (fun t i =>
    t.put i (BitVec.ofNat w (leNat ((bytes.drop (i * size)).take size))) d) []

/-- One step of the command that holds the array. -/
def State.arrayStep (s : State) (u : Coord) (x : MCmd) : State :=
  let cl := s.cluster u
  match x.op with
  | 3 => s.drainStart u x
  | 4 => (s.modCluster u fun cl => { cl with acc := x.zeroed u.die cl.acc }).cmdOver u x 0
  | 5 =>
    let ext (r : RPtr) (n : Nat) : List (Nat × Nat) := if r.p = 0 then [] else (List.range (n / 64)).map fun i => (64 * i, 64)
    s.mxRead u x (ext x.a 512) (ext x.b 8192) fun s ia ib =>
      (s.modCluster u fun cl =>
        { cl with
          epiI := if x.a.p = 0 then cl.epiI else imageOf 2 256 ia.flatten 0xF000
          epiD := if x.b.p = 0 then cl.epiD else imageOf 4 2048 ib.flatten 0 }).cmdOver u x 0
  | _ =>
    let side := blockSide u.die
    let f := cl.ctx.getD x.ctx FmtCtx.reset
    if x.kbs = 0 then
      s.mxRead u x (x.piecesA f (List.range x.mp)) (x.piecesB f (List.range x.np)) fun s _ _ =>
        (if x.accumulate then s else s.modCluster u fun cl => { cl with acc := x.zeroed u.die cl.acc }).drainStart u x
    else
      let rows := (List.range side).map (x.rb * side + ·) |>.filter (· < x.mp)
      let cols := (List.range side).map (x.cb * side + ·) |>.filter (· < x.np)
      s.mxRead u x (x.piecesA f rows) (x.piecesB f cols) fun s ba bb =>
        let (acc, fl) := x.blockStep u.die f (s.cluster u).acc rows cols ba bb
        let s := s.modCluster u fun cl => { cl with acc := acc }
        let x := { x with flags := x.flags ||| fl, pf := 0 }
        match x.nextStep side with
        | none => s.drainStart u x
        | some y =>
          let s := s.setCmd u y
          -- a runnable command of higher class takes the array at this boundary
          match bestCmd (s.runnable u) with
          | some z => if y.cls.toNat < z.cls.toNat then s.takeArray u z else s.later .matrixBlockStep (.at u)
          | none => s.later .matrixBlockStep (.at u)

/-- `MATRIX_BLOCK_STEP`. -/
def execMatrixBlockStep (s : State) : Res :=
  let u := s.arg.c
  .next (
    match (s.cluster u).current with
    | none => s
    | some x =>
      if x.phase != .running || x.faultHeld || s.paused x.vf then s
      else if !s.cmdLive u x then s.cmdOver u x 0x0023
      else s.arrayStep u x)

/-! ## Drains (R178 to R181) -/

/-- One write of an element into the target core's local memory: the new state and the drain's status. One that the home refuses for reach
is dropped like one refused for poison: the model's choice (log 104). -/
def State.drainWrite (s : State) (u t : Coord) (x : MCmd) (w : Nat × List Byte) : State × BitVec 16 :=
  if 65536 < w.1 + w.2.length then (s, 0x0025)
  else
    let addrs := (List.range w.2.length).map fun i => localAddr t.coreKey (w.1 + i)
    let (s, ok) := s.cross u.die t.die false x.strand x.vf false
    if !ok then (s, 0)
    else if (firstRefused s.mem u.clusterKey addrs).isSome then (s, 0x0009)
    else (s.store (addrs.zip w.2) 0, 0)

/-- A drain's status after a dropped write: 0x0025 stays (R179). -/
def drainStatus (old new : BitVec 16) : BitVec 16 :=
  if new = 0 || old = 0x0025 then old else new

/-- `DRAIN_ELEMENT`: one live output passes through the epilogue program and is written. The drain stops for
annulment at a 16-element boundary of its visit order. An element that an illegal instruction stops leaves `ran` and e4 to e7 as the
element before it left them (log 98). -/
def execDrainElement (s : State) : Res :=
  let u := s.arg.c
  .next (
    match s.argCmd with
    | none => s
    | some x =>
      if x.phase != .draining || s.paused x.vf then s
      else if !s.cmdLive u x && x.visited % 16 = 0 then s.cmdOver u x 0x0023
      else
        let cl := s.cluster u
        let band := if x.op = 2 then x.dm / x.h else 0
        let row := if x.op = 2 then x.dm % x.h else x.dm
        let t := { x.target with core := x.target.core + BitVec.ofNat 3 band }
        let r := (EpiRun.start (cl.acc.get (x.elem u.die x.dm x.dn) 0) x.persist x.entry x.dn
          (x.doff + row * x.dpitch)).run cl.epiI cl.epiD 256
        let s := s.modCluster u fun cl => { cl with epi := r }
        if r.illegal then s.cmdOver u { x with flags := x.flags ||| r.flags } 0x0024
        else
          let (s, st) := r.stores.foldl (fun (a : State × BitVec 16) w =>
            let (s, n) := a.1.drainWrite u t x w
            (s, drainStatus a.2 n)) (s, x.status)
          let x := { x with flags := x.flags ||| r.flags, status := st, ran := true
                            persist := #v[r.e.get 4, r.e.get 5, r.e.get 6, r.e.get 7] }
          match x.nextLive x.dm (x.dn + 1) with
          | none => if s.cmdLive u x then s.drainOver u x st else s.cmdOver u x 0x0023
          | some (m, n) =>
            let x := { x with dm := m, dn := n }
            (s.setCmd u x).later .drainElement (.cmd s u x))

/-! ## The end of a command (R172) -/

/-- `MATRIX_COMMAND_COMPLETE`: steps 3 to 6. With `arg.flag` the event brings a peer's answer to one of its writes; one of peer lost
drops the write, and the device is lost (R291). -/
def execMatrixCommandComplete (s : State) : Res :=
  let u := s.arg.c
  .next (
    match s.argCmd with
    | none => s
    | some x =>
      if x.phase != .finished || (s.arg.flag && s.staleReply) then s
      else
        match x.asked with
        | some dev =>
          if !s.arg.flag then s
          else if s.arg.reply = .lost then s.later .peerLostAnswer { EvArg.num u dev.toNat with inc := s.dev.incarn }
          else s.cmdFinish u { x with asked := none } (3 - x.stage)
        | none => if s.arg.flag then s else s.cmdFinish u x (3 - x.stage))

/-! ## Loom pulses (R171, R224) -/

/-- The oldest held command of the unit starts. -/
def State.matrixPulse (s : State) (u : Coord) (drainOnly : Bool) : State :=
  match (s.cluster u).cmds.find? (·.held) with
  | none => s
  | some x =>
    if drainOnly && x.op ≠ 3 then s
    else (s.setCmd u { x with held := false }).later .matrixCommandStart (.at u)

end Sys2Proof.Machine
end

