-- ==== Sys2Proof/Machine/Strands.lean ====
section
/-! DEFINITION. The life of strands: expiry, cut and annulment (R247, R253 to R256), `cut`, `ply` and `alw` (R259 to R261), and
packets at ingress (R249). -/
namespace Sys2Proof.Machine

/-! ## Arenas (R256, R308) -/

/-- The arena of an object's header. -/
def headerArena (h : Dword) : BitVec 20 := fld h 12 20

/-- The device VAs of a VF that its tables map to a flat address (R138 to R140). -/
def State.vasOf (s : State) (vf : Nat) (a : Nat) : List Nat :=
  let root := fldN (s.vf vf).vmroot 12 40 * 2 ^ 12
  let entry (table idx : Nat) : Dword := s.mem.dword (lpddrAddr (table + 8 * idx))
  let hit (e : Dword) (size va : Nat) : List Nat :=
    match leafEntry e size false 0 with
    | none => []
    | some leaf => let b := lpddrAddr (pteAddr leaf); if b ≤ a && a < b + size then [va + (a - b)] else []
  if !physOk root then []
  else (List.range 512).flatMap fun i =>
    ((tableEntry (entry root i) 4096).toList).flatMap fun t2 => (List.range 512).flatMap fun j =>
      ((tableEntry (entry t2 j) 4096).toList).flatMap fun t3 => (List.range 512).flatMap fun k =>
        let va := i * 2 ^ 39 + j * 2 ^ 30 + k * 2 ^ 21
        if s.subpaged vf (BitVec.ofNat 48 va) then
          ((tableEntry (entry t3 k) 16384).toList).flatMap fun t4 => (List.range 2048).flatMap fun l =>
            hit (entry t4 l) 1024 (va + 1024 * l)
        else hit (entry t3 k) (2 ^ 21) va

/-- The lines of the object whose header lies at the flat address `a`: those that its VAs map to, line by line; where no VA of the VF
leads there, those of its subpage (log 56). -/
def State.objectLines (s : State) (vf : Nat) (a n : Nat) : List Nat :=
  match s.vasOf vf a with
  | [] => (pieces 128 n a (min n (1024 - a % 1024))).map fun p => lineOf p.1
  | vas => vas.flatMap fun va => (pieces 128 n va n).filterMap fun p =>
      let v := BitVec.ofNat 48 p.1
      (s.walk vf false v 0).map fun leaf => lineOf (leafAddr leaf false (s.pageUnit vf false v).2 v)

/-- The PRIVATE lines that hold objects of an arena of the VF: an object's lines follow its header word, which may lie in a line that
is published (R309). -/
def State.arenaLines (s : State) (vf : Nat) (arena : BitVec 20) : List Nat :=
  let m := s.mem
  let words := ((m.ptags ++ m.tags).filterMap fun t => if m.tag (8 * t.1) == 2 then some t.1 else none).eraseDups
  let headers := words.filter fun w => headerArena (m.dword (8 * w)) = arena
  ((headers.flatMap fun w => s.objectLines vf (8 * w) (16 * max 1 (fldN (m.dword (8 * w)) 40 24))).eraseDups).filter fun l =>
    (m.owner.find? l).isSome

/-- The die keeps the arena killed, and the directory of each die drops the arena's PRIVATE lines without writing them back. -/
def State.killArena (s : State) (d : BitVec 3) (vf : Nat) (arena : BitVec 20) : State :=
  let s := s.modDie d fun x => { x with killed := if x.killed.contains arena then x.killed else x.killed ++ [arena] }
  let s := s.count d vf 11
  -- walks that wait for an object of the arena look again
  State.laters { s with mem := (s.arenaLines vf arena).foldl (fun m l => m.dropPrivate l) s.mem } s.walkWaiters

/-- The arenas that the rows of an entry name. -/
def StrandEntry.arenaIds (e : StrandEntry) : List (BitVec 20) :=
  if e.isPly then []
  else e.arenas.toList.flatMap fun r =>
    (if bit r 20 then [fld r 0 20] else []) ++ (if bit r 41 then [fld r 21 20] else [])
      ++ if bit r 62 then [fld r 42 20] else []

/-! ## Annulment (R255) -/

/-- The packet counts as having left its core's port when a strand ends: it has, or it waits behind the slot's earlier ones to its peer
(log 79). -/
def Packet.counts (p : Packet) : Bool := !p.inPort || (p.route matches .peer ..)

/-- The packets of a strand on a die that have left their cores' ports, and the ones that have not. Packets leave in program order, so that
every earlier one of its slot has left with one that has. The fill of a mailbox leaves no port, and its value is dropped (R189). -/
def splitLeft (d : BitVec 3) (id : BitVec 24) : List Packet → List Packet × List Packet
  | [] => ([], [])
  | p :: r =>
    let (left, gone) := splitLeft d id r
    let goes (q : Packet) : Bool := q.coord == p.coord && q.counts
    if p.coord.die == d && p.strand == id && ((p.op matches .mail _) || !(p :: r).any goes) then (left, p :: gone) else (p :: left, gone)

/-- Packets of the strand that have not left a port of the die are dropped, and the stores and atomics among them counted; one that has left
performs. -/
def State.dropPackets (s : State) (d : BitVec 3) (id : BitVec 24) : State :=
  let (left, gone) := splitLeft d id s.port
  let s := { s with port := left }
  gone.foldl (fun s p =>
    let s := match p.op with
      | .mail _ | .cut _ => s
      | .ship _ => s.later .shuttleSendTransmit (.at p.coord)
      | _ => s.count d p.vf 9
    let s := match p.completes with | some n => s.tlComplete p.coord p.vf 7 n | none => s
    s.released p) s

/-- Mailbox values of the strand, and those on their way, are dropped (R189). -/
def State.dropMail (s : State) (d : BitVec 3) (id : BitVec 24) : State :=
  { s with cores := s.cores.map fun kx =>
      if (Coord.ofKey (kx.1 * 16)).die != d then kx
      else (kx.1, { kx.2 with mb := kx.2.mb.map fun m => if (m.full || m.coming) && m.strand == id then Mailbox.reset else m }) }

/-- The slot waits for the reply to a load, or to an atomic that returns a value, which its end will have discarded (R258). -/
def Slot.awaitsValue (x : Slot) : Bool :=
  match x.hold with
  | some (.load i _ _) =>
    match i with
    | .fetchBlockDelivery | .zline _ => false
    | .enq .. | .tspawn .. => x.elems.isEmpty
    | i => !storesOnly i
  | _ => false

/-- Slots of the strand retire with CUT; the reply to a load that one waits for will be discarded (R255, R258). -/
def State.cutSlots (s : State) (d : BitVec 3) (id : BitVec 24) : State :=
  let mine := s.slots.filterMap fun kx =>
    let c := Coord.ofKey kx.1
    if c.die == d && kx.2.live && !kx.2.fw && kx.2.strand == id then some c else none
  mine.foldl (fun s c =>
    let s := if (s.core c).serving = some c.slot then s.modCore c fun k => { k with servedGone := true } else s
    let s := if (s.slot c).awaitsValue then s.count d (s.slot c).vf 3 else s
    s.retire c .cut) s

/-- Running copy entries of the strand stop at this packet boundary or at their record, and those that have not started complete in their turn without
moving anything (R207). -/
def State.cutCopies (s : State) (d : BitVec 3) (id : BitVec 24) : State :=
  let mine := s.cores.flatMap fun kx =>
    let c := Coord.ofKey (kx.1 * 16)
    if c.die != d then []
    else (List.range 4).flatMap fun n => (kx.2.ctx n).entries.filterMap fun e =>
      if e.strand == id && (e.phase != .moved || e.held) then some (c, n, e) else none
  mine.foldl (fun s x =>
    -- a request that a peer has still to answer is one that nothing waits for any more (R291)
    if x.2.2.phase = .running then
      State.entryMoved { s with loose := s.loose ++ x.2.2.asked.toList.map fun dev =>
        ({ coord := x.1, dev := dev, vf := x.2.2.vf, launch := none, stores := false } : Loose) } x.1 x.2.1 x.2.2 0x0023
    else s.later (if x.2.2.phase = .moved then .chainEntryComplete else .chainEntryStart) (.num x.1 x.2.1)) s

/-- Accepted commands of the strand in the units of the die stop at this step boundary (R184), and a drain at a 16-element
boundary of its visit order (R180). -/
def State.cutCommands (s : State) (d : BitVec 3) (id : BitVec 24) : State :=
  let mine := s.clusters.flatMap fun kx =>
    let u := Coord.ofKey (kx.1 * 128)
    if u.die != d then []
    else kx.2.cmds.filterMap fun x =>
      if x.strand == id && x.phase != .finished && x.phase != .sent && (x.phase != .draining || x.visited % 16 == 0) then
        some (u, x)
      else none
  mine.foldl (fun s x => s.cmdOver x.1 x.2 0x0023) s

/-- Join parties that watch the strand and have not arrived are lost (R222). -/
def State.loseParties (s : State) (d : BitVec 3) (vf : Nat) (id : BitVec 24) : State :=
  let watched := (s.die d).joins.flatMap fun j => (j.parties.filter fun p => p.2 == id).map fun p => (j.addr, p.1.toNat)
  watched.foldl (fun s w =>
    let a := w.1
    if (s.joinOf a).isNone || bit (s.mem.dword (a + 0x18)) w.2 || bit (s.mem.dword (a + 8)) (32 + w.2) then s
    else s.joinLose a w.2 vf) s

/-- Shuttle sends of the strand in clusters of the die stop: one that waits for a pulse of its loom, or behind such a one, too (R282). -/
def State.cutSends (s : State) (d : BitVec 3) (id : BitVec 24) : State :=
  let mine (x : Send) : Bool := x.strand == id
  (s.clusters.filterMap fun kx =>
    let u := Coord.ofKey (kx.1 * 128)
    if u.die == d && kx.2.sends.any mine then some u else none).foldl (fun s u =>
      (s.modCluster u fun cl => { cl with sends := cl.sends.map fun x => if mine x then { x with cut := true } else x }).later
        .shuttleSendTransmit (.at u)) s

/-- Launches that wait on the die are looked at again: their packet or their crews may be dropped. -/
def State.recheckLaunches (s : State) (d : BitVec 3) (vf : Nat) (id : BitVec 24) : State :=
  let clusters := ((s.die d).launches.filter fun l => l.strandOf == id).flatMap fun l =>
    (l.crews.filter fun k => !k.started && !k.retired).map (·.cluster)
  let s := s.laters (clusters.eraseDups.map fun c =>
    (Instr.crewStart, EvArg.at { die := d, cluster := c, core := 0, slot := 0 }))
  s.later .launchDistribute (.dieVf d vf)

/-- Everything of the strand that the die holds is annulled. -/
def State.annul (s : State) (d : BitVec 3) (vf : Nat) (id : BitVec 24) : State :=
  let s := s.dropPackets d id
  let s := s.dropMail d id
  let s := s.cutSlots d id
  let s := s.cutCopies d id
  let s := s.cutCommands d id
  let s := s.cutSends d id
  let s := s.loseParties d vf id
  s.recheckLaunches d vf id

/-- One entry ends, as a strand or as a ply. -/
def State.endOne (s : State) (d : BitVec 3) (i : Nat) (e : StrandEntry) (byCut : Bool) : State :=
  let now := s.now d
  let s := s.modDie d fun x => { x with strands := x.strands.set i { e with state := .ended byCut, expiry := now } }
  let s := s.count d e.vf (if byCut then 1 else 0)
  let s := s.annul d e.vf e.id
  e.arenaIds.foldl (fun s a => s.killArena d e.vf a) s

/-- R290: the target answers peer lost and performs nothing. -/
def State.staleRequest (s : State) (q : PeerReq) : Bool :=
  let e := s.peerEntry q.source
  q.targetInc != s.dev.incarn || !bit e 63 || bit e 62 || fld e 54 8 != q.sourceInc

/-- A cut of the entry has arrived at the die and is still to be applied. -/
def State.cutPending (s : State) (d : BitVec 3) (e : StrandEntry) : Bool :=
  s.agenda.any fun t =>
    match t with
    | .event .cutArrival a =>
      match a.peer with
      | some q => q.hdr.id == e.id && q.hdr.vf == e.vf && !s.staleRequest q
      | none => a.c.die == d && a.n == e.id.toNat && a.vf == e.vf
    | _ => false

/-- A cut goes on along the reach of its entry (R254). -/
def State.cutOn (s : State) (d : BitVec 3) (e : StrandEntry) : State :=
  let s := s.laters ((allDies.filter fun t => bit e.dies t.toNat && t != d).map fun t =>
    (Instr.cutArrival, { EvArg.dieVf t e.vf with n := e.id.toNat }))
  let devs : List (BitVec 9) :=
    if e.ovf then
      ((List.range 512).map (BitVec.ofNat 9)).filter fun v =>
        bit ((s.vf e.vf).domain.getD (v.toNat / 64) 0) (v.toNat % 64)
    else e.peers
  -- the header's VF is the one under which the strand's packets registered it there (R287)
  { s with
    out := s.out ++ devs.map fun v => Out.peerCut (s.outHdr d v e.id true) e.id
    loose := s.loose ++ devs.map fun v =>
      ({ coord := dieCoord d, dev := v, vf := e.vf, launch := none, stores := false } : Loose) }

/-- The plies of a die that list an ended strand and have no live member left end with it (R253); a cut of one that arrived in the same
cycle ends it, and is sent on (R247). -/
def State.endPlies (s : State) (d : BitVec 3) (id : BitVec 24) : State :=
  let x := s.die d
  let gone := List.filter (fun ie : Nat × StrandEntry =>
    ie.2.isPly && ie.2.isLive && ie.2.members.contains id && !ie.2.members.any x.strandLive) x.strands
  gone.foldl (fun s ie =>
    let byCut := s.cutPending d ie.2
    (if byCut then s.cutOn d ie.2 else s).endOne d ie.1 ie.2 byCut) s

/-- R247: a live entry ends, with its annulment. -/
def State.endStrand (s : State) (d : BitVec 3) (i : Nat) (e : StrandEntry) (byCut : Bool) : State :=
  let s := s.endOne d i e byCut
  if e.isPly then s else s.endPlies d e.id

/-- R254: a cut of `id` reaches a die. It goes on along the entry's reach. -/
def State.cutAt (s : State) (d : BitVec 3) (vf : Nat) (id : BitVec 24) : State :=
  match (s.die d).strandOf id with
  | none => s
  | some (i, e) =>
    if !e.isLive then s
    else if e.vf ≠ vf then s.count d vf 13
    else (s.cutOn d e).endStrand d i e true

/-! ## The table's own events (R247) -/

/-- `STRAND_EXPIRY` of entry `arg.n` on the die `arg.c`; a cut that arrived in the same cycle ends the entry instead.
The device wakes (R372). -/
def execStrandExpiry (s : State) : Res :=
  let d := s.arg.c.die
  let e := (s.die d).strands.get s.arg.n StrandEntry.reset
  .next (
    if e.isLive && (s.die d).expiryOf e ≤ s.now d then
      (if s.cutPending d e then s.cutAt d e.vf e.id else s.endStrand d s.arg.n e false).rouse
    else s)

/-- An ended entry is free after 1,000,000 ns of `c.now`. -/
def StrandEntry.freeable (e : StrandEntry) (now : Nat) : Bool :=
  (match e.state with | .ended _ => true | _ => false) && e.expiry + 1000000 ≤ now

/-- `STRAND_ENTRY_FREE` of entry `arg.n` on the die `arg.c`. -/
def execStrandEntryFree (s : State) : Res :=
  let d := s.arg.c.die
  let e := (s.die d).strands.get s.arg.n StrandEntry.reset
  .next (if e.freeable (s.now d) then s.modDie d fun x => { x with strands := x.strands.erase s.arg.n } else s)

/-- A packet that a page fault holds at its port, and whose carried expiry has passed on that die (R249). -/
def State.overdue (s : State) (p : Packet) : Bool :=
  p.held && match p.expires with | some x => x ≤ s.now p.coord.die | none => false

/-- The same of a peer's packet that this device holds. -/
def State.overdueHere (s : State) (h : HeldPeer) : Bool :=
  !h.dropped && match h.expires with | some x => x ≤ s.now h.die | none => false

/-- What is due by the clock of each die, in front of any other turn. -/
def State.due (s : State) : List Turn :=
  (s.port.filter s.overdue).map (fun p => .event .carriedExpiryDrop (.at p.coord))
    ++ (s.heldPeers.filter s.overdueHere).map (fun h => .event .carriedExpiryDrop { EvArg.at (dieCoord h.die) with flag := true })
    ++ s.dies.flatMap fun dx =>
    let d : BitVec 3 := BitVec.ofNat 3 dx.1
    dx.2.strands.filterMap fun ie =>
      if ie.2.isLive && dx.2.expiryOf ie.2 ≤ s.now d then some (.event .strandExpiry (.num (dieCoord d) ie.1))
      else if ie.2.freeable (s.now d) then some (.event .strandEntryFree (.num (dieCoord d) ie.1))
      else none

/-- An answer to a peer's request, which carries the requester's incarnation (R290). -/
def State.answerPeer (s : State) (q : PeerReq) (r : Reply) : State :=
  { s with out := s.out ++ [.peerAnswer q.source q.sourceInc r] }

/-- `CUT_ARRIVAL` of the id `arg.n` from the VF `arg.vf` at the die `arg.c`, or of the peer's cut `arg.peer`, which reaches every die and
wakes the device (R372). -/
def execCutArrival (s : State) : Res :=
  .next (
    match s.arg.peer with
    | some q =>
      (if s.staleRequest q then s.answerPeer q .lost
      else allDies.foldl (fun s d => s.cutAt d q.hdr.vf q.hdr.id) s).rouse
    | none => s.cutAt s.arg.c.die s.arg.vf (BitVec.ofNat 24 s.arg.n))

/-- `PACKET_INGRESS` of a packet with the header `arg.hdr` at the die `arg.c`. -/
def execPacketIngress (s : State) : Res := .next (s.ingress s.arg.c.die s.arg.hdr).1

/-- `CARRIED_EXPIRY_DROP`: a packet of the slot `arg.c` that a page fault holds is dropped once its carried expiry has passed (R249); the
die whose port holds it counts the drop. With `arg.flag` it is a peer's packet, held at a port of the die `arg.c`. -/
def execCarriedExpiryDrop (s : State) : Res :=
  let c := s.arg.c
  .next (
    if s.arg.flag then
      match takeFirst (fun h => h.die == c.die && s.overdueHere h) s.heldPeers with
      | none => s
      | some (h, rest) => State.count { s with heldPeers := rest ++ [{ h with dropped := true }] } c.die h.vf 6
    else
      match takeFirst (fun p => p.coord == c && s.overdue p) s.port with
      | none => s
      | some (p, rest) =>
        let s := { s with port := rest }
        (match p.route with | .here _ => s.count c.die p.vf 6 | .peer .. => s).packetOver c p)

/-! ## `cut`, `ply` and `alw` -/

/-- `cut` is a release of sys scope that never holds the slot (R259, R300). It leaves once every earlier access of the slot has left the port:
one on its way to a peer, or held by a page fault, has (log 119); one that still waits in the port has not, be it a store, the fill of a
mailbox or the release of a send. -/
def execCut (a : BitVec 5) (s : State) : Res :=
  let x := s.rg a
  let id : BitVec 24 := fld x 0 24
  .next (
    if id = 0 then s.trap 0x06 x
    else
      let s := s.drain s.cur
      let d := s.cur.die
      let vf := s.me.vf
      if s.port.any fun p => p.coord == s.cur && p.inPort then (s.sendLast (.cut id)).advance 4
      else if ((s.die d).strandOf id).isSome then (s.advance 4).cutAt d vf id
      else (s.advance 4).sendCut d vf id)

/-- The words of a member list that are valid. -/
def plyWords (bytes : List Byte) : List Word :=
  ((List.range 4).map fun j => BitVec.ofNat 32 (leNat ((bytes.drop (4 * j)).take 4))).filter fun w => bit w 31

/-- The list breaks the rules of R260. -/
def plyBad (ws : List Word) : Bool :=
  let ids := ws.map fun w => fldN w 0 24
  ws.any (fun w => fldN w 24 7 != 0 || fldN w 0 24 == 0 || bit w 23) || ids.eraseDups.length != ids.length

/-- A ply index of the die without an entry. -/
def State.freePly (s : State) (d : BitVec 3) : Option (BitVec 24) :=
  ((List.range 2048).map fun i => BitVec.ofNat 24 (2 ^ 23 + s.dev.devno.toNat * 2 ^ 14 + d.toNat * 2 ^ 11 + i)).find? fun id =>
    ((s.die d).strandOf id).isNone

/-- The ply's creation, and the value for gD. -/
def State.makePly (s : State) (d : BitVec 3) (vf : Nat) (ws : List Word) : State × Dword :=
  let x := s.die d
  let fail (r : Nat) : Dword := BitVec.ofNat 64 (2 ^ 64 - 256 + r)
  if plyBad ws then (s, fail 2)
  else
    let members := (ws.map fun w => (fld w 0 24 : BitVec 24)).filter fun id =>
      match x.strandOf id with | some (_, e) => e.isLive && e.vf == vf | none => false
    if members.isEmpty then (s, fail 1)
    else
      match x.freeStrand 8192, s.freePly d with
      | some i, some id =>
        (s.setDie d { x with strands := x.strands.set i { StrandEntry.reset with
          state := .live, isPly := true, vf := vf, id := id, members := members, expiry := x.plyExpiry members } },
         id.setWidth 64)
      | _, _ => (s, fail 3)

/-- The member list has been read. -/
def State.finPly (s : State) (d : BitVec 5) (bytes : List Byte) : State :=
  let (s, v) := s.makePly s.cur.die s.me.vf (plyWords bytes)
  (s.wg d v).advance 4

def execPly (d a : BitVec 5) (s : State) : Res :=
  let p := s.rg a
  .next (
    s.aligned p 16 <| s.loadThen (.ply d a) p 16 rightR accR (fun _ => p) fun bytes s => s.finPly d bytes)

/-- The allowance that `alw` reads (R261). -/
def State.allowanceOf (s : State) (d : BitVec 3) (id : BitVec 24) : Dword :=
  if id = 0 then 0xFFFFFFFF else BitVec.ofNat 64 (min (s.remaining d id) (2 ^ 32 - 2))

def execAlw (d : BitVec 5) (s : State) : Res :=
  .next ((s.wg d (s.allowanceOf s.cur.die s.me.strand)).advance 4)

end Sys2Proof.Machine
end

