-- ==== Sys2Proof/Machine/Shuttle.lean ====
section
/-! DEFINITION. Shuttle rings and sends (R277 to R286), and active messages (R294, R295). -/
namespace Sys2Proof.Machine

/-! ## Rings (R277, R278, R279) -/

/-- The cluster of the paired die with a number (R10). -/
def pairOf (u : Coord) (cl : BitVec 6) : Coord := { die := u.die ^^^ 4, cluster := cl, core := 0, slot := 0 }

def rxEn (w : Dword) : Bool := bit w 63
def rxVf (w : Dword) : Nat := fldN w 54 9
def rxPeer (w : Dword) : BitVec 6 := fld w 48 6
def rxFirst (w : Dword) : Nat := fldN w 44 4
def rxBanks (w : Dword) : Nat := fldN w 40 4 + 1
def rxSlots (w : Dword) : Nat := fldN w 34 6 + 1
def rxSize (w : Dword) : Nat := 256 * (fldN w 26 8 + 1)

/-- The flat address of a landing slot. -/
def slotAddr (u : Coord) (w : Dword) (n : Nat) : Nat := bankAddr u.clusterKey (rxFirst w * 2 ^ 17 + n * rxSize w)

/-- R278: the value may take effect. -/
def State.rxLegal (s : State) (u : Coord) (w : Dword) : Bool :=
  let mode := (s.cluster u).bankmode
  rxFirst w + rxBanks w ≤ 16
    && ((List.range (rxBanks w)).all fun b => bankMode mode (rxFirst w + b) == 2)
    && rxSlots w * rxSize w ≤ rxBanks w * 2 ^ 17 && (pairOf u (rxPeer w)).ok

/-- A send of the cluster has arrived at its receiver and is not yet acknowledged. -/
def Cluster.sending (cl : Cluster) : Bool := match cl.sends with | x :: _ => x.started | [] => false

/-- A send to the ring of cluster `u` is in flight. -/
def State.receiving (s : State) (u : Coord) : Bool :=
  (clustersOf (u.die ^^^ 4)).any fun c =>
    let t := s.cluster (pairOf u c)
    t.sending && t.shtxTarget == u.cluster

/-- `c.shrx` takes a value: every slot is empty (R278); a copy under way no longer counts as full. -/
def State.writeShrx (s : State) (u : Coord) (v : Dword) : State :=
  let w := v &&& 0xFFFFFFFFFC000000
  let w := if s.rxLegal u w then w else putFld w 63 (0 : BitVec 1)
  s.modCluster u fun x => { x with shrx := w, rd := 0, wr := 0, full := 0, resv := 0, taking := [] }

/-- `c.shtx` takes a value: the cluster holds no permit, and sequence numbers start again (R278, R279). -/
def State.writeShtx (s : State) (u : Coord) (v : Dword) : State :=
  s.modCluster u fun x =>
    { x with shtxEn := bit v 63, shtxVf := fld v 54 9, shtxTarget := fld v 48 6, permits := 0, seq := 0 }

/-- `SHRX_WRITE` and `SHTX_WRITE` of the cluster `arg.c` with `arg.v`, once no send is in flight. -/
def execShrxWrite (s : State) : Res := .next (if s.receiving s.arg.c then s else s.writeShrx s.arg.c s.arg.v)
def execShtxWrite (s : State) : Res :=
  .next (if (s.cluster s.arg.c).sending then s else s.writeShtx s.arg.c s.arg.v)

/-! ## `shsend` and `shpermit` (R284, R286) -/

def execShsend (a b : BitVec 5) (k : BitVec 3) (s : State) : Res :=
  let p := s.rg a
  let w := s.rg b
  let cl := s.cluster s.cur
  let n := fldN w 0 17
  .next (
    if !cl.shtxEn || cl.shtxVf.toNat ≠ s.me.vf then s.trap 0x06 p
    else if fldN w 17 14 ≠ 0 || n = 0 || 256 * (cl.shtxSize.toNat + 1) - 16 < n then s.trap 0x05 w
    else
      s.aligned p 64 <|
        if !(s.kindOf p == 1 || s.kindOf p == 2 || s.kindOf p == 7) then s.trap 0x06 p
        else
          match s.enginePlace s.cur s.me.vf none (s.rptr p) n rightR with
          | .error e => s.stopAt s.cur e accR p
          | .ok pl =>
            if cl.permits = 0 then (s.wk k 0).advance 4
            else
              -- the slot never leaves the rotation: the send itself waits for what a peer or a `wake` has to finish
              let s := s.drain s.cur
              let waits := s.outstanding s.cur
              let (s, num) := s.tlNext s.cur 6
              let x : Send := {
                src := s.rptr p, srcAddr := pl.addrs.headD 0, count := n, head := fld w 32 32, held := bit w 31
                strand := s.me.strand, core := s.cur.core, slot := s.cur.slot, seq := cl.seq, num := num, vf := s.me.vf
                waits := waits, cut := false, started := false, moved := 0, status := 0, trailed := false }
              let s := s.modCluster s.cur fun c =>
                { c with permits := c.permits - 1, seq := c.seq + 1, sends := c.sends ++ [x] }
              let none : Place := { addrs := [], peer := none, policy := 0, xcl := false, pages := [] }
              let s := if waits then s.send (s.packet s.cur 0 (.here hostBase) (.ship num) none)
                else s.later .shuttleSendTransmit (.at s.cur)
              (s.wk k (BitVec.allOnes 64)).advance 4)

/-- Landing slots that are neither full nor granted (R280). -/
def Cluster.freeSlots (cl : Cluster) : Nat := rxSlots cl.shrx - cl.full - cl.resv

/-- The slot may use the cluster's ring. -/
def State.ringOk (s : State) : Bool := rxEn (s.cluster s.cur).shrx && rxVf (s.cluster s.cur).shrx == s.me.vf

def execShpermit (a : BitVec 5) (s : State) : Res :=
  let cl := s.cluster s.cur
  let g := min (fldN (s.rg a) 0 7) cl.freeSlots
  .next (
    if !s.ringOk then s.trap 0x06 (s.rg a)
    else if g = 0 then s.advance 4
    else
      let t := pairOf s.cur (rxPeer cl.shrx)
      let s := s.modCluster s.cur fun c => { c with resv := c.resv + g }
      let s := s.modCluster t fun c =>
        { c with grants := c.grants ++ [{ permits := g, size := fld cl.shrx 26 8, source := s.cur.cluster }] }
      (s.later .permitArrival (.at t)).advance 4)

/-- `PERMIT_ARRIVAL` at the cluster `arg.c`: its oldest grant counts, or goes back to its receiver (R280). -/
def execPermitArrival (s : State) : Res :=
  let u := s.arg.c
  let cl := s.cluster u
  .next (
    match cl.grants with
    | [] => s
    | g :: rest =>
      let s := s.modCluster u fun c => { c with grants := rest }
      if cl.shtxEn && g.source = cl.shtxTarget then
        s.modCluster u fun c => { c with permits := c.permits + g.permits, shtxSize := g.size }
      else s.modCluster (pairOf u g.source) fun c => { c with resv := c.resv - g.permits })

/-! ## Transmission (R281, R282) -/

/-- The head of a cluster's send queue changes. -/
def State.modSend (s : State) (u : Coord) (f : Send → Send) : State :=
  s.modCluster u fun c => { c with sends := match c.sends with | [] => [] | x :: r => f x :: r }

/-- The head leaves the queue, its number completes, and those who wait for the ring go on. -/
def State.sendOver (s : State) (u : Coord) (x : Send) : State :=
  let s := s.modCluster u fun c => { c with sends := c.sends.tail }
  let s := s.tlComplete { u with core := x.core } x.vf 6 x.num
  let s := s.unhold fun y => y.hold == some .ring
  s.later .shuttleSendTransmit (.at u)

/-- The head ends with a void trailer. -/
def State.voidSend (s : State) (u : Coord) (st : Byte) : State :=
  (s.modSend u fun x => { x with status := st }).later .shuttleTrailerWrite (.at u)

/-- `SHUTTLE_SEND_TRANSMIT` at the cluster `arg.c`: the head arrives at its receiver, which takes or refuses it whole. -/
def execShuttleSendTransmit (s : State) : Res :=
  let u := s.arg.c
  let cl := s.cluster u
  let t := pairOf u cl.shtxTarget
  .next (
    match cl.sends with
    | [] => s
    | x :: _ =>
      -- one that is annulled waits for no pulse and no access any more: it stops at this boundary (R282)
      let dead := x.cut || !(s.die u.die).strandLive x.strand
      if x.started || ((x.held || x.waits) && !dead) then s
      else
        let rx := (s.cluster t).shrx
        if !rxEn rx || rxVf rx ≠ x.vf || rxPeer rx ≠ u.cluster then s.sendOver u x
        else
          let s := s.modSend u fun x => { x with started := true }
          if dead then s.voidSend u 0x23
          else
            match s.cross u.die t.die true x.strand x.vf true with
            | (s, false) => s.voidSend u 0x23
            | (s, true) => s.later .shuttlePayloadPacket (.at u))

/-- `SHUTTLE_PAYLOAD_PACKET`: up to 256 bytes of the head, formed as they are read, go to landing slot wr. -/
def execShuttlePayloadPacket (s : State) : Res :=
  let u := s.arg.c
  let cl := s.cluster u
  let t := pairOf u cl.shtxTarget
  .next (
    match cl.sends with
    | [] => s
    | x :: _ =>
      if !x.started || x.trailed || x.status ≠ 0 || x.count ≤ x.moved then s
      else if x.cut || !(s.die u.die).strandLive x.strand then s.voidSend u 0x23
      else
        match s.cross u.die t.die true x.strand x.vf false with
        | (s, false) => s.voidSend u 0x23
        | (s, true) =>
          let n := min 256 (x.count - x.moved)
          let src := (List.range n).map (x.srcAddr + x.moved + ·)
          let rx := s.cluster t
          let dst := (List.range n).map (slotAddr t rx.shrx rx.wr + x.moved + ·)
          match firstRefused s.mem u.clusterKey src, firstRefused s.mem t.clusterKey dst with
          | some (cause, _), _ => s.voidSend u cause
          | none, some (cause, _) => s.voidSend u cause
          | none, none =>
            let s := s.store (dst.zip (s.mem.bytesAt src)) 0
            let s := s.modSend u fun x => { x with moved := x.moved + n }
            s.later (if x.moved + n < x.count then .shuttlePayloadPacket else .shuttleTrailerWrite) (.at u))

/-- The trailer of a send (R279): a void one has count 0. -/
def Send.trailer (x : Send) : List Byte :=
  let d0 := x.head.toNat * 2 ^ 32 + x.status.toNat * 2 ^ 24 + if x.status = 0 then x.count else 0
  let d1 := x.seq.toNat * 2 ^ 32 + x.core.toNat * 2 ^ 24 + x.strand.toNat
  leBytes 8 d0 ++ leBytes 8 d1

/-- `SHUTTLE_TRAILER_WRITE`: the trailer overwrites its 16 bytes whatever their tags, and the slot is full. -/
def execShuttleTrailerWrite (s : State) : Res :=
  let u := s.arg.c
  let cl := s.cluster u
  let t := pairOf u cl.shtxTarget
  .next (
    match cl.sends with
    | [] => s
    | x :: _ =>
      if !x.started || x.trailed || (x.status = 0 && x.moved < x.count) then s
      else
        let rx := s.cluster t
        -- a trailer that is not void is a packet of the strand, which may be dropped at ingress (R249)
        let dead := x.status = 0 && (x.cut || !(s.die u.die).strandLive x.strand)
        let (s, arrives) := if x.status = 0 && !dead then s.cross u.die t.die true x.strand x.vf false else (s, true)
        let x := if dead || !arrives then { x with status := 0x23 } else x
        let a := slotAddr t rx.shrx rx.wr + rxSize rx.shrx - 16
        let s := s.store (at' a x.trailer) 0
        let s := s.modCluster t fun c =>
          { c with full := c.full + 1, resv := c.resv - 1, wr := (c.wr + 1) % rxSlots c.shrx }
        (s.modSend u fun _ => { x with trailed := true }).later .shuttleSendComplete (.at u))

/-- `SHUTTLE_SEND_COMPLETE`: the receiver has acknowledged the trailer of the head. -/
def execShuttleSendComplete (s : State) : Res :=
  let u := s.arg.c
  .next (
    match (s.cluster u).sends with
    | [] => s
    | x :: _ => if x.trailed then s.sendOver u x else s)

/-- The loom's pulse of kind 4 (R224, R281): the head, if it is held, is released. -/
def State.shuttlePulse (s : State) (u : Coord) : State :=
  match (s.cluster u).sends with
  | [] => s
  | x :: _ =>
    if x.held then (s.modSend u fun x => { x with held := false }).later .shuttleSendTransmit (.at u) else s

/-! ## `shrecv` (R285) -/

def execShrecv (d : BitVec 5) (k : BitVec 3) (s : State) : Res :=
  let p := s.rg d
  let cl := s.cluster s.cur
  .next (
    if !s.ringOk then s.trap 0x06 p
    else
      s.aligned p 64 <|
        if s.kindOf p ≠ 1 then s.trap 0x06 p
        else
          s.withPlace p (rxSize cl.shrx - 16) rightW accW fun pl =>
            -- a slot that another instruction has taken counts as full until its copy is done
            if cl.full ≤ cl.taking.length then (s.wk k 0).advance 4
            else
              let s := s.modCluster s.cur fun c =>
                { c with rd := (c.rd + 1) % rxSlots c.shrx, taking := c.taking ++ [s.cur] }
              (s.leave (.shrecv k d cl.rd pl.addrs)).later .shrecvCopyDone (.at s.cur))

/-- What an `shrecv` leaves in its slot: the trailer's dwords, whose reserved bits `c.shsrc` does not take (R6, R285). -/
def Slot.received (x : Slot) (k : BitVec 3) (d : BitVec 5) (d0 d1 : Dword) : Slot :=
  { (((x.wg d d0).wk k (BitVec.allOnes 64)).done 4) with shsrc := d1 &&& 0xFFFFFFFF07FFFFFF }

/-- A record whose access was refused: the slot takes the trap when it is restored (R325, R342). -/
def Slot.refusedLater (x : Slot) (cause : BitVec 8) (tval : Dword) : Slot := { x with hold := none, elems := [], pend := some (cause, tval) }

/-- The copy of landing slot `n` of cluster `u` to flat addresses: it stops at the first word refused on either side. -/
def State.copyLanding (s : State) (u : Coord) (n : Nat) (dest : List Nat) : State × Dword × Dword × Option Nat :=
  let rx := (s.cluster u).shrx
  let a := slotAddr u rx n
  let d0 := s.mem.dword (a + rxSize rx - 16)
  let d1 := s.mem.dword (a + rxSize rx - 8)
  let count := min (fldN d0 0 17) (rxSize rx - 16)
  let src := (List.range count).map (a + ·)
  let dst := dest.take count
  let at1 := (firstRefused s.mem u.clusterKey src).map (·.2)
  let at2 := (firstRefused s.mem u.clusterKey dst).map (·.2)
  let bad := match at1, at2 with
    | some i, some j => some (min i j / 8 * 8)
    | some i, none => some (i / 8 * 8)
    | none, some j => some (j / 8 * 8)
    | none, none => none
  let m := bad.getD count
  let s := if m = 0 then s
    else State.store { s with mem := s.cohStore u.clusterKey 2 (dst.take m) } ((dst.take m).zip (s.mem.bytesAt (src.take m))) 0
  (s, d0, d1, bad)

/-- `SHRECV_COPY_DONE` of the slot `arg.c`: the landing slot is free whatever became of the slot; a pre-empted one completes in
its record. -/
def execShrecvCopyDone (s : State) : Res :=
  let c := s.arg.c
  .next (
    let s := if (s.cluster c).taking.contains c
      then s.modCluster c fun x => { x with taking := x.taking.erase c, full := x.full - 1 } else s
    match (s.slot c).hold with
    | some (.shrecv k d n dest) =>
      let (s, d0, d1, bad) := s.copyLanding c n dest
      match bad with
      | some j => s.trapAt c 0x09 (ptrAdd ((s.slot c).rg d) (BitVec.ofNat 60 j)) (s.slot c).pc
      | none => s.modSlot c (·.received k d d0 d1)
    | _ =>
      match s.savedWith c fun h => h matches .shrecv .. with
      | some (vf, w, .shrecv k d n dest) =>
        let (s, d0, d1, bad) := s.copyLanding c n dest
        s.modSaved vf w c fun x =>
          match bad with
          | some j => x.refusedLater 0x09 (ptrAdd (x.rg d) (BitVec.ofNat 60 j))
          | none => x.received k d d0 d1
      | _ => s)

/-! ## Active messages (R294, R295) -/

/-- The VF of a core: that of its lowest live slot below 13. -/
def State.coreVf (s : State) (c : Coord) : Option Nat :=
  (((List.range 13).map fun i => s.slot (c.at (BitVec.ofNat 4 i))).find? (·.live)).map (·.vf)

/-- The message has been read (R295). -/
def State.finAmsg (s : State) (target : Dword) (p : Dword) (bytes : List Byte) : State :=
  let m : Message := {
    dwords := leDwords 8 bytes, sender := s.cur.bits s.dev.devno, inc := s.dev.incarn, strand := s.me.strand, vf := s.me.vf
    num := s.msgNum }
  let hold : Hold := .message target m.num
  if fldN (m.dwords.headD 0) 8 56 ≠ 0 then s.trap 0x05 p
  else
    let dev : BitVec 9 := fld target 16 9
    let s := { s with msgNum := m.num + 1 }
    if dev ≠ s.dev.devno then
      (State.reachedPeer { s with out := s.out ++ [.peerMessage (s.outHdr s.cur.die dev m.strand true) m.num target m.dwords] }
        s.cur.die dev m.strand).leave hold
    else
      let t := Coord.ofBits target
      match s.cross s.cur.die t.die false m.strand m.vf true with
      | (s, false) => s.leave hold
      | (s, true) => (State.leave { s with msgs := s.msgs ++ [(t.at 14, m)] } hold).later .amsgAccept (.at (t.at 14))

/-- R289 for a message or a wake: the checks of the peer table for the device of a coordinate. -/
def State.deviceOk (s : State) (target : Dword) (k : State) : State :=
  let dev : BitVec 9 := fld target 16 9
  if dev = s.dev.devno then k
  else if !s.peerOk s.me.vf dev then s.trap 0x05 target
  else if s.peerLost dev then s.trap 0x0B target
  else k

def execAmsg (a b : BitVec 5) (s : State) : Res :=
  let t := s.rg a
  let p := s.rg b
  .next (
    if s.cur.slot = 14 then s.trap 0x06 t
    else if !(Coord.ofBits t).ok then s.trap 0x05 t
    else
      s.deviceOk t <|
        s.aligned p 64 <|
          s.releaseThen fun s => s.behind (fld t 16 9) fun s =>
            s.loadThen (.amsg a b) p 64 rightR accR (wordPtr p) fun bytes s => s.finAmsg t p bytes)

/-- The sender's slot after an answer: accepted, refused with a cause, or lost. -/
def Slot.answered (x : Slot) (r : Reply) : Slot :=
  match r with
  | .refused cause _ => { x with rfault := putFld x.rfault 48 cause }
  | _ => x

def Reply.cause : Reply → BitVec 8
  | .lost => 0x0B
  | _ => 0x0A

/-- A saved sender after an answer (R342). -/
def Slot.messageReplied (x : Slot) (r : Reply) : Slot :=
  match r, x.hold with
  | .data _, _ => x.done 4
  | _, some (.message t _) => (x.answered r).refusedLater r.cause t
  | _, _ => x

/-- The hold is for the answer to the message with this number. -/
def Hold.isMessage (num : Nat) : Hold → Bool
  | .message _ n => n == num
  | _ => false

/-- The sender of the message with a number hears of its fate, a pre-empted one in its record; one that has ended does not. -/
def State.messageAnswer (s : State) (c : Coord) (num : Nat) (r : Reply) : State :=
  match (s.slot c).hold.filter (Hold.isMessage num) with
  | some (.message t _) =>
    match r with
    | .data _ => s.complete c 4
    | _ => (s.modSlot c (·.answered r)).trapAt c r.cause t (s.slot c).pc
  | _ =>
    match s.savedWith c (Hold.isMessage num) with
    | none => s
    | some (vf, w, _) => s.modSaved vf w c (·.messageReplied r)

/-- The answer to a message goes to its sender, on this device or another. -/
def State.answerSender (s : State) (m : Message) (r : Reply) : State :=
  let dev : BitVec 9 := fld m.sender 16 9
  if dev = s.dev.devno then s.messageAnswer (Coord.ofBits m.sender) m.num r
  else { s with out := s.out ++ [.peerAnswer dev m.inc r] }

/-- The device that the slot's message with a number awaits an answer of, on the core or in its record. -/
def State.messageTo (s : State) (c : Coord) (num : Nat) : Option (BitVec 9) :=
  let h := match (s.slot c).hold.filter (Hold.isMessage num) with
    | some h => some h
    | none => (s.savedWith c (Hold.isMessage num)).map fun x : Nat × Standing × Hold => x.2.2
  h.bind (Hold.awaits s.dev.devno)

/-- `AMSG_ACCEPT`: the oldest message for the core `arg.c` is accepted into its queue of 16, kept, or refused where the core is of
another VF. With `arg.flag`, a peer's answer `arg.reply` to the message `arg.n` of the slot `arg.c`. -/
def execAmsgAccept (s : State) : Res :=
  let c := s.arg.c
  .next (
    if s.arg.flag then
      if s.staleReply then s
      else
        match s.arg.reply, s.messageTo c s.arg.n with
        -- an answer of peer lost loses the device, and with it the message (R291)
        | .lost, some dev => s.later .peerLostAnswer { EvArg.num c dev.toNat with inc := s.dev.incarn }
        | .lost, none => s
        | r, _ => s.messageAnswer c s.arg.n r
    else
      match takeFirst (fun m : Coord × Message => m.1.coreKey == c.coreKey) s.msgs with
      | none => s
      | some ((t, m), rest) =>
        if (match s.coreVf t with | some v => v != m.vf | none => false) then
          State.answerSender { s with msgs := rest } m (.refused 0x06 0)
        else if 16 ≤ (s.core t).amq.length then s
        else
          let s := (State.modCore { s with msgs := rest } t fun k => { k with amq := k.amq ++ [m] }).answerSender m
            (.data [])
          s.later .activeMessageStart (.at (t.at 14)))

/-- Slot 14 at the first instruction of a handler (R294). -/
def Slot.handle (x : Slot) (m : Message) (amvec tvec : Dword) : Slot :=
  let y := x.begin {
    vf := m.vf, pc := ptrAdd amvec (BitVec.ofNat 60 (64 * fldN (m.dwords.headD 0) 0 8)), arg := 0, sg := x.sg
    strand := m.strand, cls := 0, priv := false, crew := 0, qown := x.qown, tvec := tvec, launch := none }
  { y with g := Vector.ofFn fun i =>
      if 1 ≤ i.val && i.val ≤ 7 then m.dwords.getD i.val 0 else if i.val = 8 then m.sender else 0 }

/-- `ACTIVE_MESSAGE_START` of slot 14 of the core `arg.c`: the next message's handler starts; one of an ended strand is
dropped. -/
def execActiveMessageStart (s : State) : Res :=
  let c := s.arg.c.at 14
  .next (
    match (s.core c).amq with
    | [] => s
    | m :: rest =>
      if (s.slot c).live || s.paused m.vf then s
      else
        let s := (s.modCore c fun k => { k with amq := rest }).later .amsgAccept (.at c)
        if (s.die c.die).strandLive m.strand then
          s.modSlot c (·.handle m (s.core c).amvec (s.vf m.vf).vftvec)
        else s.later .activeMessageStart (.at c))

end Sys2Proof.Machine
end

