-- ==== Sys2Proof/Machine/Loom.lean ====
section
/-! DEFINITION. The loom: terms and start lines (R223, R224). -/
namespace Sys2Proof.Machine

/-- Every counter of term `t` is high. -/
def Cluster.termHigh (x : Cluster) (t : Dword) : Bool :=
  bit t 63 && fldN t 0 16 != 0
    && (List.range 16).all fun i => !bit t i || loomHigh (x.ct.getD i 0)

/-- The firing of a term subtracts thr from each of its counters. -/
def Cluster.termFire (x : Cluster) (t : Dword) : Cluster :=
  { x with ct := Vector.ofFn fun i =>
      let e := x.ct.get i
      if bit t i.val then putFld e 0 (fld e 0 32 - (fld e 32 16 : BitVec 16).setWidth 32) else e }

/-- The terms in ascending index: the cluster after them, and the terms that fired. -/
def Cluster.loomTerms (x : Cluster) : Cluster × List Nat :=
  (List.range 16).foldl (fun (a : Cluster × List Nat) i =>
    let t := a.1.term.getD i 0
    if a.1.termHigh t then (a.1.termFire t, a.2 ++ [i]) else a) (x, [])

/-- One pulse of a start line of the cluster `u`. -/
def State.pulse (s : State) (u : Coord) (line : Dword) : State :=
  let c : Coord := { u with core := fld line 4 3, slot := fld line 0 4 }
  match fldN line 56 3 with
  | 1 => s.matrixPulse u false
  | 2 => s.matrixPulse u true
  | 3 => if fldN line 0 4 < 4 then s.chainPulse (c.at 0) (fldN line 0 4) else s
  | 4 => s.shuttlePulse u
  | 5 => s.later .wakeDelivery { EvArg.at c with vf := (s.slot c).vf }
  | _ => s

/-- `LOOM_TERM_FIRE` at the cluster `arg.c`: the terms, then one pulse of every line that a fired term drives. -/
def execLoomTermFire (s : State) : Res :=
  let u : Coord := { s.arg.c with core := 0, slot := 0 }
  let (x, fired) := (s.cluster u).loomTerms
  .next (
    if fired.isEmpty then s
    else
      let s := s.setCluster u x
      let lines := x.line.toList.filter fun l => bit l 63 && fired.any fun t => bit l (32 + t)
      let s := lines.foldl (fun s l => s.pulse u l) s
      if (s.cluster u).loomReady then s.later .loomTermFire (.at u) else s)

end Sys2Proof.Machine
end

