-- ==== Sys2Proof/Machine/Ximm.lean ====
section
/-! DEFINITION. The prefix `ximm` with its follower (R42, R43; log 21). -/
namespace Sys2Proof.Machine

/-- The major opcodes that may follow a prefix (R42). -/
def prefixable (w : Word) : Bool := [0x08, 0x09, 0x0A, 0x0B, 0x0D, 0x14, 0x15, 0x16, 0x18, 0x1B].contains (fldN w 26 6)

/-- A prefixed follower: its immediate or offset takes the prefix's bits, and the pair is 8 bytes long. -/
def State.follower (s : State) (x : BitVec 26) (w : Word) (i : Instr) : State :=
  let pair : Instr := .ximm x w
  match i with
  | .addi d a im => s.immOp d a (immPrefixed x im) 8 (· + ·)
  | .andi d a im => s.immOp d a (immPrefixed x im) 8 (· &&& ·)
  | .ori d a im => s.immOp d a (immPrefixed x im) 8 (· ||| ·)
  | .xori d a im => s.immOp d a (immPrefixed x im) 8 (· ^^^ ·)
  | .cmpiEq k a im => s.immCmp k a (immPrefixed x im) 8 (· == ·)
  | .cmpiNe k a im => s.immCmp k a (immPrefixed x im) 8 (· != ·)
  | .cmpiLt k a im => s.immCmp k a (immPrefixed x im) 8 fun u v => u.toInt < v.toInt
  | .cmpiGe k a im => s.immCmp k a (immPrefixed x im) 8 fun u v => v.toInt ≤ u.toInt
  | .ld d a z _ f => s.ldAt pair d z (s.eptr a (offPrefixed x f) (szBytes z)) 8
  | .st d a z q f => s.stAt pair d z (q == 1) (s.eptr a (offPrefixed x f) (szBytes z)) 8
  | .ldf d a z f => s.ldfAt pair d z (s.eptr a (offPrefixed x f) (ldfSize z)) 8
  | .ste d a z f => s.steAt pair d z (s.eptr a (offPrefixed x f) (steSize z)) 8
  | .vld d a _ f => s.vldAt pair d (s.eptr a (offPrefixed x f) 64) 8
  | .vst d a q f => s.vstAt pair d (q == 1) (s.eptr a (offPrefixed x f) 64) 8
  | .ldk d a _ f => s.ldkAt pair d (s.eptr a (offPrefixed x f) 8) 8
  | _ => s.trap 0x01 (instrWord pair)

/-- A pair used against R42 or R43 traps at the prefix, and the prefix word is reported; an illegal follower of an allowed
opcode is reported itself (R45). -/
def execXimm (x : BitVec 26) (f : BitVec 32) (s : State) : Res :=
  .next (
    if x = BitVec.allOnes 26 || !prefixable f then s.trap 0x01 (instrWord (.ximm x f))
    else
      match decodeWord f with
      | none => s.trap 0x01 (f.setWidth 64)
      | some i => s.follower x f i)

end Sys2Proof.Machine
end

