-- ==== Sys2Proof/Machine/Peers.lean ====
section
/-! DEFINITION. Replies to waited accesses (R144, R293, R342), requests from peer devices (R290), the loss of a peer (R291,
R292), and what posted packets do when their events come (R144, R292). -/
namespace Sys2Proof.Machine

/-! ## Replies (R144, R293) -/

/-- A prefixed access (R42). -/
def State.finFollower (s : State) (f : Word) (bytes : List Byte) : State :=
  match decodeWord f with
  | some (.ld d _ z _ _) => s.finLd d z 8 bytes
  | some (.ldk d _ _ _) => s.finLdk d 8 bytes
  | some (.vld d _ _ _) => s.finVld d 8 bytes
  | some (.st _ _ z _ _) => s.finSt z 8
  | some (.vst ..) => s.advance 8
  | _ => s

/-- The entry that `capp` waited for is appended, and the chain goes on (R193). -/
def State.finCapp (s : State) (i : Instr) (fw : Bool) (ctx : Nat) (p : Dword) (bytes : List Byte) : State :=
  match s.me.cappPos with
  | none => s
  | some (k, _) => (s.append ctx p bytes).cappGo i fw ctx (63 - k) (leDword ((bytes.drop 8).take 8))

/-- The registers, element type and operation of a vector atomic (R155). -/
def vatomicOf : Instr → Option (BitVec 5 × BitVec 5 × BitVec 3 × BitVec 4 × BitVec 4)
  | .vaadd a b k t => some (a, b, k, t, 4)
  | .vamin a b k t => some (a, b, k, t, 5)
  | .vamax a b k t => some (a, b, k, t, 6)
  | .vaand a b k t => some (a, b, k, t, 7)
  | .vaor a b k t => some (a, b, k, t, 8)
  | .vaxor a b k t => some (a, b, k, t, 9)
  | _ => none

/-- One more access of the instruction has been answered. -/
def Slot.answeredEl (x : Slot) (bytes : List Byte) : Slot := { x with hold := none, elems := x.elems ++ [bytes] }

/-- The elements of the current instruction that no peer has answered yet. -/
def State.unanswered (s : State) (els : List (Nat × Dword)) : List (Nat × Dword) := els.drop s.me.elems.length

/-- The current slot's instruction `i` goes on with the bytes that its home returned. -/
def State.finLoad (s : State) (i : Instr) (p : Dword) (bytes : List Byte) : State :=
  match i with
  | .ld d _ z _ _ => s.finLd d z 4 bytes
  | .ldk d _ _ _ => s.finLdk d 4 bytes
  | .vld d _ _ _ => s.finVld d 4 bytes
  | .st _ _ z _ _ => s.finSt z 4
  | .vst .. => s.advance 4
  | .ximm _ f => s.finFollower f bytes
  | .vldMasked d a k t => (s.modMe (·.answeredEl bytes)).askEls i d t (s.masked a k t)
  | .vgather d a b k t => (s.modMe (·.answeredEl bytes)).askEls i d t (s.offsets a b k t)
  | .vstMasked d a k t =>
    let s := s.modMe (·.answeredEl [])
    s.storeEls i (s.unanswered (s.masked a k t)) (elemWidth t / 8) (s.el t d)
  | .vscatter d a b k t =>
    let s := s.modMe (·.answeredEl [])
    s.storeEls i (s.unanswered (s.offsets a b k t)) (elemWidth t / 8) (s.el t d)
  | .dtload x a => (s.modMe (·.answeredEl bytes)).askImage x a
  | .zline _ | .swadd .. | .swexp .. | .jadd .. => s.advance 4
  | .fetchBlockDelivery => s.finFetch p bytes
  | .waitm _ =>
    match s.dataPlace s.cur p 1 rightR with
    | .ok pl => match pl.peer with | some (dev, va) => s.watchReturn s.cur (peerLine dev va) | none => s.advance 4
    | .error _ => s.advance 4
  | .swwait _ b =>
    let g : BitVec 16 := fld (s.rg b) 0 16
    if (BitVec.ofNat 16 (leNat ((bytes.drop 8).take 2)) - g).toNat < 0x8000 then s.advance 4
    else
      s.withPlace p 16 rightR accR fun pl =>
        match pl.peer with
        | some place => s.askPeer i place p pl.policy (.read 16)
        | none => s.modMe fun x => { x with hold := none }
  | .mma _ => s.mxRecord 0 false none p bytes
  | .mmac _ => s.mxRecord 1 false none p bytes
  | .mzero _ => s.mxRecord 3 false none p bytes
  | .mdrain _ b => s.mxRecord 2 true (some (fld (s.rg b) 0 25)) p bytes
  | .enq a _ k =>
    if s.me.elems.isEmpty then s.finEnq i (fldN (s.rg a) 0 6) p k bytes else s.enqStored k p none
  | .tspawn _ k => if s.me.elems.isEmpty then s.finTspawn i p k bytes else s.enqStored k p none
  | .ply d _ => s.finPly d bytes
  | .amsg a _ => s.finAmsg (s.rg a) p bytes
  | .capp n _ => s.finCapp i false n.toNat p bytes
  | .nop => if s.me.fw then s.finCapp i true (fldN (s.rg 1) 0 2) p bytes else s.finDispatch s.cur bytes
  | i =>
    match atomicDest i, vatomicOf i with
    | some (d, t), _ => s.finAtomic d t bytes
    | none, some (a, b, k, t, fn) => (s.modMe (·.answeredEl [])).vatomicGo i a b k t fn
    | none, none => s

/-- The trap of a refused access: the firmware's and a starting task's go as their own rules say (R26, R235). -/
def State.loadTrap (s : State) (i : Instr) (cause : BitVec 8) (p : Dword) : State :=
  match i with
  | .nop => if s.me.fw then s.cappTrap true (fldN (s.rg 1) 0 2) cause p else s.dispatchTrap s.cur cause p
  | _ => s.trap cause p

/-- R293: a load trap writes rcause and leaves valid unchanged. -/
def Slot.rcause (x : Slot) (cause : BitVec 8) : Slot := { x with rfault := putFld x.rfault 48 cause }

/-- The store of an `enq` or `tspawn` into its descriptor was refused. Outside policy 11 it is a posted one: it is recorded, and the
entry is appended all the same (R232, R293). -/
def State.loadRefused (s : State) (i : Instr) (p : Dword) (cause trap : Byte) : State :=
  let posted := !s.me.elems.isEmpty && sgPolicy (s.me.segOf p) != 3
  match i with
  | .enq _ _ k | .tspawn _ k =>
    if posted then s.enqStored k p (some cause) else (s.modMe (·.rcause cause)).loadTrap i trap p
  | _ => (s.modMe (·.rcause cause)).loadTrap i trap p

/-- What a page fault at the target leaves in a slot: it waits for `wake`, and its instruction reissues. A gather, scatter or masked
form performs every element again (R154), and a `dtload` its whole load; packets of a vector atomic and the read of an `enq` are not repeated. -/
def Slot.faultedThere (x : Slot) (i : Instr) (held : Option Hold) : Slot :=
  let again := match i with | .vldMasked .. | .vstMasked .. | .vgather .. | .vscatter .. | .dtload .. => true | _ => false
  { x with hold := held, pfCount := x.pfCount + 1, elems := if again then [] else x.elems }

/-- The answer to the waited access of slot `c`. A fetch that a fence has made too old is made again (R302). -/
def State.loadReply (s : State) (c : Coord) (r : Reply) : State :=
  match (s.slot c).hold with
  | some (.load i p _) =>
    let s := { s with cur := c }
    match r with
    | .data b => s.finLoad i p b
    | .refused cause j => s.loadRefused i (refusedAt i cause p j) cause 0x0A
    | .lost => s.loadRefused i p 0x0B 0x0B
    | .faulted => s.modMe (·.faultedThere i (some .pageFault))
  | some (.refetch ..) => s.modSlot c fun x => { x with hold := none }
  | _ => s

/-- A saved slot whose instruction `i` has been answered: it is complete, or one of its accesses is (R342). -/
def Slot.repliedData (x : Slot) (i : Instr) (b : List Byte) : Slot :=
  let stored (z : BitVec 3) (n : Nat) : Slot := if szBytes z = 8 then { x.done n with stag := x.stag &&& 3 } else x.done n
  match i with
  | .st _ _ z _ _ => stored z 4
  | .vst .. | .swadd .. | .swexp .. | .jadd .. => x.done 4
  | .ximm _ f =>
    match decodeWord f with
    | some (.st _ _ z _ _) => stored z 8
    | _ => x.done 8
  | .vstMasked .. | .vscatter .. => { x with hold := none, elems := [] }
  | i =>
    match atomicDest i with
    | some (d, t) => (x.wg d (atomicOld t b)).done 4
    | none => x.answeredEl []

/-- What the answer to an access that is marked reply pending leaves in a saved slot (R342). -/
def Slot.replied (x : Slot) (r : Reply) : Slot :=
  match x.hold with
  | some (.load i p _) =>
    match r with
    | .data b => x.repliedData i b
    | .refused cause j => (x.rcause cause).refusedLater 0x0A (refusedAt i cause p j)
    | .lost => (x.rcause 0x0B).refusedLater 0x0B p
    | .faulted => x.faultedThere i none
  | some (.message ..) => x.messageReplied r
  | _ => x

/-- Which record of the slot an answer to one of the VF's goes to: the oldest that waits for one, a displaced task's before the one that
was saved with the VF. -/
def State.pendingRecord (s : State) (c : Coord) (vf : Nat) : Standing :=
  let waits (w : Standing) : Bool := ((s.savedAt vf w c).bind fun r => r.slot.hold.bind (Hold.awaits s.dev.devno)).isSome
  ((s.vf vf).standings.find? waits).getD .saved

/-- The answer goes into the record that the VF holds of the slot, if it is marked reply pending. -/
def State.savedReply (s : State) (c : Coord) (vf : Nat) (r : Reply) : State := s.modSaved vf (s.pendingRecord c vf) c (·.replied r)

/-! ## Requests from peers (R290) -/

/-- The agent of a peer's access: no cluster of this device. -/
def peerAgent : Nat := 512

/-- Translation at the target, at the port of `c` (R138). -/
def State.peerPlace (s : State) (c : Coord) (q : PeerReq) (rights : BitVec 4) (p : Nat × Nat) : Except Stopped Place :=
  s.translateAt c q.hdr.vf q.policy rights q.va p

/-- Where the first piece stands in the operation's bytes: a flag post is an atomic of the second dword alone (R106). -/
def PacketOp.start : PacketOp → Nat
  | .flags _ => 8
  | _ => 0

/-- The packet with flat addresses in place of offsets. -/
def PacketOp.placed (op : PacketOp) (addrs : List Nat) : PacketOp :=
  match op with
  | .store bytes tag => .store (addrs.zip (bytes.map (·.2))) tag
  | .vatomic ty fn elems => .vatomic ty fn (addrs.zip (elems.map (·.2)))
  | op => op

/-- The packet that a request's page fault holds at the port of die `d`, with the expiry that it carries (R249, R250). -/
def State.heldPeer (s : State) (d : BitVec 3) (q : PeerReq) : HeldPeer :=
  let left := if q.hdr.members.isEmpty then q.hdr.carried else q.hdr.members.foldl (fun a m => max a m.2) 0
  { die := d, source := q.source, sender := q.sender, id := q.hdr.id, vf := q.hdr.vf
    expires := if q.hdr.id = 0 then none else some (s.now d + left), dropped := false }

/-- A held packet came from the slot that makes the request. -/
def HeldPeer.from (h : HeldPeer) (q : PeerReq) : Bool := h.source == q.source && h.sender == q.sender

/-- A page fault at the target: the record names the requester's slot, kind 5, and the packet is held there until the requester, whom a
`wake` releases, makes the access again (log 61); the third one is a refusal (R141, R293). -/
def State.peerFault (s : State) (c : Coord) (q : PeerReq) (va : BitVec 48) (acc : Nat) : State :=
  let vf := q.hdr.vf
  if !s.fqOn vf || 2 ≤ q.pf then s.answerPeer q (.refused 0x11 0)
  else
    let r := s.record c vf va.toNat (q.op matches .fetch) 5 (q.pf + 1) acc q.hdr.id
    let s := { s with heldPeers := s.heldPeers.filter (fun h : HeldPeer => !h.from q) ++ [s.heldPeer c.die q] }
    (s.queueRecord vf { r with dwords := q.sender :: r.dwords.tail }).answerPeer q .faulted

/-- R146 at the target; a privileged `zline` clears poison, and a poisoned fetch has its own cause. -/
def State.peerRefused (s : State) (q : PeerReq) (addrs : List Nat) (tag : BitVec 2) (value : Dword) (clears : Bool) :
    Option (BitVec 8 × Nat) :=
  match homeRefused s.mem peerAgent q.policy addrs tag value with
  | some (cause, j) =>
    if cause = 0x09 && clears then none
    else if cause = 0x09 && (q.op matches .fetch) then some (0x13, j)
    else some (cause, j)
  | none => none

/-- A peer's packet goes on from the die of its port to the home dies of its bytes (R249): whether they all accept it. -/
def State.ingressAll (s : State) (c : Coord) (hdr : Ingress) (addrs : List Nat) : State × Bool :=
  (((addrs.filterMap homeDie).eraseDups.map (BitVec.ofNat 3)).filter (· != c.die)).foldl (fun (x : State × Bool) d =>
    if x.2 then x.1.ingress d hdr else x) (s, true)

/-- The home of the pieces of a request: ingress at the port's die (R249), translation there, ingress at the home dies, and the checks;
then `k` with the addresses of each piece. A packet that is dropped has no answer. -/
def State.peerHome (s : State) (c : Coord) (q : PeerReq) (l : List (Nat × Nat)) (rights : BitVec 4) (acc : Nat)
    (tag : BitVec 2) (value : Dword) (clears : Bool) (k : List (List Nat) → State → State)
    (escapes : List Nat → Bool := fun _ => true) : State :=
  match s.ingress c.die q.hdr with
  | (s, false) => s
  | (s, true) =>
    match collect (s.peerPlace c q rights) l with
    | .error (.page _ va) => s.peerFault c q va acc
    | .error (.trap cause _) => s.answerPeer q (.refused cause 0)
    | .error (.miss _) => s.answerPeer q (.refused 0x06 0)
    | .ok pls =>
      let addrs := pls.map (·.addrs)
      match s.ingressAll c q.hdr addrs.flatten with
      | (s, false) => s
      | (s, true) =>
        match s.peerRefused q addrs.flatten (if escapes addrs.flatten then tag else 0) value clears with
        | some (cause, j) => s.answerPeer q (.refused cause j)
        | none => k addrs s

/-- A peer's posted access as a packet at this device, its operation at flat addresses. -/
def PeerReq.toPacket (q : PeerReq) (c : Coord) (a : Nat) (op : PacketOp) : Packet :=
  { coord := c, vf := q.hdr.vf, strand := q.hdr.id, ptr := 0, route := .here a, op := op, policy := q.policy, pf := 0
    held := false, expires := none, task := .present, sent := false, hdr := q.hdr, pages := [], stale := false, xcluster := false
    completes := none, launch := none }

/-- What a request does at this device, and its answer. -/
def State.servePeer (s : State) (c : Coord) (q : PeerReq) : State :=
  let ok (s : State) (b : List Byte) : State := s.answerPeer q (.data b)
  match q.op with
  | .read n =>
    s.peerHome c q [(0, n)] rightR 1 0 0 false fun addrs s => ok s (s.mem.bytesAt addrs.flatten)
  | .fetch =>
    s.peerHome c q [(0, 4)] rightX 1 0 0 false fun addrs s =>
      ok s (s.mem.bytesAt ((List.range 32).map fun i => addrs.flatten.headD 0 / 32 * 32 + i))
  | .packet op =>
    let acc := if op.needs = rightW then 2 else if op.needs = 5 then 6 else 7
    let e := op.escapeOf
    s.peerHome c q op.pieces op.needs acc e.1 e.2 false fun addrs s =>
      let a := addrs.flatten.headD 0 - op.start
      let pk := q.toPacket c a (op.placed (addrs.map (·.headD 0)))
      ok (State.effect { s with mem := s.cohStore peerAgent q.policy addrs.flatten } pk a) []
  | .waitedStore bytes tag =>
    let value := leDword (bytes.map (·.2))
    s.peerHome c q (bytes.map fun b => (b.1, 1)) rightW 2 tag value false fun addrs s =>
      let a := addrs.flatten
      ok (State.store { s with mem := s.cohStore peerAgent q.policy a } (a.zip (bytes.map (·.2))) tag) []
  | .atomic fn w x expect tag =>
    let fails (a : List Nat) : Bool := fn = 9 && leNat (s.mem.bytesAt a) ≠ expect.toNat % 2 ^ w
    -- a `cas` whose compare fails meets no escape check (R133)
    s.peerHome c q [(0, w / 8)] 13 7 tag x false (escapes := fun a => !fails a) fun addrs s =>
      let a := addrs.flatten
      let old := s.mem.bytesAt a
      if fails a then ok s old
      else
        let new := atomicFn fn w (leNat old) (x.toNat % 2 ^ w) (expect.toNat % 2 ^ w)
        ok (State.store { s with mem := s.cohStore peerAgent q.policy a } (a.zip (leBytes (w / 8) new)) tag) old
  | .zline priv =>
    s.peerHome c q [(0, 128)] rightW 2 0 0 priv fun addrs s =>
      let a := addrs.flatten.headD 0
      ok (State.wrote { s with mem := s.mem.zeroLine (lineOf a) none } [a]) []
  | .message target sender dwords =>
    match s.ingress target.die q.hdr with
    | (s, false) => s
    | (s, true) =>
      let m : Message := { dwords := dwords, sender := sender, inc := q.sourceInc, strand := q.hdr.id, vf := q.hdr.vf, num := 0 }
      State.later { s with msgs := s.msgs ++ [(target.at 14, m)] } .amsgAccept (.at (target.at 14))

/-- A request that is not stale. One that a page fault held here is served again; where its packet has been dropped meanwhile, nothing is
performed, and the requester is held as before (log 61). -/
def State.peerAgain (s : State) (c : Coord) (q : PeerReq) : State :=
  if s.heldPeers.any fun h => h.from q && h.dropped && h.id == q.hdr.id && q.pf != 0 then s.answerPeer q .faulted
  else State.servePeer { s with heldPeers := s.heldPeers.filter fun h => !h.from q } c q

/-- `PEER_REQUEST_ARRIVAL` of `arg.peer` at the port of `arg.c`, which also wakes the device (R372). -/
def execPeerRequestArrival (s : State) : Res :=
  .next (
    match s.arg.peer with
    | none => s
    | some q => (if s.staleRequest q then s.answerPeer q .lost else s.peerAgain s.arg.c q).rouse)

/-! ## The loss of a peer (R291, R292) -/

/-- The device whose answer a slot or a record awaits. -/
def State.awaits (s : State) (x : Slot) : Option (BitVec 9) := x.hold.bind (Hold.awaits s.dev.devno)

/-- The slots that wait for an answer of a device. -/
def State.waitingFor (s : State) (dev : BitVec 9) : List Coord :=
  s.slots.filterMap fun kx => if s.awaits kx.2 = some dev then some (Coord.ofKey kx.1) else none

/-- The records that wait for one, with their VFs and standings. -/
def State.savedFor (s : State) (dev : BitVec 9) : List (Coord × Nat × Standing) :=
  s.vfs.flatMap fun v => v.2.standings.flatMap fun w =>
    List.filterMap (fun r : Nat × Saved => if s.awaits r.2.slot = some dev then some (Coord.ofKey r.1, v.1, w) else none) (v.2.records w)

/-- Copy entries whose request a device still has to answer. -/
def State.copiesFor (s : State) (dev : BitVec 9) : List (Coord × Nat × CopyEntry) :=
  s.cores.flatMap fun kx =>
    (List.range 4).flatMap fun n => (kx.2.ctx n).entries.filterMap fun e =>
      if e.asked == some dev then some (Coord.ofKey (kx.1 * 16), n, e) else none

/-- Matrix commands whose last write a device still has to answer. -/
def State.commandsFor (s : State) (dev : BitVec 9) : List (Coord × MCmd) :=
  s.clusters.flatMap fun kx => kx.2.cmds.filterMap fun x =>
    if x.asked == some dev then some (Coord.ofKey (kx.1 * 128), x) else none

/-- Something of this device waits for an answer of a device. -/
def State.waitsFor (s : State) (dev : BitVec 9) : Bool :=
  !(s.waitingFor dev).isEmpty || !(s.savedFor dev).isEmpty || s.port.any (·.goesTo dev) || !(s.copiesFor dev).isEmpty
    || !(s.commandsFor dev).isEmpty || s.loose.any (·.dev == dev)

/-- R291: the device is marked lost, and every outstanding request to it completes as peer lost: traps in the slots that wait,
records of what was posted, and the ends of engine operations. -/
def State.loseDevice (s : State) (dev : BitVec 9) : State :=
  let s := { s with dev := { s.dev with peers := s.dev.peers.set dev.toNat (s.peerEntry dev ||| (1#64 <<< 62)) } }
  let s := (s.savedFor dev).foldl (fun s x => s.modSaved x.2.1 x.2.2 x.1 (·.replied .lost)) s
  let s := (s.waitingFor dev).foldl (fun s c =>
    match (s.slot c).hold with
    | some (.message _ n) => s.messageAnswer c n .lost
    | _ => s.loadReply c .lost) s
  let ended := s.loose.filter (·.dev == dev)
  let s := ended.foldl (fun s x => s.launchStored x.coord.die x.vf x.launch) { s with loose := s.loose.filter (·.dev != dev) }
  let gone := s.port.filter (·.goesTo dev)
  let s := { s with port := s.port.filter fun p => !p.goesTo dev }
  let s := gone.foldl (fun s p => (s.packetFault p 0x0B p.ptr).packetOver p.coord p) s
  let s := (s.copiesFor dev).foldl (fun s x => s.entryLost x.1 x.2.1 x.2.2) s
  (s.commandsFor dev).foldl (fun s x => s.cmdFinish x.1 { x.2 with asked := none } (3 - x.2.stage)) s

/-- The answer to a slot, or to a record, that waits as `h` says: one of peer lost loses the device (R291); any other does `k`. -/
def State.replyTo (s : State) (h : Option Hold) (k : State) : State :=
  if s.arg.reply = .lost then (match h.bind (Hold.awaits s.dev.devno) with | some dev => s.loseDevice dev | none => s) else k

/-- The answer of the device `dev` to a request of `c` that nothing waits for any more. -/
def State.looseReply (s : State) (c : Coord) (dev : BitVec 9) : State :=
  match takeFirst (fun x => x.coord == c && x.dev == dev) s.loose with
  | none => s
  | some (x, rest) =>
    if s.arg.reply = .lost then s.loseDevice dev
    else State.launchStored { s with loose := rest } c.die x.vf x.launch

/-- `LOAD_REPLY`: the answer `arg.reply` to the slot `arg.c`; or (`arg.flag`) that of the device `arg.v` to a request of the slot, or for a
cut of its die, that nothing waits for any more. -/
def execLoadReply (s : State) : Res :=
  .next (
    if s.staleReply then s
    else if s.arg.flag then s.looseReply s.arg.c (fld s.arg.v 0 9)
    else s.replyTo (s.slot s.arg.c).hold (s.loadReply s.arg.c s.arg.reply))

/-- The hold of a slot's record. -/
def State.savedHold (s : State) (c : Coord) (vf : Nat) : Option Hold := (s.savedAt vf (s.pendingRecord c vf) c).bind fun r => r.slot.hold

/-- `REPLY_PENDING_WRITE`: the answer `arg.reply` to the slot `arg.c` as the VF `arg.vf` has saved it; a displaced task may then resume. -/
def execReplyPendingWrite (s : State) : Res :=
  .next (
    if s.staleReply then s
    else
      let s := (s.replyTo (s.savedHold s.arg.c s.arg.vf) (s.savedReply s.arg.c s.arg.vf s.arg.reply)).later .displacedTaskResume
        (.at s.arg.c)
      if ((s.vf s.arg.vf).saved.find? s.arg.c.key).isSome then s.later .resume { EvArg.ofVf s.arg.vf with flag := true } else s)

/-- `PEER_LOST_ANSWER` of the device with the number `arg.n`. -/
def execPeerLostAnswer (s : State) : Res :=
  .next (if s.staleReply then s else s.loseDevice (BitVec.ofNat 9 s.arg.n))

/-- `PEER_TIMEOUT`: a request to the device `arg.n` has had no answer for 50 µs. -/
def execPeerTimeout (s : State) : Res :=
  let dev := BitVec.ofNat 9 s.arg.n
  .next (if s.waitsFor dev then s.loseDevice dev else s)

/-- Every port of a peer-table entry is down (R291), whether or not the entry is still valid. -/
def unreachable (down : BitVec 12) (e : Dword) : Bool :=
  let ports : BitVec 12 := fld e 42 12
  !bit e 62 && ports != 0 && ports &&& ~~~down == 0

/-- The devices that have no port left. -/
def State.cutOff (s : State) : List (BitVec 9) :=
  s.dev.peers.filterMap fun e => if unreachable s.dev.portsDown e.2 then some (BitVec.ofNat 9 e.1) else none

/-- `PEER_PORT_DOWN`: port `arg.n` fails; every device that no other port reaches is lost. -/
def execPeerPortDown (s : State) : Res :=
  let s := { s with dev := { s.dev with portsDown := setBit s.dev.portsDown s.arg.n true } }
  .next (s.cutOff.foldl (fun s d => s.loseDevice d) s)

/-! ## Events of posted packets (R144, R249, R293) -/

/-- A packet event: at this device, or (`arg.flag`) the answer `arg.reply` of the device `arg.v`; one of peer lost loses the device
(R291). -/
def State.packetEvent (s : State) (e : Instr) : State :=
  if s.arg.flag then
    let dev : BitVec 9 := fld s.arg.v 0 9
    if s.staleReply then s
    else if s.arg.reply = .lost then (if (sentPacket s.arg.c dev s.port).isSome then s.loseDevice dev else s)
    else s.ackPeer s.arg.c dev e s.arg.reply
  else s.performEvent s.arg.c e

def execStorePerform (s : State) : Res := .next (s.packetEvent .storePerform)
def execAtomicPacketPerform (s : State) : Res := .next (s.packetEvent .atomicPacketPerform)
def execSwaddPerform (s : State) : Res := .next (s.packetEvent .swaddPerform)
def execSwexpPerform (s : State) : Res := .next (s.packetEvent .swexpPerform)
def execJoinArm (s : State) : Res := .next (s.packetEvent .joinArm)
def execJaddPerform (s : State) : Res := .next (s.packetEvent .jaddPerform)
def execXclusterAccess (s : State) : Res := .next (s.packetEvent .xclusterAccess)

/-- A refusal at the device `arg.v` reaches the slot's record, and the packet is gone (R293): `arg.n` is the cause. -/
def execPostedFaultRecord (s : State) : Res :=
  let c := s.arg.c
  .next (
    if s.staleReply then s
    else match sentPacket c (fld s.arg.v 0 9) s.port with
    | none => s
    | some (a, p, b) => (State.packetFault { s with port := a ++ b } p (BitVec.ofNat 8 s.arg.n) p.ptr).packetOver c p)


end Sys2Proof.Machine
end

