-- ==== Sys2Proof/Machine/System.lean ====
section
/-! DEFINITION. The CSR space (R321 to R323) and the actions of its writes, traps and returns (R329), the shadow slot (R331), the
position translation buffer (R333), wakes (R334), fault records (R369), invalidation (R336), segment registers (R339), draws and
the clock (R340, R341). -/
namespace Sys2Proof.Machine

/-! ## Traps, `halt`, `eret` (R329) -/

/-- `trap n`: the return address is the next word (R325); a double trap names the word itself (R328). -/
def execTrap (n : BitVec 10) (s : State) : Res :=
  .next (s.trapAt s.cur 0x14 (n.setWidth 64) (ptrAdd s.me.pc 4))

def execBrk (s : State) : Res := .next (s.trap 0x12 0)

def execEret (s : State) : Res := .next (s.checked .eret (s.eretAt s.cur))

def execHalt (s : State) : Res :=
  .next (if s.me.wakeLatch then (s.modMe fun x => { x with wakeLatch := false }).advance 4 else s.leave .halt)

/-- `HALT_RETURN` of the slot `arg.c`. -/
def execHaltReturn (s : State) : Res :=
  let c := s.arg.c
  let x := s.slot c
  .next (
    if x.hold = some .halt && x.wakeLatch then (s.modSlot c fun y => { y with wakeLatch := false }).complete c 4 else s)

/-! ## The shadow slot (R331) -/

/-- The queued slots of a core, ascending: number, cause, block. -/
def State.queuedFor13 (s : State) (c : Coord) : List (BitVec 4 × BitVec 8 × BitVec 52) :=
  c.slots.filterMap fun w =>
    match (s.slot w).hold with
    | some (.service cause block) => some (w.slot, cause, block)
    | _ => none

/-- Slot 13 at the start of a service of the slot `y`. It keeps `c.nfsw`, the posted set, `c.tnan` and `c.stag` of its previous service:
R331 does not name them, and the model takes no service for a task start in this respect, neither for R105 nor for R134 (log 78). -/
def Slot.serve (x y : Slot) (cause : BitVec 8) : Slot :=
  { x with
    live := true, vf := y.vf, pc := x.tvec, status := 1, strand := 0, cls := 0, cause := cause, tval := y.tval
    frame := none, hold := none, pfCount := 0, cappPos := none, elems := [], pend := none }

/-- `SHADOW_SERVICE_START` on the core `arg.c`. -/
def execShadowServiceStart (s : State) : Res :=
  let c := s.arg.c
  .next (
    if (s.core c).serving.isSome then s
    else
      match s.queuedFor13 c with
      | [] => s
      | (k, cause, block) :: _ =>
        let s := s.modCore c fun x =>
          { x with serving := some k, pmiss := BitVec.ofNat 64 (k.toNat * 2 ^ 60 + block.toNat) }
        s.modSlot (c.at 13) (·.serve (s.slot (c.at k)) cause))

/-! ## The position translation buffer (R333) -/

/-- `ptbw` on a core's buffer: `lb` is the logical block. -/
def Core.ptbWrite (k : Core) (lb : BitVec 52) (y : Dword) : Core :=
  match k.ptb.toList.findIdx? fun e => e.valid && e.logical == lb with
  | some i =>
    if bit y 63 then { k with ptb := k.ptb.setIfInBounds i { valid := true, logical := lb, physical := fld y 0 52 } }
    else { k with ptb := k.ptb.setIfInBounds i { (k.ptb.getD i PtbEntry.reset) with valid := false } }
  | none =>
    if bit y 63 then
      { k with
        ptb := k.ptb.set k.victim.toNat { valid := true, logical := lb, physical := fld y 0 52 }
        victim := k.victim + 1 }
    else k

def execPtbw (a b : BitVec 5) (s : State) : Res :=
  .next (s.checked (.ptbw a b)
    ((s.modCore s.cur (·.ptbWrite (fld (s.rg a) 0 52) (s.rg b))).advance 4))

/-- A write of `c.ptbcfg`: every valid bit and the victim pointer are cleared. -/
def Core.writePtbcfg (k : Core) (v : Dword) : Core :=
  { k with
    ptbcfg := v &&& 0xFF00000000000000, victim := 0, ptb := k.ptb.map fun e => { e with valid := false } }

/-- `PTBCFG_WRITE` on the core `arg.c` with `arg.v`. -/
def execPtbcfgWrite (s : State) : Res := .next (s.modCore s.arg.c (·.writePtbcfg s.arg.v))

/-! ## `c.nfsw` (R105, R106) -/

def Slot.writeNfsw (x : Slot) (v : Dword) : Slot := { x with nfsw := v, posted := 0 }

/-- `NFSW_WRITE` of the slot `arg.c` with `arg.v`. -/
def execNfswWrite (s : State) : Res := .next (s.modSlot s.arg.c (·.writeNfsw s.arg.v))

/-! ## Bank modes (R131) -/

/-- The modes that a write gives: code 11 keeps a bank's mode. -/
def newModes (old new : Word) : List Nat :=
  (List.range 16).map fun b => if bankMode new b = 3 then bankMode old b else bankMode new b

/-- Banks whose code changes. -/
def changedBanks (old new : Word) : List Nat :=
  (List.range 16).filter fun b => (newModes old new).getD b 0 != bankMode old b

/-- The mode field of a list of modes, bank 0 first. -/
def modesWord (l : List Nat) : Word := BitVec.ofNat 32 (l.reverse.foldl (fun a m => 4 * a + m) 0)

/-- Accesses in flight to a bank complete. -/
def State.drainBank (s : State) (c : Coord) (b : Nat) : State :=
  let lo := bankAddr c.clusterKey (b * 2 ^ 17)
  let users := (s.port.filter fun p => p.addrs.any fun a => lo ≤ a && a < lo + 2 ^ 17).map (·.coord)
  users.eraseDups.foldl (fun s w => s.drain w) s

/-- The cluster's cached lines go home and leave the directory (log 11). -/
def Memory.flushCluster (m : Memory) (cl : Nat) : Memory :=
  let mine := m.owner.filterMap fun e => if e.2 = cl then some e.1 else none
  let m := mine.foldl (fun m l => m.writeBack l) m
  { m with
    dirty := m.dirty.filter fun e => e.2 != cl
    sharers := m.sharers.map fun e => (e.1, e.2.filter (· != cl))
    copies := m.copies.map fun e => (e.1, e.2.filter (· != cl)) }

/-- The bank is zero, with tags 00 and empty states; who waits for an empty word of it may be served. -/
def State.clearBank (s : State) (c : Coord) (b : Nat) : State :=
  let lo := bankAddr c.clusterKey (b * 2 ^ 17)
  let s := { s with mem := s.mem.clear lo (2 ^ 17) }
  let words := ((s.feq.map (·.word)).filter fun w => lo ≤ w * 8 && w * 8 < lo + 2 ^ 17).eraseDups
  s.laters (words.map fun w => (Instr.feWordServe, EvArg.num Coord.zero w))

/-- A write of `c.bankmode` of a cluster. -/
def State.writeBankmode (s : State) (c : Coord) (v : Word) : State :=
  let old := (s.cluster c).bankmode
  let banks := changedBanks old v
  let s := banks.foldl (fun s b => s.drainBank c b) s
  let s := if banks.any fun b => bankMode old b == 0 then { s with mem := s.mem.flushCluster c.clusterKey } else s
  let s := banks.foldl (fun s b => s.clearBank c b) s
  s.modCluster c fun x => { x with bankmode := modesWord (newModes old v) }

/-- `BANKMODE_WRITE` on the cluster `arg.c` with `arg.v`. -/
def execBankmodeWrite (s : State) : Res := .next (s.writeBankmode s.arg.c (fld s.arg.v 0 32))

/-! ## Translation invalidation (R336) -/

/-- Cached entries of the VF that satisfy `p` are stale, and accesses that have translated through pieces that satisfy `q` are their
users until they have performed. -/
def State.markStale (s : State) (vf : Nat) (p : TEntry → Bool) (q : Bool × Nat × Nat → Bool) : State :=
  { s with
    tcache := s.tcache.map fun e => if e.vf = vf && p e then { e with stale := true } else e
    port := s.port.map fun k => if k.vf = vf && !k.held && k.pages.any q then { k with stale := true } else k }

/-- Some stale entry of the VF still has users. -/
def State.staleLeft (s : State) (vf : Nat) : Bool :=
  (s.tcache.any fun e => e.vf == vf && e.stale) || s.port.any fun k => k.vf == vf && k.stale

/-- The entry lies on the walk path of a 2 MiB page. -/
def TEntry.covers (e : TEntry) (host : Bool) (page : Nat) : Bool :=
  e.host == host && (if e.sub then e.page / 2048 else e.page) == page

/-- The piece of a VA space touches a 2 MiB page. -/
def touches (host : Bool) (page : Nat) (x : Bool × Nat × Nat) : Bool :=
  x.1 == host && x.2.1 / 2 ^ 21 ≤ page && page ≤ (x.2.1 + (x.2.2 - 1)) / 2 ^ 21

/-- The 2 MiB page of `invt`'s operand. -/
def State.invtPage (s : State) (p : Dword) : Nat :=
  (sgBase (s.me.segOf p) + fldN p 0 60) % 2 ^ 48 / 2 ^ 21

def execInvt (a : BitVec 5) (s : State) : Res :=
  let p := s.rg a
  let kind := s.kindOf p
  .next (s.checked (.invt a) (
    if !(kind == 4 || kind == 6) then s.trap 0x06 p
    else if fldN p 48 12 ≠ 0 then s.trap 0x05 p
    else
      s.releaseThen fun s =>
        let page := s.invtPage p
        let s := s.markStale s.me.vf (fun e => e.covers (kind == 6) page) (touches (kind == 6) page)
        if s.staleLeft s.me.vf then s.leave .invt else s.advance 4))

/-- `INVT_COMPLETE` of the slot `arg.c`: no stale entry of its VF has a user. -/
def execInvtComplete (s : State) : Res :=
  let c := s.arg.c
  let x := s.slot c
  .next (if (x.hold = some .invt || x.hold = some .csrw) && !s.staleLeft x.vf then s.complete c 4 else s)

/-- A write of `c.vmroot` of a VF: every cached translation of the VF is stale. -/
def State.writeVmroot (s : State) (vf : Nat) (v : Dword) : State :=
  (s.modVf vf fun x => { x with vmroot := v &&& 0x000FFFFFFFFFF000 }).markStale vf (fun _ => true) fun _ => true

/-- `VMROOT_WRITE` of the VF `arg.vf` with `arg.v`. -/
def execVmrootWrite (s : State) : Res := .next (s.writeVmroot s.arg.vf s.arg.v)

def State.writeRegion (s : State) (vf i : Nat) (v : Dword) : State :=
  s.modVf vf fun x => { x with region := x.region.setIfInBounds i (v &&& 0x83FFFFFFFFE00000) }

/-- `REGION_WRITE` of `c.region<arg.n>` of the VF `arg.vf` with `arg.v`. -/
def execRegionWrite (s : State) : Res := .next (s.writeRegion s.arg.vf s.arg.n s.arg.v)

/-! ## The peer table (R287, R288) -/

/-- A write of an entry: lost is cleared by a 1 and otherwise kept, and set where every port of the entry is down (R291). -/
def State.writePeer (s : State) (dev : BitVec 9) (v : Dword) : State :=
  let lost := s.peerEntry dev &&& ~~~v &&& (1#64 <<< 62)
  let e := (v &&& 0xBFFFFFFE00000000) ||| lost
  let s := { s with dev := { s.dev with peers := s.dev.peers.set dev.toNat e } }
  if unreachable s.dev.portsDown e then s.loseDevice dev else s

/-- `PRDAT_LOST_ACK`: the entry of the device `arg.n` is written with a 1 at lost; its other fields keep their values. -/
def execPrdatLostAck (s : State) : Res :=
  let dev : BitVec 9 := BitVec.ofNat 9 s.arg.n
  .next (s.writePeer dev (s.peerEntry dev ||| (1#64 <<< 62)))

/-! ## Wakes (R334) -/

/-- Held copy entries of the VF whose record names the coordinate. -/
def State.heldCopies (s : State) (c : Coord) (vf : Nat) : List (Nat × CopyEntry) :=
  (List.range 4).flatMap fun n => ((s.core c).ctx n).entries.filterMap fun e =>
    if e.held && e.vf == vf && e.origin == c.slot then some (n, e) else none

/-- Held matrix commands of the VF whose record names the coordinate. -/
def State.heldCommands (s : State) (c : Coord) (vf : Nat) : List (Coord × MCmd) :=
  s.clusters.flatMap fun kx => kx.2.cmds.filterMap fun x =>
    if x.faultHeld && x.vf == vf && x.sender == c then some (Coord.ofKey (kx.1 * 128), x) else none

/-- The cluster's walk, if it is held and its record names the coordinate. -/
def State.heldWalk (s : State) (c : Coord) (vf : Nat) : Option Walk :=
  match (s.cluster c).walk with
  | some w => if w.held && w.coord == c && w.vf == vf then some w else none
  | none => none

/-- The packet `p` of the port becomes `q`. -/
def State.setPacket (s : State) (p q : Packet) : State := { s with port := updFirst (· == p) (fun _ => q) s.port }

/-- The packet is refused: a record, and its end (R293). -/
def State.refusePacket (s : State) (p : Packet) (cause : Byte) : State :=
  (State.packetFault { s with port := s.port.erase p } p cause p.ptr).packetOver p.coord p

/-- A held packet is tried again in its place: at a peer it may leave, and a flag post is translated once more. A third page fault in a
row drops the post (R106). -/
def State.retryPacket (s : State) (p : Packet) : State :=
  match p.route, p.pages with
  | .here _, (host, va, n) :: _ =>
    match s.translate p.coord p.vf none (BitVec.ofNat 128 (p.policy.toNat * 2 ^ 118)) 5 p.ptr (.paged host (BitVec.ofNat 48 va), n) with
    | .ok pl => s.setPacket p { p with route := .here (pl.addrs.headD 8 - 8), policy := pl.policy, held := false, expires := none }
    | .error (.page host v) =>
      if !s.fqOn p.vf || 2 ≤ p.pf then s.refusePacket p 0x11
      else
        (s.setPacket p { p with pf := p.pf + 1 }).queueRecord p.vf
          (s.record p.coord p.vf v.toNat false (if host then 6 else 4) (p.pf + 1) 6 p.strand)
    | .error (.trap cause _) => s.refusePacket p cause
    | .error (.miss _) => s.refusePacket p 0x06
  | _, _ => s.setPacket p { p with held := false, expires := none }

/-- Posts and peer packets of the slot that a page fault holds are tried again, and what they held back goes on (R106, R292). -/
def State.retryPackets (s : State) (c : Coord) (vf : Nat) : State :=
  let held := s.port.filter fun p => p.held && p.coord == c && p.vf == vf
  if held.isEmpty then s
  else
    let s := held.foldl (fun s p => s.retryPacket p) s
    (s.laters (packetEvents c (s.freePackets c))).pump c

/-- The effect of a wake of a VF at a coordinate, in one step. -/
def State.wakeAt (s : State) (c : Coord) (vf : Nat) : State :=
  let x := s.slot c
  let r1 := x.live && x.vf == vf && x.hold == some .pageFault
  let s := if r1 then s.modSlot c fun y => { y with hold := none } else s
  let copies := s.heldCopies c vf
  let s := copies.foldl (fun s e =>
    (s.setEntry c e.1 { e.2 with held := false }).later (if e.2.phase = .moved then .chainEntryComplete else .copyPacket)
      (.entry c e.1 e.2.num)) s
  let cmds := s.heldCommands c vf
  let s := cmds.foldl (fun s e =>
    let current := (s.cluster e.1).running == some (e.2.sender, e.2.onTl5, e.2.num)
    (s.setCmd e.1 { e.2 with faultHeld := false }).later (if current then .matrixBlockStep else .matrixCommandStart)
      (.at e.1)) s
  let walk := s.heldWalk c vf
  let s := match walk with
    | some w => (s.modCluster c fun cl => { cl with walk := some { w with held := false } }).later .walkVisit (.at c)
    | none => s
  let s := s.retryPackets c vf
  if r1 || !copies.isEmpty || !cmds.isEmpty || walk.isSome || (x.live && x.vf != vf) then s
  else
    let s := s.modSlot c fun y => { y with wakeLatch := true }
    if x.hold = some .halt then s.later .haltReturn (.at c) else s

/-- `WAKE_DELIVERY` at the coordinate `arg.c`, of the VF `arg.vf`, or as the peer's wake `arg.peer` (R290). -/
def execWakeDelivery (s : State) : Res :=
  .next (
    match s.arg.peer with
    | some q => (if s.staleRequest q then s.answerPeer q .lost else s.wakeAt s.arg.c q.hdr.vf).rouse
    | none => s.wakeAt s.arg.c s.arg.vf)

/-- A wake leaves the die `d` for a coordinate, on this device or another; `id` is its sender's strand. A `c.fqwake` may name no cluster,
and R335 says nothing of that: such a wake is sent too, and sets a latch that no slot reads (log 108). -/
def State.sendWake (s : State) (d : BitVec 3) (id : BitVec 24) (target : Dword) (vf : Nat) : State :=
  let dev : BitVec 9 := fld target 16 9
  if dev = s.dev.devno then s.later .wakeDelivery { EvArg.at (Coord.ofBits target) with vf := vf }
  else { s with
    out := s.out ++ [.peerWake (s.outHdr d dev id false) target]
    loose := s.loose ++ [{ coord := dieCoord d, dev := dev, vf := vf, launch := none, stores := false }] }

def execWake (a : BitVec 5) (s : State) : Res :=
  let t := s.rg a
  .next (
    if !(Coord.ofBits t).ok then s.trap 0x05 t
    else s.deviceOk t (s.releaseThen fun s => s.behind (fld t 16 9) fun s =>
      (s.sendWake s.cur.die s.me.strand t s.me.vf).advance 4))

/-! ## Fault records (R335, R369) -/

/-- `FAULT_RECORD_APPEND` of the VF `arg.vf`: its oldest record, once the queue has room. -/
def execFaultRecordAppend (s : State) : Res :=
  let vf := s.arg.vf
  let x := s.vf vf
  let base := physBase x.fqbase
  let n := x.fqsize.toNat
  let tail := s.mem.readNat base 8
  let head := s.mem.readNat (base + 8) 8
  .next (
    match x.faults with
    | [] => s
    | r :: rest =>
      if !s.fqOn vf || n ≤ tail - head then s
      else
        let s := s.modVf vf fun y => { y with faults := rest }
        let s := s.hardStore (base + 128 + 32 * (tail % n)) ((r.dwords.map fun d => leBytes 8 d.toNat).flatten)
        let s := s.hardStore base (leBytes 8 (tail + 1))
        let s := if bit x.fqwake 63 then s.sendWake 0 0 x.fqwake vf else s
        if rest.isEmpty then s else s.later .faultRecordAppend (.ofVf vf))

/-! ## Other system words -/

def execSegw (n : BitVec 3) (a b : BitVec 5) (s : State) : Res :=
  .next (s.checked (.segw n a b) (
    let g : BitVec 128 := putFld (s.rg b ++ s.rg a) 112 (0 : BitVec 6)
    (s.modMe fun x => { x with sg := x.sg.set n.toNat g }).advance 4))

/-- One round of R340. -/
def rndRound (x k : Dword) : Dword :=
  let x := x + k
  let x := x ^^^ (x >>> 31)
  (x * 0xBF58476D1CE4E5B9#64).rotateRight 27

/-- The rounds of R340 that are left. -/
def rndRounds : Nat → Dword → Dword → Dword
  | 0, x, _ => x
  | n + 1, x, k => rndRounds n (rndRound x k) (k + 0x9E3779B97F4A7C15#64)

/-- The keyed hash of counter `x` under key `k` (R340). -/
def rnd (k x : Dword) : Dword :=
  let y := rndRounds 6 x k
  y ^^^ (y >>> 33)

def execRndk (d a b : BitVec 5) (s : State) : Res := .next ((s.wg d (rnd (s.rg a) (s.rg b))).advance 4)

/-- `c.now` as a register. -/
def State.nowWord (s : State) (d : BitVec 3) : Dword := BitVec.ofNat 64 (s.now d)

def execClkr (d : BitVec 5) (s : State) : Res := .next ((s.wg d (s.nowWord s.cur.die)).advance 4)

end Sys2Proof.Machine
end

