-- ==== Sys2Proof/Machine/Csr.lean ====
section
/-! DEFINITION. `csrr` and `csrw` (R321 to R323): what each CSR reads as, and what a write of it does. -/
namespace Sys2Proof.Machine

/-! ## Reads of table registers -/

/-- `c.kndat` (R213). -/
def Die.readKnot (x : Die) (d : BitVec 3) : Dword :=
  let n := fldN x.knsel 8 6
  let k := x.knots.get n Knot.reset
  let cl := fldN x.knsel 0 6
  if 39 < n then 0
  else
    match fldN x.knsel 6 2 with
    | 0 => k.word
    | 1 => if cl < clusterCount d then (k.rows.get cl 0).setWidth 64 else 0
    | _ => 0

/-- Peer `j` of a strand's reach. -/
def StrandEntry.peer (e : StrandEntry) (j : Nat) : Nat := ((e.peers.getD j 0)).toNat

/-- Six device numbers from peer `j` on. -/
def StrandEntry.peerRow (e : StrandEntry) (j : Nat) : Dword :=
  BitVec.ofNat 64 ((List.range 6).foldl (fun a i => a + if j + i < 16 then e.peer (j + i) * 2 ^ (9 * i) else 0) 0)

/-- Two member fields from member `j` on. -/
def StrandEntry.memberRow (e : StrandEntry) (j : Nat) : Dword :=
  let one (j : Nat) : Nat := match e.members[j]? with | some m => 2 ^ 31 + m.toNat | none => 0
  BitVec.ofNat 64 (one j + one (j + 1) * 2 ^ 32)

/-- A row of a strand table entry (R246). -/
def Die.strandRow (x : Die) (e : StrandEntry) (row : Nat) : Dword :=
  match row with
  | 0 =>
    let st : Nat := match e.state with | .free => 0 | .live => 1 | .ended _ => 2
    let cut : Nat := match e.state with | .ended true => 1 | _ => 0
    if st = 0 then 0
    else BitVec.ofNat 64 (st * 2 ^ 62 + cut * 2 ^ 61 + (if e.isPly then 2 ^ 60 else 0) + e.vf % 512 * 2 ^ 51 + e.id.toNat)
  | 1 => BitVec.ofNat 64 (if e.isLive then x.expiryOf e else if e.state == .free then 0 else e.expiry)
  | 2 => BitVec.ofNat 64 ((if e.ovf then 2 ^ 63 else 0) + min e.peers.length 16 * 256 + e.dies.toNat)
  | 3 => e.peerRow 0
  | 4 => e.peerRow 6
  | 5 => e.peerRow 12
  | 6 => if e.isPly then e.memberRow 0 else e.arenas.get 0
  | 7 => if e.isPly then e.memberRow 2 else e.arenas.get 1
  | _ => 0

/-- The entry and the row that `c.stsel` selects. -/
def Die.strandSel (x : Die) : StrandEntry × Nat :=
  (x.strands.get (fldN x.stsel 0 13) StrandEntry.reset, fldN x.stsel 16 4)

/-- The counter that `c.annsel` selects: VF × 16 + kind (R257). -/
def annKey (sel : Dword) : Option Nat :=
  let vf := fldN sel 16 9
  let kind := fldN sel 0 4
  if vf < 384 && kind < 14 then some (vf * 16 + kind) else none

/-- `c.loomdat` (R223). -/
def Cluster.loomRead (x : Cluster) : Dword :=
  let i := fldN x.loomsel 0 4
  match fldN x.loomsel 6 2 with
  | 0 => x.ct.getD i 0
  | 1 => x.term.getD i 0
  | 2 => x.line.getD i 0
  | _ => 0

/-- `c.shtx` and `c.shst` (R277). -/
def Cluster.shtxWord (x : Cluster) : Dword :=
  BitVec.ofNat 64 ((if x.shtxEn then 2 ^ 63 else 0) + x.shtxVf.toNat * 2 ^ 54 + x.shtxTarget.toNat * 2 ^ 48
    + x.shtxSize.toNat * 2 ^ 40 + x.permits % 128)

def Cluster.shstWord (x : Cluster) : Dword :=
  BitVec.ofNat 64 (x.rd % 64 * 2 ^ 24 + x.wr % 64 * 2 ^ 16 + x.full % 128 * 2 ^ 8 + x.resv % 128)

/-- The VF's domain table word that `c.domsel` selects (R288). -/
def State.domainWord (s : State) : Dword :=
  let vf := fldN s.dev.domsel 16 9
  if vf < 384 then (s.vf vf).domain.getD (fldN s.dev.domsel 0 3) 0 else 0

/-! ## `csrr` -/

/-- CSRs of scope slot, for the slot at `c` (R321). -/
def State.readSlotCsr (s : State) (c : Coord) (n : Nat) : Dword :=
  let x := s.slot c
  match n with
  | 0x00 => c.bits s.dev.devno
  | 0x01 => (x.status ||| (if s.privileged c then 1 else 0)).setWidth 64
  | 0x02 => x.strand.setWidth 64
  | 0x03 => x.cls.setWidth 64
  | 0x04 => x.cause.setWidth 64
  | 0x05 => x.epc
  | 0x06 => x.tval
  | 0x07 => x.tvec
  | 0x08 => x.crew
  | 0x09 => x.qown.setWidth 64
  | 0x0A => x.nfsw
  | 0x0B => x.tnan.setWidth 64
  | 0x0C => x.stag.setWidth 64
  | 0x0D => x.mbsrc
  | 0x0E => x.shsrc
  | 0x0F => x.rfault
  | 0x10 => x.rfptr
  | 0x11 => x.escv
  | _ => 0

/-- CSRs of scope core and cluster. -/
def State.readCoreCsr (s : State) (c : Coord) (n : Nat) : Dword :=
  let k := s.core c
  let cl := s.cluster c
  match n with
  | 0x40 => k.ptbcfg
  | 0x41 => k.pmiss
  | 0x42 => match k.serving with | some w => (s.slot (c.at w)).epc | none => 0
  | 0x43 => k.troute
  | 0x44 => k.amvec
  | 0x60 => cl.bankmode.setWidth 64
  | 0x61 => cl.mcapsel.setWidth 64
  | 0x62 => cl.mcap.get cl.mcapsel.toNat 0
  | 0x63 => cl.loomsel
  | 0x64 => cl.loomRead
  | 0x65 => cl.shrx
  | 0x66 => cl.shtxWord
  | 0x67 => cl.shstWord
  | _ => 0

/-- CSRs of scope die. -/
def State.readDieCsr (s : State) (d : BitVec 3) (n : Nat) : Dword :=
  let x := s.die d
  match n with
  | 0x80 => s.nowWord d
  | 0x81 => x.knsel
  | 0x82 => x.readKnot d
  | 0x83 => x.qsel.setWidth 64
  | 0x84 => (x.queue x.qsel.toNat).cfg
  | 0x85 => x.occcfg
  | 0x86 => x.stsel
  | 0x87 => x.strandRow x.strandSel.1 x.strandSel.2
  | 0x88 => x.linkb
  | 0x89 => x.annsel
  | 0x8A => match annKey x.annsel with | some k => x.ann.get k 0 | none => 0
  | 0x8B => x.skvf.setWidth 64
  | 0x8C => if x.skvf.toNat < 384 then x.skcap.get x.skvf.toNat 0 else 0
  | _ => 0

/-- CSRs of scope device and VF. -/
def State.readVfCsr (s : State) (d : BitVec 3) (vf : Nat) (n : Nat) : Dword :=
  let v := s.vf vf
  match n with
  | 0xA0 => s.dev.incarn.setWidth 64
  | 0xA1 => s.dev.prsel.setWidth 64
  | 0xA2 => s.peerEntry s.dev.prsel
  | 0xA3 => s.dev.domsel
  | 0xA4 => s.domainWord
  | 0xC0 => v.vmroot
  | 0xC1 => v.region.get 0
  | 0xC2 => v.region.get 1
  | 0xC3 => v.region.get 2
  | 0xC4 => v.region.get 3
  | 0xC5 => (s.die d).walkspill.get vf 0
  | 0xC6 => v.vftvec
  | 0xC7 => v.ctxarea
  | 0xC8 => v.fqwake
  | _ => 0

/-- The 64 bits of CSR `n` as the slot at `c` reads them. -/
def State.readCsr (s : State) (c : Coord) (n : BitVec 8) : Dword :=
  let k := n.toNat
  if k < 0x40 then s.readSlotCsr c k
  else if k < 0x80 then s.readCoreCsr c k
  else if k < 0xA0 then s.readDieCsr c.die k
  else s.readVfCsr c.die (s.slot c).vf k

def execCsrr (d : BitVec 5) (c : BitVec 8) (s : State) : Res :=
  .next (s.checked (.csrr d c) ((s.wg d (s.readCsr s.cur c)).advance 4))

/-! ## Writes of table registers -/

/-- `c.kndat`: the knot word, or a core-mask row. -/
def State.writeKndat (s : State) (d : BitVec 3) (v : Dword) : State :=
  let sel := (s.die d).knsel
  let n := fldN sel 8 6
  let cl := fldN sel 0 6
  if 39 < n then s
  else
    match fldN sel 6 2 with
    | 0 => s.writeKnotWord d n v
    | 1 =>
      if cl < clusterCount d then
        s.setKnot d n { s.knot d n with rows := (s.knot d n).rows.set cl (fld v 0 8) }
      else s
    | _ => s

/-- Whether a queue of a die may take the capacity `cap` (R231). -/
def Die.capOk (x : Die) (q cap : Nat) : Bool :=
  cap ≤ 16384 && ((List.range 64).foldl (fun a i => a + if i = q then cap else (x.queue i).cap) 0) ≤ 16384

/-- `c.qcfg`: a capacity out of range keeps the field's value. -/
def State.writeQcfg (s : State) (d : BitVec 3) (v : Dword) : State :=
  let x := s.die d
  let q := x.qsel.toNat
  let k := x.queue q
  let cap : BitVec 15 := if x.capOk q (fldN v 0 15) then fld v 0 15 else fld k.cfg 0 15
  let s := s.modDie d fun y => y.setQueue q { k with cfg := putFld (v &&& 0xFFE0FF0000007FFF) 0 cap }
  (s.preemptCheck d q).laters (k.entries.flatMap fun e => s.offer d e).eraseDups

/-- `c.stdat`: the arenas of a live strand; an id that is written is no longer killed (R247, R256). -/
def State.writeStdat (s : State) (d : BitVec 3) (v : Dword) : State :=
  let x := s.die d
  let (e, row) := x.strandSel
  if !e.isLive || e.isPly || !(row == 6 || row == 7) then s
  else
    let e := { e with arenas := e.arenas.setIfInBounds (row - 6) (v &&& 0x7FFFFFFFFFFFFFFF) }
    let ids : List (BitVec 20) :=
      (if bit v 20 then [fld v 0 20] else []) ++ (if bit v 41 then [fld v 21 20] else [])
        ++ if bit v 62 then [fld v 42 20] else []
    s.setDie d { x with
      strands := x.strands.set (fldN x.stsel 0 13) e
      killed := x.killed.filter fun a => !ids.contains a }

def State.writeAnndat (s : State) (d : BitVec 3) (v : Dword) : State :=
  match annKey (s.die d).annsel with
  | some k => s.modDie d fun x => { x with ann := x.ann.set k v }
  | none => s

/-- `c.skcap`: ignored while the VF holds a skein on any die (R263). -/
def State.writeSkcap (s : State) (d : BitVec 3) (v : Dword) : State :=
  let vf := (s.die d).skvf.toNat
  if 384 ≤ vf || (allDies.any fun t => !((s.die t).dirs.get vf []).isEmpty) then s
  else s.modDie d fun x => { x with skcap := x.skcap.set vf (v &&& 0x3FFFFFFF00000000) }

/-- `c.loomdat`; the terms are looked at with the new value. -/
def State.writeLoomdat (s : State) (c : Coord) (v : Dword) : State :=
  let x := s.cluster c
  let i := fldN x.loomsel 0 4
  let y : Cluster := match fldN x.loomsel 6 2 with
    | 0 => { x with ct := x.ct.setIfInBounds i (v &&& 0xBF00FFFFFFFFFFFF) }
    | 1 => { x with term := x.term.setIfInBounds i (v &&& 0x800000000000FFFF) }
    | 2 => { x with line := x.line.setIfInBounds i (v &&& 0x8700FFFF0000007F) }
    | _ => x
  let s := s.setCluster c y
  if y.loomReady then s.later .loomTermFire (.at c) else s

def State.writeDomdat (s : State) (v : Dword) : State :=
  let vf := fldN s.dev.domsel 16 9
  if vf < 384 then s.modVf vf fun x => { x with domain := x.domain.setIfInBounds (fldN s.dev.domsel 0 3) v } else s

/-! ## `csrw` -/

/-- A write of a CSR of scope slot. A tag of 11 written to `c.stag` reads back as 11, and is stored as 00: R134 does not say which of the
two a read gives (log 89). -/
def Slot.writeCsr (x : Slot) (n : Nat) (v : Dword) : Slot :=
  match n with
  | 0x01 => { x with status := (fld v 0 3 &&& 6) ||| (x.status &&& 1) }
  | 0x02 => { x with strand := fld v 0 24 }
  | 0x03 => { x with cls := fld v 0 2 }
  | 0x04 => { x with cause := fld v 0 8 }
  | 0x05 => { x with epc := v }
  | 0x06 => { x with tval := v }
  | 0x07 => { x with tvec := v &&& ~~~3#64 }
  | 0x09 => { x with qown := fld v 0 6 }
  | 0x0A => x.writeNfsw v
  | 0x0B => { x with tnan := fld v 0 16 }
  | 0x0C => { x with stag := fld v 0 3 }
  | 0x0D => { x with mbsrc := v &&& 0x00FFFFFF0000000F }
  | 0x0F => { x with rfault := v &&& 0xC0FF000000000000 }
  | 0x10 => { x with rfptr := v }
  | _ => x

/-- A write of a CSR of scope core or cluster that waits for nothing. -/
def State.writeCoreCsr (s : State) (c : Coord) (n : Nat) (v : Dword) : State :=
  match n with
  | 0x40 => s.modCore c (·.writePtbcfg v)
  | 0x42 => match (s.core c).serving with | some w => s.modSlot (c.at w) fun x => { x with epc := v } | none => s
  | 0x43 => s.modCore c fun k => { k with troute := v &&& 0x1FFFFE }
  | 0x44 => s.modCore c fun k => { k with amvec := v }
  | 0x60 => s.writeBankmode c (fld v 0 32)
  | 0x61 => s.modCluster c fun x => { x with mcapsel := fld v 0 6 }
  | 0x62 => s.modCluster c fun x => { x with mcap := x.mcap.set x.mcapsel.toNat (v &&& 0xFFC3FFFCFFFFFFFF) }
  | 0x63 => s.modCluster c fun x => { x with loomsel := v &&& 0xCF }
  | 0x64 => s.writeLoomdat c v
  | _ => s

/-- A write of a CSR of scope die. -/
def State.writeDieCsr (s : State) (d : BitVec 3) (n : Nat) (v : Dword) : State :=
  match n with
  | 0x81 => s.modDie d fun x => { x with knsel := v &&& 0x3FFF }
  | 0x82 => s.writeKndat d v
  | 0x83 => s.modDie d fun x => { x with qsel := fld v 0 6 }
  | 0x84 => s.writeQcfg d v
  | 0x85 => s.modDie d fun x => { x with occcfg := v &&& 0xFFFFF00000000000 }
  | 0x86 => s.modDie d fun x => { x with stsel := v &&& 0xF1FFF }
  | 0x87 => s.writeStdat d v
  | 0x88 => s.modDie d fun x => { x with linkb := v }
  | 0x89 => s.modDie d fun x => { x with annsel := v &&& 0x1FF000F }
  | 0x8A => s.writeAnndat d v
  | 0x8B => s.modDie d fun x => { x with skvf := fld v 0 9 }
  | 0x8C => s.writeSkcap d v
  | _ => s

/-- A write of a CSR of scope device or VF that waits for nothing. -/
def State.writeVfCsr (s : State) (d : BitVec 3) (vf : Nat) (n : Nat) (v : Dword) : State :=
  match n with
  | 0xA1 => { s with dev := { s.dev with prsel := fld v 0 9 } }
  | 0xA2 => s.writePeer s.dev.prsel v
  | 0xA3 => { s with dev := { s.dev with domsel := v &&& 0x1FF0007 } }
  | 0xA4 => s.writeDomdat v
  | 0xC5 => s.modDie d fun x => { x with walkspill := x.walkspill.set vf (v &&& 0x8000FFFFFF800000) }
  | 0xC6 => s.modVf vf fun x => { x with vftvec := v &&& ~~~3#64 }
  | 0xC7 => s.modVf vf fun x => { x with ctxarea := v &&& 0x800FFFFFFFF00000 }
  | 0xC8 => s.modVf vf fun x => { x with fqwake := v &&& 0x8000000001FFFFFF }
  | _ => s

/-- `c.vmroot`: a release of sys scope; the instruction ends when no stale translation has a user (R323, R336). -/
def State.csrwVmroot (s : State) (v : Dword) : State :=
  s.releaseThen fun s =>
    let s := s.writeVmroot s.me.vf v
    if s.staleLeft s.me.vf then s.leave .csrw else s.advance 4

/-- The write of CSR `n` by the current slot, after the access check. -/
def State.writeCsr (s : State) (n : Nat) (v : Dword) : State :=
  let c := s.cur
  if n = 0x65 then (if s.receiving c then s.leave .ring else (s.writeShrx c v).advance 4)
  else if n = 0x66 then (if (s.cluster c).sending then s.leave .ring else (s.writeShtx c v).advance 4)
  else if n = 0xC0 then s.csrwVmroot v
  else if 0xC1 ≤ n && n ≤ 0xC4 then s.releaseThen fun s => (s.writeRegion s.me.vf (n - 0xC1) v).advance 4
  else if n < 0x40 then
    let s := (s.modMe (·.writeCsr n v)).advance 4
    -- a write of `c.class` may let a task of a queue pre-empt this one (R236)
    if n = 9 then ((s.preemptChecks c.die).later .displacedTaskResume (.at c)).later .queuePrefetch (.at c)
    else if n = 3 then s.preemptChecks c.die else s
  else if n < 0x80 then (s.writeCoreCsr c n v).advance 4
  else if n < 0xA0 then (s.writeDieCsr c.die n v).advance 4
  else (s.writeVfCsr c.die s.me.vf n v).advance 4

def execCsrw (a : BitVec 5) (c : BitVec 8) (s : State) : Res :=
  .next (s.checked (.csrw a c) (s.writeCsr c.toNat (s.rg a)))

end Sys2Proof.Machine
end

