-- ==== Sys2Proof/Machine/Publish.lean ====
section
/-! DEFINITION. Publication: `pub` and the walker (R308 to R314). -/
namespace Sys2Proof.Machine

/-- Why a walk does not go on (R313): a fault, a page fault, or a stack that cannot grow; or an access of it was dropped at the ingress of
another die, so that nothing answers it (R249). -/
inductive WalkStop where
  | trap (cause : BitVec 8) (tval : Dword)
  | page (host : Bool) (va : BitVec 48)
  | full
  | dropped
  deriving DecidableEq, Repr

/-- What stops the resolution of an access that the reference `r` needs. -/
def Stopped.walk (r : Dword) : Stopped → WalkStop
  | .trap cause _ => .trap cause r
  | .miss _ => .trap 0x06 r
  | .page host va => .page host va

/-- The flat address of the 8 bytes at a pointer, through the issuing slot's segments. -/
def State.walkAddr (s : State) (w : Walk) (r p : Dword) : Except WalkStop Nat :=
  let x := s.slot w.coord
  match s.enginePlace w.coord x.vf none { p := p, seg := x.segOf p } 8 12 with
  | .error e => .error (e.walk r)
  | .ok pl => if pl.peer.isSome then .error (.trap 0x07 r) else .ok (pl.addrs.headD 0)

def headerSize (h : Dword) : Nat := fldN h 40 24

/-- `check` (R312): the header's address and the header. -/
def State.walkCheck (s : State) (w : Walk) (r : Dword) : Except WalkStop (Nat × Dword) :=
  if r.toNat % 16 ≠ 0 then .error (.trap 0x07 r)
  else
    match s.walkAddr w r r with
    | .error e => .error e
    | .ok a =>
      let h := s.mem.dword a
      let x := s.slot w.coord
      if s.mem.tag a = 3 then .error (.trap 0x09 r)
      else if s.mem.tag a ≠ 2 || headerState h == 3 || headerSize h == 0 || fldN h 32 6 != 0 || fldN h 0 3 != 0 then
        .error (.trap 0x07 r)
      else
        match s.segCheck x.vf (x.segOf r) (fld r 0 60) (16 * headerSize h) 12 r with
        | .error e => .error (e.walk r)
        | .ok () => .ok (a, h)

/-- Accesses of the walk reach the dies of their homes (R249): whether they all accept them. -/
def State.walkCross (s : State) (w : Walk) (addrs : List Nat) : State × Bool :=
  s.crossAll w.coord (s.slot w.coord).strand w.vf false addrs

/-- The read of the header of the object at `r`, as `check` makes it, reaches its die. -/
def State.headerCross (s : State) (w : Walk) (r : Dword) : State × Bool :=
  if r.toNat % 16 ≠ 0 then (s, true)
  else match s.walkAddr w r r with
    | .error _ => (s, true)
    | .ok a => s.walkCross w [a]

/-- The object's arena has been killed on the walker's die (R256). -/
def State.arenaKilled (s : State) (c : Coord) (h : Dword) : Bool := (s.die c.die).killed.contains (headerArena h)

/-- The walk holds the object whose header lies at the flat address `a`. -/
def Walk.holds (w : Walk) (a : Nat) : Bool := w.marked.any (·.1 == a)

/-- It holds that object no more. -/
def Walk.release (w : Walk) (a : Nat) : Walk := { w with marked := w.marked.filter (·.1 != a) }

/-- The object at `a`, which the walk holds, is of an arena that has been killed since it was pushed (R256). Its header may be gone with the
arena's lines, so that the walk tells the arena from the push. -/
def State.holdsKilled (s : State) (w : Walk) (a : Nat) : Bool :=
  w.marked.any fun m => m.1 == a && (s.die w.coord.die).killed.contains m.2

/-! ## The stack and its spill region (R314) -/

/-- The flat address of spill entry `n`. -/
def State.spillAddr (s : State) (w : Walk) (r : Dword) (n : Nat) (rights : BitVec 4) : Except WalkStop Nat :=
  let vf := (s.slot w.coord).vf
  let e := (s.die w.coord.die).walkspill.get vf 0
  if !bit e 63 || 2 ^ 20 ≤ n then .error .full
  else
    let va := fldN e 23 25 * 2 ^ 23 + w.coord.cluster.toNat * 2 ^ 23 + 8 * n
    match s.translate w.coord vf none 0 rights r (.paged false (BitVec.ofNat 48 va), 8) with
    | .error e => .error (e.walk r)
    | .ok pl =>
      let a := pl.addrs.headD 0
      if s.mem.tag a = 3 then .error (.trap 0x09 r) else .ok a

/-- The reference goes on top of the stack; the oldest of 4,096 entries goes to the spill region. -/
def State.stackPush (s : State) (w : Walk) (r : Dword) : State × Except WalkStop Walk :=
  if w.stack.length < 4096 then (s, .ok { w with stack := r :: w.stack })
  else
    match s.spillAddr w r w.spilled rightW with
    | .error e => (s, .error e)
    | .ok a =>
      match s.walkCross w [a] with
      | (s, false) => (s, .error .dropped)
      | (s, true) =>
        (State.storeNat { s with mem := s.cohStore w.coord.clusterKey 2 [a] } a 8 (w.stack.getLastD 0).toNat,
          .ok { w with stack := r :: w.stack.dropLast, spilled := w.spilled + 1 })

/-- `push` (R312). A spilled entry that comes back may be this walk's own. -/
def State.walkPush (s : State) (w : Walk) (r : Dword) : State × Except WalkStop Walk :=
  match s.headerCross w r with
  | (s, false) => (s, .error .dropped)
  | (s, true) =>
    match s.walkCheck w r with
    | .error e => (s, .error e)
    | .ok (a, h) =>
      if s.arenaKilled w.coord h then
        -- the reference counts as null; a root that names a published object keeps bit 60 (R311)
        (s, .ok (if r = w.root && w.visits = 0 then { w with walked := headerState h == 1 } else w))
      else if headerState h = 1 then (s, .ok w)
      else if headerState h = 2 then (s, .ok (if w.holds a then w else { w with waits := w.waits ++ [r] }))
      else
        match s.stackPush w r with
        | (s, .error e) => (s, .error e)
        | (s, .ok w) =>
          (State.wrote { s with mem := s.mem.setHeaderState a 2 } [a], .ok { w with marked := (a, headerArena h) :: w.marked })

/-- The walker has made progress: its page faults count anew (R313, log 95). -/
def Walk.unfaulted (w : Walk) : Walk := { w with pf := 0, pfAt := none }

/-- Pushes in order until one stops. -/
def State.walkPushes (s : State) (w : Walk) : List Dword → State × Walk × Option WalkStop
  | [] => (s, { w with todo := [] }, none)
  | r :: rest =>
    match s.walkPush w r with
    | (s, .error e) => (s, { w with todo := r :: rest }, some e)
    | (s, .ok w) => s.walkPushes w.unfaulted rest

/-! ## Visits (R312) -/

/-- A value that a policy-11 segment of the slot may name. -/
def Slot.mayWalk (x : Slot) (v : Dword) : Bool := sgPolicy (x.segOf v) == 3 && fld v 0 60 != 0

/-- The fields of an object that are walkable, in ascending address: address, and value with bit 60. -/
def State.walkFields (s : State) (w : Walk) (addrs : List Nat) : Except WalkStop (List (Nat × Dword)) :=
  let x := s.slot w.coord
  let one (a : Nat) : Except WalkStop (List (Nat × Dword)) :=
    let v := s.mem.dword a
    if s.mem.tag a = 1 && x.mayWalk v then
      match s.walkCheck w v with
      | .error e => .error e
      | .ok (_, h) => .ok (if s.arenaKilled w.coord h then [] else [(a, v ||| (1#64 <<< 60))])
    else .ok []
  match collect one addrs with
  | .error e => .error e
  | .ok l => .ok l.flatten

/-- The flat addresses of the words of the object at `r` whose header is `h`. -/
def State.objectWords (s : State) (w : Walk) (r h : Dword) : Except WalkStop (List Nat) :=
  collect (fun i => s.walkAddr w r (ptrAdd r (BitVec.ofNat 60 (8 * i)))) (List.range (2 * headerSize h))

/-- The headers of the objects that fields at `addrs` name are read on their dies, up to one whose check fails (R249, R312). -/
def State.fieldsCross (s : State) (w : Walk) : List Nat → State × Bool
  | [] => (s, true)
  | a :: rest =>
    let v := s.mem.dword a
    if s.mem.tag a = 1 && (s.slot w.coord).mayWalk v then
      match s.headerCross w v with
      | (s, false) => (s, false)
      | (s, true) =>
        match s.walkCheck w v with
        | .error _ => (s, true)
        | .ok _ => s.fieldsCross w rest
    else s.fieldsCross w rest

/-- The visit of the object at `r` reaches the dies that hold it and the objects that it names, or is dropped at the ingress of one of them
(R249). -/
def State.visitCross (s : State) (w : Walk) (r : Dword) : State × Bool :=
  match s.headerCross w r with
  | (s, false) => (s, false)
  | (s, true) =>
    match s.walkCheck w r with
    | .error _ => (s, true)
    | .ok (_, h) =>
      match s.objectWords w r h with
      | .error _ => (s, true)
      | .ok addrs =>
        match s.walkCross w addrs with
        | (s, false) => (s, false)
        | (s, true) => if addrs.any fun x => s.mem.tag x == 3 then (s, true) else s.fieldsCross w addrs.tail

/-- `visit` of the object at `r`: the state with the object published, and the references to push, in order. -/
def State.visit (s : State) (w : Walk) (r : Dword) : Except WalkStop (State × Nat × List Dword) :=
  match s.walkCheck w r with
  | .error e => .error e
  | .ok (a, h) =>
    match s.objectWords w r h with
    | .error e => .error e
    | .ok addrs =>
      if addrs.any fun x => s.mem.tag x == 3 then .error (.trap 0x09 r)
      else
        match s.walkFields w addrs.tail with
        | .error e => .error e
        | .ok fields =>
          let m := fields.foldl (fun m f => m.store (at' f.1 (leBytes 8 f.2.toNat)) 1) s.mem
          let m := m.setHeaderState a 1
          let m := ((addrs.map lineOf).eraseDups).foldl (fun m l => m.publish l) m
          .ok (State.wrote { s with mem := m } addrs, a, (fields.map (·.2)).reverse)

/-! ## The walker -/

/-- The reference on top of the stack (R313). -/
def Walk.top (w : Walk) : Dword := (w.stack ++ w.todo ++ w.waits).headD w.root

def State.setWalk (s : State) (w : Walk) : State := s.modCluster w.coord fun cl => { cl with walk := some w }

/-- A trap of the `pub` that waits for the walk. -/
def State.walkTrap (s : State) (c : Coord) (cause : BitVec 8) (tval : Dword) : State :=
  if (s.slot c).hold = some .walk then s.trapAt c cause tval (s.slot c).pc else s

/-- The walk stops: abandoned, held by a page fault, or suspended (R313). -/
def State.walkStop (s : State) (w : Walk) (e : WalkStop) : State :=
  let c := w.coord
  let x := s.slot c
  match e with
  | .trap cause tval => ((s.setWalk w).abandonWalk c).walkTrap c cause tval
  | .full => (s.setWalk { w with suspended := true }).walkTrap c 0x0E w.top
  -- nothing answers the access, and the walk ends with its strand there
  | .dropped => ((s.setWalk w).abandonWalk c).modSlot c fun x => { x with hold := some .dropped }
  | .page host va =>
    -- faults in a row of one access (log 95)
    let w := if w.pfAt = some (host, va) then w else w.unfaulted
    if !s.fqOn x.vf || 2 ≤ w.pf then ((s.setWalk w).abandonWalk c).walkTrap c 0x11 w.top
    else
      (s.setWalk { w with pf := w.pf + 1, pfAt := some (host, va), held := true }).queueRecord x.vf
        (s.record c x.vf va.toNat false (if host then 6 else 4) (w.pf + 1) 3 x.strand)

/-- The walk goes on with its next event. -/
def State.walkNext (s : State) (w : Walk) : State :=
  let done := w.stack.isEmpty && w.spilled = 0 && w.todo.isEmpty && w.waits.isEmpty
  (s.setWalk w).later (if done then .walkRootStore else .walkVisit) (.at w.coord)

/-- After pushes. -/
def State.walkPushed (s : State) (w : Walk) (todo : List Dword) : State :=
  match s.walkPushes w todo with
  | (s, w, none) => s.walkNext w.unfaulted
  | (s, w, some e) => s.walkStop w e

/-- The address of the object at `r`, if its arena has been killed since the walk pushed it. -/
def State.killedAt (s : State) (w : Walk) (r : Dword) : Option Nat :=
  match s.walkAddr w r r with
  | .ok a => if s.holdsKilled w a then some a else none
  | .error _ => none

/-- The reference `r` to an object of a killed arena counts as null (R256): the walk passes it by, and a root so named gets no bit 60. -/
def State.walkSkip (s : State) (w : Walk) (r : Dword) (a : Nat) : State :=
  State.laters (s.walkNext { (w.unfaulted.release a) with walked := w.walked && r != w.root }) s.walkWaiters

/-- The walk takes the reference `r` from its stack and visits it. -/
def State.walkPop (s : State) (w : Walk) (r : Dword) : State :=
  match s.killedAt w r with
  | some a => s.walkSkip w r a
  | none =>
    if 2 ^ 20 ≤ w.visits then s.walkStop { w with stack := r :: w.stack } .full
    else
      match s.visitCross w r with
      | (s, false) => s.walkStop w .dropped
      | (s, true) =>
        match s.visit w r with
        | .error e => s.walkStop { w with stack := r :: w.stack } e
        | .ok (s, a, todo) =>
          let w := { (w.unfaulted.release a) with visits := w.visits + 1 }
          State.laters (s.walkPushed w todo) s.walkWaiters

/-- A spilled entry comes back: visited if it is the walk's own, else pushed as a reference. -/
def State.walkUnspill (s : State) (w : Walk) : State :=
  match s.spillAddr w w.root (w.spilled - 1) rightR with
  | .error e => s.walkStop w e
  | .ok a =>
    match s.walkCross w [a] with
    | (s, false) => s.walkStop w .dropped
    | (s, true) =>
      let r := s.mem.dword a
      match s.killedAt w r with
      | some a => s.walkSkip { w with spilled := w.spilled - 1 } r a
      | none =>
        match s.headerCross w r with
        | (s, false) => s.walkStop w .dropped
        | (s, true) =>
          -- an entry whose check faults stays in the spill region
          match s.walkCheck w r with
          | .error e => s.walkStop w e
          | .ok (a, _) =>
            let w := { w with spilled := w.spilled - 1 }
            if w.holds a then s.walkPop w r else s.walkPushed w [r]

/-- The reads of the headers of W reach their dies. -/
def State.waitsCross (s : State) (w : Walk) : State × Bool :=
  w.waits.foldl (fun (x : State × Bool) r => if x.2 then x.1.headerCross w r else x) (s, true)

/-- The objects of W that are still under another walk, and those back in state 00. -/
def State.walkWaits (s : State) (w : Walk) : Except WalkStop (List Dword × List Dword) :=
  let one (r : Dword) : Except WalkStop (Dword × Nat) :=
    match s.walkAddr w r r with
    | .error e => .error e
    | .ok a =>
      let h := s.mem.dword a
      .ok (r, if s.mem.tag a = 2 && !s.arenaKilled w.coord h then headerState h else 1)
  match collect one w.waits with
  | .error e => .error e
  | .ok l => .ok ((l.filter (·.2 == 2)).map (·.1), (l.filter (·.2 == 0)).map (·.1))

/-- `WALK_VISIT` of the cluster `arg.c`'s walk: one visit with the pushes that follow it. -/
def execWalkVisit (s : State) : Res :=
  .next (
    match (s.cluster s.arg.c).walk with
    | none => s
    | some w =>
      if w.suspended || w.held || (s.slot w.coord).hold ≠ some .walk then s
      else if !w.todo.isEmpty then s.walkPushed w w.todo
      else
        match w.stack with
        | r :: rest => s.walkPop { w with stack := rest } r
        | [] =>
          if w.spilled ≠ 0 then s.walkUnspill w
          else
            match s.waitsCross w with
            | (s, false) => s.walkStop w .dropped
            | (s, true) =>
              match s.walkWaits w with
              | .error e => s.walkStop w e
              | .ok ([], back) => s.walkNext { w.unfaulted with waits := [], todo := back }
              | .ok (_ :: _, _) => s)

/-- The walker takes the cluster's next walk. -/
def State.nextWalk (s : State) (c : Coord) : State :=
  let s := s.modCluster c fun cl => { cl with walk := cl.walkQ.head?, walkQ := cl.walkQ.tail }
  match (s.cluster c).walk with
  | some w => s.later .walkVisit (.at w.coord)
  | none => s

/-- The walk is over: its root store, at a resolved place, is the slot's posted store, and completes the walk's number when it has
performed. -/
def State.rootStore (s : State) (w : Walk) (pl : Place) : State :=
  let s := State.nextWalk { s with cur := w.coord } w.coord
  let v := if w.walked then w.root ||| (1#64 <<< 60) else w.root
  let tag := s.storeTag w.slotPtr v
  let s := (s.modMe fun x => { x with stag := x.stag &&& 3 }).advance 4
  let bytes (a : Nat) : PacketOp := .store (at' a (leBytes 8 v.toNat)) tag
  let packet (route : Route) (op : PacketOp) : Packet :=
    { s.packet w.coord w.slotPtr route op pl with completes := some w.num }
  match pl.peer with
  | none => s.send (packet (.here (pl.addrs.headD 0)) (bytes (pl.addrs.headD 0)))
  | some (dev, va) =>
    if s.peerLost dev then (s.postFault w.coord 0x0B w.slotPtr).tlComplete w.coord w.vf 7 w.num
    else s.send (packet (.peer dev va) (bytes 0))

/-- `WALK_ROOT_STORE`: the root slot is resolved and its store leaves. -/
def execWalkRootStore (s : State) : Res :=
  .next (
    match (s.cluster s.arg.c).walk with
    | none => s
    | some w =>
      if w.suspended || w.held || !(w.stack.isEmpty && w.spilled == 0 && w.todo.isEmpty && w.waits.isEmpty)
          || (s.slot w.coord).hold ≠ some .walk then s
      else
        match s.dataPlace w.coord w.slotPtr 8 rightW with
        | .ok pl => s.rootStore w pl
        | .error (.miss block) =>
          (s.setWalk { w with suspended := true }).stopAt w.coord (.miss block) accW w.slotPtr
        | .error e => s.walkStop w (e.walk w.slotPtr))

/-! ## `pub` (R311, R313) -/

/-- The suspended walk of the current slot with these references goes on, with its visit count from 0; one that a page fault held
tries its access again (R342). -/
def State.resumeWalk (s : State) (r p : Dword) : Option State :=
  let mine (w : Walk) : Bool := w.of s.cur && w.suspended && w.root == r && w.slotPtr == p
  let cl := s.cluster s.cur
  let go (w : Walk) : Walk := if mine w then { w with suspended := false, visits := 0, held := false } else w
  if (cl.walk.toList ++ cl.walkQ).any mine then
    some ((s.setCluster s.cur { cl with walk := cl.walk.map go, walkQ := cl.walkQ.map go }).later .walkVisit (.at s.cur))
  else none

/-- A new walk of the current slot, at the end of the cluster's queue. -/
def State.newWalk (s : State) (r p : Dword) : State :=
  let s := s.dropWalks s.cur
  let (s, num) := s.tlNext s.cur 7
  let walks := s.me.mayWalk r
  let w : Walk := {
    coord := s.cur, vf := s.me.vf, root := r, slotPtr := p, num := num, stack := [], spilled := 0, todo := if walks then [r] else [], waits := [], visits := 0
    marked := [], walked := walks, suspended := false, task := .present, pf := 0, pfAt := none, held := false }
  match (s.cluster s.cur).walk with
  | none => s.walkNext w
  | some _ => s.modCluster s.cur fun cl => { cl with walkQ := cl.walkQ ++ [w] }

def execPub (a b : BitVec 5) (s : State) : Res :=
  let r := s.rg a
  let p := s.rg b
  .next (
    s.aligned p 8 <|
      s.withPlace p 8 rightW accW fun _ =>
        s.releaseThen fun s =>
          State.leave ((s.resumeWalk r p).getD (s.newWalk r p)) .walk)

end Sys2Proof.Machine
end

