-- ==== Sys2Proof/Machine/Power.lean ====
section
/-! DEFINITION. What reaches the device from outside: the host's registers and requests (R364 to R370, R375), power and start-up
(R22, R371 to R374), and errors (R137, R338). -/
namespace Sys2Proof.Machine

/-! ## Whole-core and cluster records (R344) -/

/-- The local memory of a core in the flat space. -/
def inLocal (c : Coord) (a : Nat) : Bool := localAddr c.coreKey 0 ≤ a && a < localAddr c.coreKey 0 + 2 ^ 16

/-- The copy contexts of a core with the entries that satisfy `p` alone. -/
def Core.copyOf (k : Core) (p : CopyEntry → Bool) : Vector CopyCtx 4 :=
  k.copy.map fun x => { x with entries := x.entries.filter p }

/-- The slot that slot 13 serves for the VF, or the service of a task of it that has been annulled meanwhile. -/
def State.servingFor (s : State) (c : Coord) (vf : Nat) : Bool :=
  (s.core c).serving.isSome && (s.slot (c.at 13)).live && (s.slot (c.at 13)).vf == vf

/-- The whole-core record of the VF. -/
def State.coreRecord (s : State) (c : Coord) (vf : Nat) : CoreRecord :=
  let k := s.core c
  let serves := s.servingFor c vf
  { mb := k.mb, lc := k.lc, tl := k.tl, nextNum := k.nextNum, completed := k.completed, tabA := k.tabA, tabB := k.tabB
    ptb := k.ptb, victim := k.victim, copy := k.copyOf (·.vf == vf), mover := (s.slot (c.at 15)).halted true
    serving := if serves then k.serving else none, servedGone := serves && k.servedGone, pmiss := k.pmiss
    cells := s.mem.cells.filter fun e => inLocal c e.1, tags := s.mem.tags.filter fun e => inLocal c (8 * e.1)
    full := s.mem.full.filter fun w => inLocal c (8 * w) }

/-- The VF has something on the core that a whole-core record holds. -/
def State.onCore (s : State) (c : Coord) (p : Nat → Bool) : Bool :=
  (c.slots.any fun w => (s.slot w).live && !(s.slot w).fw && p (s.slot w).vf)
    || (s.core c).copy.toList.any fun x => x.entries.any fun e => p e.vf

/-- The VF has something in the cluster that a cluster record holds. -/
def State.onCluster (s : State) (u : Coord) (p : Nat → Bool) : Bool :=
  (u.cores.any fun c => c.slots.any fun w => (s.slot w).live && !(s.slot w).fw && p (s.slot w).vf)
    || (s.cluster u).cmds.any (fun x => p x.vf) || (s.cluster u).fmts.any fun x => p x.vf

/-- What a core holds once a record of it has been written: no entry and no service of the VF, and, unless another VF works there,
mailboxes, counters and timelines as after core reset. Everything else keeps its contents (log 27). -/
def State.coreSaved (s : State) (c : Coord) (vf : Nat) : State :=
  let shared := s.onCore c (· != vf)
  let serves := s.servingFor c vf
  let s := s.modCore c fun k =>
    let k := { k with
      copy := k.copyOf (·.vf != vf), serving := if serves then none else k.serving
      servedGone := if serves then false else k.servedGone }
    if shared then k
    else { k with
      mb := Core.reset.mb, lc := Core.reset.lc, tl := Core.reset.tl, nextNum := Core.reset.nextNum, completed := []
      copy := k.copy.map fun x => { x with advanced := 0 } }
  -- the movement firmware has nothing of the VF in hand
  s.modSlot (c.at 15) fun x => if x.fw && x.vf == vf then { x with hold := none, pfCount := 0, cappPos := none } else x

/-- The cluster record of the VF. -/
def State.clusterRecord (s : State) (u : Coord) (vf : Nat) : ClusterRecord :=
  let cl := s.cluster u
  { acc := cl.acc, ctx := cl.ctx, epiI := cl.epiI, epiD := cl.epiD, cmds := cl.cmds.filter (·.vf == vf)
    fmts := cl.fmts.filter (·.vf == vf) }

/-- What a cluster holds once a record of it has been written: no command of the VF. Its accumulators, contexts and images keep their
contents (log 27). -/
def Cluster.saved (cl : Cluster) (vf : Nat) : Cluster :=
  let mine := match cl.current with | some x => x.vf == vf | none => false
  { cl with
    cmds := cl.cmds.filter (·.vf != vf), fmts := cl.fmts.filter (·.vf != vf)
    running := if mine then none else cl.running }

/-- The cores and the clusters, by any place in them, that hold something of the VF. -/
def State.coresOf (s : State) (vf : Nat) : List Coord :=
  ((s.cores.map fun kx => Coord.ofKey (kx.1 * 16)) ++ s.slots.map fun kx => (Coord.ofKey kx.1).at 0).eraseDups.filter fun c =>
    s.onCore c (· == vf)

def State.clustersOf (s : State) (vf : Nat) : List Coord :=
  ((s.clusters.map fun kx => Coord.ofKey (kx.1 * 128)) ++ s.slots.map fun kx => Coord.ofKey (kx.1 / 128 * 128)).eraseDups.filter
    fun u => s.onCluster u (· == vf)

/-! ## Pre-emption of a VF (R342, R345, R370) -/

/-- The slots that run tasks of a VF. -/
def State.vfSlots (s : State) (vf : Nat) : List Coord :=
  s.slots.filterMap fun kx => if kx.2.live && !kx.2.fw && kx.2.vf == vf then some (Coord.ofKey kx.1) else none

/-- A request of an engine of the VF still waits for a peer's answer. -/
def State.enginesAsk (s : State) (vf : Nat) : Bool :=
  (s.cores.any fun kx => kx.2.copy.toList.any fun x => x.entries.any fun e => e.vf == vf && e.asked.isSome)
    || s.clusters.any fun kx => kx.2.cmds.any fun x => x.vf == vf && x.asked.isSome

/-- A request of the host is served, and wakes the device (R372). In a start for recovery the VFs take none (R374). -/
def State.hostRequest (s : State) (k : State → State) : State := if s.dev.recovery then s else (k s).rouse

/-- `PREEMPT_REQUEST` of the VF `arg.vf`: refused at once where the VF has no context area; else its slots issue no more, its engines
stop, and it is saved. -/
def execPreemptRequest (s : State) : Res :=
  let vf := s.arg.vf
  .next (
    s.hostRequest fun s =>
      if s.paused vf then s
      else if !bit (s.vf vf).ctxarea 63 then s.modVf vf fun y => { y with preempt := 4 }
      else (s.modVf vf fun y => { y with preempt := 1 }).later .vfSaveComplete (.ofVf vf))

/-- The address of a core's record, and of a cluster's (R344). -/
def coreRecordAddr (area : Dword) (c : Coord) : Nat :=
  fldN area 20 32 * 2 ^ 20 + 0x08000000 + 73728 * ((c.die.toNat * 48 + c.cluster.toNat) * 8 + c.core.toNat)
def clusterRecordAddr (area : Dword) (u : Coord) : Nat :=
  fldN area 20 32 * 2 ^ 20 + 0x18000000 + 0x110000 * (u.die.toNat * 48 + u.cluster.toNat)

/-- `n` bytes at `a` are written with free values: a record whose layout the device alone knows (R344, log 27). -/
def State.writeOpaque (s : State) (a n : Nat) : State :=
  State.deviceStore { s with fresh := s.fresh + n } a ((List.range n).map fun i => (Config.freeValue (s.fresh + i)).setWidth 8)

/-- Every record of the VF is written: its whole-core records with the posted stores of its slots performed, its slot records, and its
cluster records. -/
def State.saveVf (s : State) (vf : Nat) : State :=
  let s := (s.vfSlots vf).foldl (fun s c => s.drain c) s
  let cores := s.coresOf vf
  let units := s.clustersOf vf
  let s := cores.foldl (fun s c =>
    let r := s.coreRecord c vf
    s.modVf vf fun y => { y with savedCores := y.savedCores.set c.coreKey r }) s
  let s := units.foldl (fun s u =>
    let r := s.clusterRecord u vf
    s.modVf vf fun y => { y with savedClusters := y.savedClusters.set u.clusterKey r }) s
  let s := (s.vfSlots vf).foldl (fun s c => s.saveSlot c true) s
  let area := (s.vf vf).ctxarea
  let s := cores.foldl (fun s c => s.writeOpaque (coreRecordAddr area c) 73728) s
  let s := units.foldl (fun s u => s.writeOpaque (clusterRecordAddr area u) 0x110000) s
  let s := cores.foldl (fun s c => (s.coreSaved c vf).later .shadowServiceStart (.at c)) s
  -- crews of other VFs that wait for a place may start where the VF's slots stood (R228)
  let s := s.laters ((cores.filter s.crewWaits).map fun c => (Instr.crewStart, EvArg.at { c with core := 0 })).eraseDups
  units.foldl (fun s u => (s.modCluster u (·.saved vf)).later .matrixCommandStart (.at u)) s

/-- `VF_SAVE_COMPLETE` of the VF `arg.vf`: once no engine of it waits for a peer, the VF is saved. -/
def execVfSaveComplete (s : State) : Res :=
  let vf := s.arg.vf
  .next (
    if !bit (s.vf vf).preempt 0 || s.enginesAsk vf then s
    else (s.saveVf vf).modVf vf fun y => { y with preempt := 2 })

/-! ## Resumption (R342, R370) -/

/-- Mailbox values of strands that have ended meanwhile are dropped (R189). -/
def Die.liveMail (x : Die) (mb : Vector Mailbox 8) : Vector Mailbox 8 :=
  mb.map fun m => if (m.full || m.coming) && !x.strandLive m.strand then Mailbox.reset else m

/-- A whole-core record is read back. Entries that a page fault held try again. A word of local memory that holds poison keeps it, since
R146 does not list this write among those that clear poison (log 80). -/
def State.restoreCore (s : State) (c : Coord) (vf : Nat) (r : CoreRecord) : State :=
  let s := s.modVf vf fun y => { y with savedCores := y.savedCores.erase c.coreKey }
  let copy := r.copy.map fun x => { x with entries := x.entries.map fun e => { e with held := false } }
  let s := s.modCore c fun k => { k with
    mb := (s.die c.die).liveMail r.mb, lc := r.lc, tl := r.tl, nextNum := r.nextNum, completed := r.completed, tabA := r.tabA
    tabB := r.tabB, ptb := r.ptb, victim := r.victim, copy := copy, serving := r.serving, servedGone := r.servedGone
    pmiss := r.pmiss }
  let s := if r.mover.fw && r.mover.cappPos.isSome && r.mover.vf = vf then s.setSlot (c.at 15) r.mover else s
  let lo := localAddr c.coreKey 0
  let bad := s.mem.poisonedIn lo (2 ^ 16)
  let m := (s.mem.clearUnpoisoned lo (2 ^ 16)).store (r.cells.filter fun x => !bad.contains (wordOf x.1)) 0
  let m := (r.tags.filter fun t => !bad.contains t.1).foldl (fun m t => m.setTag (8 * t.1) t.2) m
  let m := r.full.foldl (fun m w => m.setFull (8 * w) true) m
  State.laters { s with mem := m } ((List.range 4).flatMap fun n =>
    let l := (copy.getD n { entries := [], advanced := 0 }).entries
    -- every running entry has its own turn with the engine
    ((l.filter (·.phase == .running)).map fun e => (Instr.copyPacket, EvArg.entry c n e.num))
      ++ if l.isEmpty then [] else [(Instr.chainEntryComplete, EvArg.num c n), (Instr.chainEntryStart, EvArg.num c n)])

/-- A cluster record is read back. A command whose drain had begun keeps the array, and commands that a page fault held try again. -/
def State.restoreCluster (s : State) (u : Coord) (vf : Nat) (r : ClusterRecord) : State :=
  let s := s.modVf vf fun y => { y with savedClusters := y.savedClusters.erase u.clusterKey }
  let cmds := r.cmds.map fun x => { x with faultHeld := false }
  let drain := cmds.find? (·.phase == .draining)
  let s := s.modCluster u fun cl => { cl with
    acc := r.acc, ctx := r.ctx, epiI := r.epiI, epiD := r.epiD, cmds := cl.cmds ++ cmds, fmts := cl.fmts ++ r.fmts
    running := match drain with | some x => some (x.sender, x.onTl5, x.num) | none => cl.running }
  let s := match drain with | some x => s.later .drainElement (.cmd s u x) | none => s
  let ended := cmds.filter (·.phase == .finished)
  (s.laters (ended.map fun x => (Instr.matrixCommandComplete, EvArg.cmd s u x))).unitRetry u

/-- The slot records of a VF that may be restored: those of its cores and clusters have been, the slot is free, and nothing of the record
is pending. -/
def State.restorable (s : State) (vf : Nat) : List Coord :=
  let y := s.vf vf
  if !y.savedClusters.isEmpty then []
  else
    y.saved.filterMap fun r =>
      let c := Coord.ofKey r.1
      if (s.slot c).live || r.2.slot.incomplete || (y.savedCores.find? c.coreKey).isSome then none
      else some c

/-- Every record of the VF whose place no other VF holds is restored: clusters, cores, then slots. -/
def State.restoreVf (s : State) (vf : Nat) : State :=
  let s := (s.vf vf).savedClusters.foldl (fun s r =>
    let u := Coord.ofKey (r.1 * 128)
    if s.onCluster u (· != vf) then s else s.restoreCluster u vf r.2) s
  let s := (s.vf vf).savedCores.foldl (fun s r =>
    let c := Coord.ofKey (r.1 * 16)
    if s.onCore c (· != vf) then s else s.restoreCore c vf r.2) s
  (s.restorable vf).foldl (fun s c => s.restoreSlot c vf .saved) s

/-- What waits for a VF that was saved: its launch port, crews, displaced tasks, queue entries and messages. -/
def State.restartWaiting (s : State) (vf : Nat) : State :=
  let crews := s.dies.flatMap fun dx =>
    let d : BitVec 3 := BitVec.ofNat 3 dx.1
    (dx.2.launches.filter (·.vf == vf)).flatMap fun l => (l.crews.filter fun k => !k.started && !k.retired).map fun k =>
      (Instr.crewStart, EvArg.at { die := d, cluster := k.cluster, core := 0, slot := 0 })
  let offers := s.dies.flatMap fun dx =>
    let d : BitVec 3 := BitVec.ofNat 3 dx.1
    dx.2.queues.flatMap fun q => (q.2.entries.filter (·.vf == vf)).flatMap fun e => s.offer d e
  let msgs := s.cores.filterMap fun kx =>
    if kx.2.amq.isEmpty then none else some (Instr.activeMessageStart, EvArg.at ((Coord.ofKey (kx.1 * 16)).at 14))
  let displaced := (s.vf vf).displaced.flatMap fun l => l.2.map fun r => (Instr.displacedTaskResume, EvArg.at (Coord.ofKey r.1))
  s.laters ((Instr.launchPortTake, EvArg.ofVf vf) :: (crews ++ displaced ++ offers ++ msgs).eraseDups)

/-- `RESUME` of the VF `arg.vf`: a saved VF is restored; with `arg.flag`, the records that were left are looked at again. -/
def execResume (s : State) : Res :=
  let vf := s.arg.vf
  .next (
    if s.arg.flag then (if s.paused vf then s else s.restoreVf vf)
    else
      s.hostRequest fun s =>
        if bit (s.vf vf).preempt 1 then
          let s := s.modVf vf fun y => { y with preempt := y.preempt &&& 4 }
          (s.restoreVf vf).restartWaiting vf
        else s)

/-! ## The VF's registers (R366, R368) -/

/-- `DOORBELL` of the VF `arg.vf` with the bits `arg.v`. A write of bits that ring nothing is still a host request, and wakes (R372). -/
def execDoorbell (s : State) : Res :=
  .next (
    if s.dev.recovery then s
    else
      let s := s.later .wakeFromIdle (.ofVf s.arg.vf)
      if fldN s.arg.v 0 2 = 0 then s else s.later .launchPortTake (.ofVf s.arg.vf))

/-- A submission ring holds entries that the port has not taken. -/
def State.ringEmpty (s : State) (vf r : Nat) : Bool :=
  let x := s.vf vf
  let base := x.sqbase.getD r 0
  !ringSizeOk (x.sqsize.getD r 0) || s.mem.readNat (physBase base) 8 == s.ringConsumed base

/-- A register of the block takes a value. -/
def Vf.writeReg (x : Vf) (off : Nat) (v : Dword) : Vf :=
  match off with
  | 0x000 => { x with sqbase := x.sqbase.set 0 v }
  | 0x008 => { x with sqsize := x.sqsize.set 0 (fld v 0 16) }
  | 0x010 => { x with sqbase := x.sqbase.set 1 v }
  | 0x018 => { x with sqsize := x.sqsize.set 1 (fld v 0 16) }
  | 0x020 => { x with lqbase := v }
  | 0x028 => { x with lqsize := fld v 0 16 }
  | 0x030 => { x with fqbase := v }
  | 0x038 => { x with fqsize := fld v 0 16 }
  | 0x048 => { x with ltol := fld v 0 32 }
  | _ => x

/-- A read of the register block (R366): the write-only registers, the other offsets and the unnamed bits read zero. -/
def Vf.readReg (x : Vf) (off : Nat) : Dword :=
  match off with
  | 0x000 => x.sqbase.get 0
  | 0x008 => (x.sqsize.get 0).setWidth 64
  | 0x010 => x.sqbase.get 1
  | 0x018 => (x.sqsize.get 1).setWidth 64
  | 0x020 => x.lqbase
  | 0x028 => x.lqsize.setWidth 64
  | 0x030 => x.fqbase
  | 0x038 => x.fqsize.setWidth 64
  | 0x048 => x.ltol.setWidth 64
  | 0x050 => x.preempt.setWidth 64
  | _ => 0

/-- The bytes of a read of `n` bytes at an offset: all ones where it is not an aligned 8-byte access (R366). -/
def Vf.regBytes (x : Vf) (off n : Nat) : List Byte :=
  if n = 8 && off % 8 = 0 then leBytes 8 (x.readReg off).toNat else List.replicate n 0xFF

/-- `VF_REGISTER_WRITE`: the register at offset `arg.n` of the VF `arg.vf` takes `arg.v`. -/
def execVfRegisterWrite (s : State) : Res :=
  let vf := s.arg.vf
  let off := s.arg.n
  let busy := !(s.vfSlots vf).isEmpty || !s.ringEmpty vf 0 || !s.ringEmpty vf 1
  .next (
    s.hostRequest fun s =>
      if off ≤ 0x038 && busy then s
      else
        let s := s.modVf vf (·.writeReg off s.arg.v)
        if (s.vf vf).faults.isEmpty then s else s.later .faultRecordAppend (.ofVf vf))

/-! ## Host-shared memory (R365) -/

/-- The lines of a 4 KiB page. -/
def pageLines (page : Nat) : List Nat := (List.range 32).map (page * 32 + ·)

/-- Requests of the device in flight to a page complete. -/
def State.drainPage (s : State) (page : Nat) : State :=
  let users := (s.port.filter fun p => p.addrs.any fun a => a / 4096 == page).map (·.coord)
  users.eraseDups.foldl (fun s w => s.drain w) s

/-- `BIAS_FLIP` of the page that holds the device physical address `arg.v`. To host bias the device loses: its requests complete and its
copies of the page's lines are invalidated. The host keeps no copies in the model, and its requests are served at once. The host writes
the register, which wakes the device (R372). -/
def execBiasFlip (s : State) : Res :=
  let page := lpddrAddr s.arg.v.toNat / 4096
  .next (
    (if s.mem.hostBias.contains page then { s with mem := { s.mem with hostBias := s.mem.hostBias.erase page } }
    else
      let s := s.drainPage page
      let m := (pageLines page).foldl (fun (m : Memory) l => m.invalidate l) s.mem
      { s with mem := { m with hostBias := page :: m.hostBias } }).rouse)

/-- The agent of a host request: no cluster of this device. -/
def hostAgent : Nat := 513

/-- `n` free bytes, `n` at most a multiple of 8 (log 7). -/
def State.freeBytes (s : State) : Nat → State × List Byte
  | 0 => (s, [])
  | n + 1 =>
    let (s, v) := s.free
    let (s, r) := s.freeBytes n
    (s, leBytes 8 v.toNat ++ r)

/-- What the host asks of device memory: flat address and bytes. -/
def HostOp.extent : HostOp → Option (Nat × Nat)
  | .read a n => some (lpddrAddr a.toNat, n)
  | .write a b => some (lpddrAddr a.toNat, b.length)
  | .atomic a _ w _ _ => some (lpddrAddr a.toNat, w / 8)
  | .readReg .. => none

/-- The request is one that the device completes: an AtomicOp in the forms that R150 allows for the host kind (R364), aligned. -/
def HostOp.supported : HostOp → Bool
  | .atomic a fn w _ _ => (fn == 0 || fn == 1 || fn == 9) && (w == 32 || w == 64) && a.toNat % (w / 8) == 0
  | _ => true

/-- Bytes that the host writes: the last writer of their lines is the host (R368). -/
def State.hostStore (s : State) (addrs : List Nat) (b : List Byte) : State :=
  let s := State.store { s with mem := s.cohStore hostAgent 2 addrs } (addrs.zip b) 0
  { s with mem := { s.mem with hostLines := ((addrs.map lineOf) ++ s.mem.hostLines).eraseDups } }

def State.hostAnswer (s : State) (b : List Byte) : State := { s with out := s.out ++ [.hostAnswer b] }

/-- A request for device memory is served. A refused write performs nothing, and what a refused read returns is free. -/
def State.serveHost (s : State) (q : HostOp) (addrs : List Nat) : State :=
  let n := addrs.length
  let old := s.mem.bytesAt addrs
  match firstRefused s.mem hostAgent addrs, q with
  | none, .write _ b => s.hostStore addrs b
  | none, .atomic _ fn w x expect =>
    if fn = 9 && leNat old ≠ expect.toNat % 2 ^ w then s.hostAnswer old
    else (s.hostStore addrs (leBytes n (atomicFn fn w (leNat old) (x.toNat % 2 ^ w) (expect.toNat % 2 ^ w)))).hostAnswer old
  | none, _ => s.hostAnswer old
  | some _, .write .. => s
  | some _, _ =>
    let (s, b) := s.freeBytes ((n + 7) / 8)
    s.hostAnswer (b.take n)

/-- `INBOUND_HOST_REQUEST` `arg.host`. It wakes the device (R372), also where it is one that the device ignores. Under device bias the device's copies of the lines are invalidated first; where that collides
with the request (`arg.flag`), the request completes first. -/
def execInboundHostRequest (s : State) : Res :=
  .next (
    match s.arg.host with
    | none => s
    | some (.readReg vf off n) => if s.dev.recovery then s else (s.hostAnswer ((s.vf vf).regBytes off n)).rouse
    | some q =>
      let s := if s.dev.recovery then s else s.rouse
      match q.extent with
      | none => s
      | some (a, n) =>
        if n = 0 || !physOk a || !physOk (a + n - 1) || !q.supported || s.dev.recovery then s
        else
          let addrs := (List.range n).map (a + ·)
          let lines := (addrs.map lineOf).eraseDups
          if s.mem.hostBias.contains (a / 4096) then s.serveHost q addrs
          else if s.arg.flag then
            let s := s.serveHost q addrs
            let s := { s with dev := { s.dev with backInv := s.dev.backInv ++ lines } }
            s.laters (lines.map fun l => (Instr.backInvalidationRetry, EvArg.num Coord.zero l))
          else State.serveHost { s with mem := lines.foldl (fun m l => m.invalidate l) s.mem } q addrs)

/-- `BACK_INVALIDATION_RETRY` of the line `arg.n`. -/
def execBackInvalidationRetry (s : State) : Res :=
  let l := s.arg.n
  .next (
    if s.dev.backInv.contains l then
      { s with mem := s.mem.invalidate l, dev := { s.dev with backInv := s.dev.backInv.erase l } }
    else s)

/-! ## Attestation (R375) -/

/-- What an answer reports (R375): the certificate chain, and the measurements of the boot ROM, of the running image with its slot and
of the presets, with the skipped steps of R374. The bytes of the chain and of each measurement are the device's own (log 27). -/
def Device.report (x : Device) : List Byte :=
  let slot : Byte := if x.fwSlotB then 1 else 0
  let skips : List Byte := x.skipped.map fun k => k.setWidth 8
  Config.measurement [0] ++ Config.measurement [1] ++ Config.measurement [2, slot] ++ [slot] ++ Config.measurement [3] ++ skips

/-- `SPDM_REQUEST`: the report, and a signature, whose 384 bytes are free (log 7). -/
def execSpdmRequest (s : State) : Res :=
  let (s, signature) := s.freeBytes 48
  .next (State.rouse { s with dev := { s.dev with attested := s.dev.attested ++ [s.dev.report ++ signature] } })

/-! ## Power (R22, R371, R372) -/

/-- A peer's request is held here and has not been dropped, or a request of this device to a peer is still unanswered: an access that no slot waits for, or that of
a saved task. Those of slots, engines and the port keep the device from being idle as such. -/
def State.peerInFlight (s : State) : Bool :=
  !s.loose.isEmpty || s.heldPeers.any (!·.dropped)
    || s.vfs.any fun v => v.2.standings.any fun w =>
      List.any (v.2.records w) fun r => (r.2.slot.hold.bind (Hold.awaits s.dev.devno)).isSome

/-- The device is idle; a movement slot whose firmware has no work counts as not live (log 13). -/
def State.idle (s : State) : Bool :=
  s.slots.all (fun kx => !kx.2.live || (kx.2.fw && kx.2.cappPos.isNone && (s.core (Coord.ofKey kx.1)).fwWork.isNone))
    && s.vfs.all (fun v =>
      (!ringSizeOk v.2.lqsize || s.lqTail v.1 == s.lqCommon v.1) && s.ringEmpty v.1 0 && s.ringEmpty v.1 1)
    && s.cores.all (fun kx => kx.2.copy.toList.all (·.entries.isEmpty))
    && s.clusters.all (fun kx =>
      kx.2.cmds.isEmpty && kx.2.fmts.isEmpty && kx.2.sends.isEmpty && kx.2.walk.isNone)
    && s.port.isEmpty && s.msgs.isEmpty && s.agenda.isEmpty && !s.peerInFlight

/-- The smallest tolerance of the VFs with an enabled ring. -/
def State.tolerance (s : State) : Nat :=
  s.vfs.foldl (fun m v =>
    if ringSizeOk (v.2.sqsize.get 0) || ringSizeOk (v.2.sqsize.get 1) then min m v.2.ltol.toNat else m) (2 ^ 32 - 1)

/-- The deepest depth that a tolerance allows. -/
def depthFor (t : Nat) (peers : Bool) : WakeDepth :=
  if t < 1000 then .w0
  else if t < 20000 || peers then .w1
  else if t < 500000 then .w2
  else .w3

/-- `IDLE_ENTRY`. -/
def execIdleEntry (s : State) : Res :=
  .next (
    if s.idle then
      { s with dev := { s.dev with depth := depthFor s.tolerance (s.dev.peers.any fun e => bit e.2 63) } }
    else s)

/-- `WAKE_FROM_IDLE`. -/
def execWakeFromIdle (s : State) : Res := .next { s with dev := { s.dev with depth := .w0 } }

/-- `POWER_CAP_THROTTLE`: firmware lowers the clocks of the dies in `arg.v`, on KQD8-M14 only. -/
def execPowerCapThrottle (s : State) : Res :=
  .next (if s.dev.m14 then { s with dev := { s.dev with throttled := s.dev.throttled ||| fld s.arg.v 0 8 } } else s)

/-- `THROTTLING_END`. -/
def execThrottlingEnd (s : State) : Res := .next { s with dev := { s.dev with throttled := 0 } }

/-! ## Start-up (R287, R373, R374) -/

/-- The step at which the previous start failed, by the log. -/
def Device.lastFailure (x : Device) : Option (BitVec 4) :=
  match x.bootLog with
  | [] => none
  | (k, r) :: _ => if k = 9 then none else if r = .failed then some k else some (k + 1)

/-- Optional steps (R373). -/
def optionalStep (k : BitVec 4) : Bool := k == 5 || k == 6

/-- The steps in order: `ok` holds the outcome of step k in bit k, and in bits 19:16 the step before whose outcome the start breaks off
(0: none). The log, and the step that failed. -/
def bootSteps (ok : Dword) (skip : List (BitVec 4)) : List (BitVec 4) → List (BitVec 4 × BootOutcome) →
    List (BitVec 4 × BootOutcome) × Option (BitVec 4)
  | [], log => ((9, .passed) :: log, none)
  | k :: r, log =>
    if fld ok 16 4 = k then (log, some k)
    else if skip.contains k then bootSteps ok skip r ((k, .skipped) :: log)
    else if bit ok k.toNat then bootSteps ok skip r ((k, .passed) :: log)
    else ((k, .failed) :: log, some k)

/-- Slot 15 of every core runs the movement firmware. -/
def movementSlots : Sparse Slot :=
  allDies.flatMap fun d => (clustersOf d).flatMap fun cl => (List.range 8).map fun k =>
    (Coord.key { die := d, cluster := cl, core := BitVec.ofNat 3 k, slot := 15 },
     { Slot.reset with live := true, fw := true })

/-- The device right after a start: what the flash holds stays. -/
def State.restarted (s : State) (x : Device) (ok : Bool) : State :=
  { State.reset with
    steps := s.steps, fresh := s.fresh, focus := s.focus
    mem := { Memory.reset with cells := s.mem.cells.filter fun e => hostBase ≤ e.1 }
    slots := if ok then movementSlots else []
    dev := x }

/-- `POWER_ON_BOOT`: `arg.v` holds the outcome of step k in bit k and the step at which the start breaks off, `arg.n` the device number that firmware assigns. -/
def execPowerOnBoot (s : State) : Res :=
  let x := s.dev
  let last := x.lastFailure
  let skip : List (BitVec 4) := match last with | some k => if optionalStep k then [k] else [] | none => []
  let slotB := match last with | some k => if optionalStep k then x.fwSlotB else !x.fwSlotB | none => x.fwSlotB
  let base : Device := { Device.reset with
    m14 := x.m14, flashIncarn := x.flashIncarn, flashCopy := x.flashCopy, bootLog := x.bootLog, fwSlotB := slotB
    failed := x.failed, skipped := skip }
  .next (
    -- a start for recovery sets `c.incarn` as every start does (R287)
    if x.failed = 3 then
      s.restarted { base with fwSlotB := x.fwSlotB, recovery := true, incarn := x.flashIncarn + 1 } false
    else
      let (log, bad) := bootSteps s.arg.v skip [1, 2, 3, 4, 5, 6, 7, 8] x.bootLog
      let me : BitVec 2 := if slotB then 2 else 1
      let mandatory := match bad with | some k => !optionalStep k | none => false
      let incarn := x.flashIncarn + 1
      let recorded := log.take 8 |>.any fun e => e == (7, .passed)
      let y := { base with
        bootLog := log, incarn := incarn, failed := if mandatory then x.failed ||| me else x.failed &&& ~~~me
        flashIncarn := if recorded && (bad.isNone || bad = some 8) then incarn else x.flashIncarn
        devno := if bad.isNone then BitVec.ofNat 9 s.arg.n else 0, booted := bad.isNone }
      s.restarted y bad.isNone)

/-! ## Errors (R137, R338) -/

/-- The command of a unit that uses an accumulator element. -/
def Cluster.usesElement (cl : Cluster) (die : BitVec 3) (e : Nat) : Option MCmd :=
  match cl.current with
  | some x => if (x.region die).any fun r => r.1 ≤ e && e < r.1 + r.2 then some x else none
  | none => none

/-- `ECC_UNCORRECTABLE` at `arg.ecc`. -/
def execEccUncorrectable (s : State) : Res :=
  .next (
    match s.arg.ecc with
    | none => s
    | some (.word a) => { s with mem := s.mem.setTag a 3 }
    | some (.instructionBlock c b) =>
      s.modCluster c fun cl => { cl with icache := cl.icache.filter fun e => e.1 != b }
    | some (.accumulator u e) =>
      match (s.cluster u).usesElement u.die e with
      | some x => if x.phase = .finished then s else s.cmdOver u x 0x0009
      | none => s)

/-- `AGENT_DEATH_POISON`: the cluster `arg.c` dies; lines of which it holds the only modified copy are poisoned, and of its clean PRIVATE
lines the home's bytes stand (R137, log 74). A cluster without a cache-mode bank holds no copy, and nothing of it is lost. -/
def execAgentDeathPoison (s : State) : Res :=
  let cl := s.arg.c.clusterKey
  let priv := s.mem.owner.filterMap fun e => if e.2 = cl then some e.1 else none
  let dirty := s.mem.dirty.filterMap fun e => if e.2 = cl then some e.1 else none
  let lost := priv.foldl (fun m l => m.dropPrivate l) s.mem
  let lost := dirty.foldl (fun m l => (m.uncache l).poisonLine l) lost
  .next { s with mem := if s.caches cl then lost else priv.foldl (fun m l => m.publish l) s.mem }

/-- `SHARED_LINE_DROP`: the cluster `arg.c` drops its clean copy of the line `arg.n`; the directory keeps listing it. -/
def execSharedLineDrop (s : State) : Res :=
  let cl := s.arg.c.clusterKey
  let l := s.arg.n
  .next (
    if s.mem.dirty.find? l = some cl then s
    else { s with mem := { s.mem with copies := s.mem.copies.set l ((s.mem.copies.get l []).filter (· != cl)) } })

end Sys2Proof.Machine
end

