-- ==== Sys2Proof/Machine/Vector.lean ====
section
/-! DEFINITION. Vector arithmetic, compares, transcendentals, reductions, permutes, conversions, tables, integer forms and
moves (R113 to R125). -/
namespace Sys2Proof.Machine

/-! ## Arithmetic (R113, R114) -/

/-- vD.e[i] := f(vA.e[i], vB.e[i]) on a float type. -/
def State.fp2 (s : State) (d a b : BitVec 5) (k : BitVec 3) (t : BitVec 4) (f : Fmt → Fp → Fp → FRes) : State :=
  s.vecOp d k t fun i => f (fmtOf t) (fpOf t (s.el t a i)) (fpOf t (s.el t b i))

def execVadd (d a b : BitVec 5) (k : BitVec 3) (m : BitVec 2) (t : BitVec 4) (s : State) : Res :=
  .next (s.fp2 d a b k t fun f x y => f.add m x y)
def execVsub (d a b : BitVec 5) (k : BitVec 3) (m : BitVec 2) (t : BitVec 4) (s : State) : Res :=
  .next (s.fp2 d a b k t fun f x y => f.add m x y.neg)
def execVmul (d a b : BitVec 5) (k : BitVec 3) (m : BitVec 2) (t : BitVec 4) (s : State) : Res :=
  .next (s.fp2 d a b k t fun f x y => f.mul m x y)
def execVdiv (d a b : BitVec 5) (k : BitVec 3) (m : BitVec 2) (t : BitVec 4) (s : State) : Res :=
  .next (s.fp2 d a b k t fun f x y => f.div m x y)

/-- ± d ± a × b rounded once (R114): `np` negates the product, `nd` the addend. -/
def State.fmaOp (s : State) (d a b : BitVec 5) (k : BitVec 3) (m : BitVec 2) (t : BitVec 4) (np nd : Bool) : State :=
  s.vecOp d k t fun i =>
    let x := fpOf t (s.el t a i)
    let z := fpOf t (s.el t d i)
    (fmtOf t).fma m (if np then x.neg else x) (fpOf t (s.el t b i)) (if nd then z.neg else z)

def execVfma (d a b : BitVec 5) (k : BitVec 3) (m : BitVec 2) (t : BitVec 4) (s : State) : Res :=
  .next (s.fmaOp d a b k m t false false)
def execVfms (d a b : BitVec 5) (k : BitVec 3) (m : BitVec 2) (t : BitVec 4) (s : State) : Res :=
  .next (s.fmaOp d a b k m t true false)
def execVfnma (d a b : BitVec 5) (k : BitVec 3) (m : BitVec 2) (t : BitVec 4) (s : State) : Res :=
  .next (s.fmaOp d a b k m t true true)
def execVfnms (d a b : BitVec 5) (k : BitVec 3) (m : BitVec 2) (t : BitVec 4) (s : State) : Res :=
  .next (s.fmaOp d a b k m t false true)

/-! ## Minimum, maximum, absolute value, negation (R115) -/

/-- Minimum or maximum of two elements of any type. -/
def minMaxEl (t : BitVec 4) (max : Bool) (x y : Nat) : FRes :=
  if tyFloat t then (fmtOf t).minMax max x y
  else
    let w := elemWidth t
    let lt := intOf (tySigned t) w y < intOf (tySigned t) w x
    (if lt != max then y else x, 0)

/-- Clears the sign, or |x| modulo 2^w. -/
def absEl (t : BitVec 4) (x : Nat) : Nat :=
  let w := elemWidth t
  if tyFloat t then x % 2 ^ (w - 1) else if tySigned t then wrapInt w (intOf true w x).natAbs else x

/-- Inverts the sign, or (−x) modulo 2^w. -/
def negEl (t : BitVec 4) (x : Nat) : Nat :=
  let w := elemWidth t
  if tyFloat t then x ^^^ 2 ^ (w - 1) else wrapInt w (-(x : Int))

def execVmin (d a b : BitVec 5) (k : BitVec 3) (t : BitVec 4) (s : State) : Res :=
  .next (s.vecOp d k t fun i => minMaxEl t false (s.el t a i) (s.el t b i))
def execVmax (d a b : BitVec 5) (k : BitVec 3) (t : BitVec 4) (s : State) : Res :=
  .next (s.vecOp d k t fun i => minMaxEl t true (s.el t a i) (s.el t b i))
def execVabs (d a : BitVec 5) (k : BitVec 3) (t : BitVec 4) (s : State) : Res :=
  .next (s.vecOp d k t fun i => (absEl t (s.el t a i), 0))
def execVneg (d a : BitVec 5) (k : BitVec 3) (t : BitVec 4) (s : State) : Res :=
  .next (s.vecOp d k t fun i => (negEl t (s.el t a i), 0))

/-! ## Compares (R116) -/

/-- Equality and order of two elements, and whether one is a signalling NaN. -/
def cmpEl (t : BitVec 4) (f : Fp → Fp → Bool) (g : Int → Int → Bool) (x y : Nat) : Bool × BitVec 16 :=
  if tyFloat t then
    let a := fpOf t x
    let b := fpOf t y
    (f a b, if a.isSnan || b.isSnan then flInvalid else 0)
  else (g (intOf (tySigned t) (elemWidth t) x) (intOf (tySigned t) (elemWidth t) y), 0)

/-- kD[i] := condition for each active element, 0 elsewhere. -/
def State.vcmp (s : State) (d : BitVec 3) (a b : BitVec 5) (k : BitVec 3) (t : BitVec 4)
    (f : Fp → Fp → Bool) (g : Int → Int → Bool) : State :=
  let r (i : Nat) := cmpEl t f g (s.el t a i) (s.el t b i)
  let idx := active (elemCount t) (s.rk k)
  let bits := idx.foldl (fun x i => x + if (r i).1 then 2 ^ i else 0) 0
  let fl := idx.foldl (fun x i => x ||| (r i).2) (0 : BitVec 16)
  ((s.wk d (BitVec.ofNat 64 bits)).advance 4).raise fl

def execVcmpEq (d : BitVec 3) (a b : BitVec 5) (k : BitVec 3) (t : BitVec 4) (s : State) : Res :=
  .next (s.vcmp d a b k t Fp.eq (· == ·))
def execVcmpNe (d : BitVec 3) (a b : BitVec 5) (k : BitVec 3) (t : BitVec 4) (s : State) : Res :=
  .next (s.vcmp d a b k t (fun x y => !x.eq y) (· != ·))
def execVcmpLt (d : BitVec 3) (a b : BitVec 5) (k : BitVec 3) (t : BitVec 4) (s : State) : Res :=
  .next (s.vcmp d a b k t Fp.lt fun x y => x < y)
def execVcmpLe (d : BitVec 3) (a b : BitVec 5) (k : BitVec 3) (t : BitVec 4) (s : State) : Res :=
  .next (s.vcmp d a b k t (fun x y => x.lt y || x.eq y) fun x y => x ≤ y)
def execVcmpUn (d : BitVec 3) (a b : BitVec 5) (k : BitVec 3) (t : BitVec 4) (s : State) : Res :=
  .next (s.vcmp d a b k t (fun x y => x.isNan || y.isNan) fun _ _ => false)

/-! ## Transcendentals (R117) -/

def State.fp1 (s : State) (d a : BitVec 5) (k : BitVec 3) (t : BitVec 4) (f : Fmt → Fp → FRes) : State :=
  s.vecOp d k t fun i => f (fmtOf t) (fpOf t (s.el t a i))

def execVexp2 (d a : BitVec 5) (k : BitVec 3) (m : BitVec 2) (t : BitVec 4) (s : State) : Res :=
  .next (s.fp1 d a k t fun f x => f.exp2 m x)
def execVlog2 (d a : BitVec 5) (k : BitVec 3) (m : BitVec 2) (t : BitVec 4) (s : State) : Res :=
  .next (s.fp1 d a k t fun f x => f.log2 m x)
def execVrcp (d a : BitVec 5) (k : BitVec 3) (m : BitVec 2) (t : BitVec 4) (s : State) : Res :=
  .next (s.fp1 d a k t fun f x => f.rcp m x)
def execVrsq (d a : BitVec 5) (k : BitVec 3) (m : BitVec 2) (t : BitVec 4) (s : State) : Res :=
  .next (s.fp1 d a k t fun f x => f.rsq m x)

/-! ## Reductions (R118) -/

/-- A fold of results that gathers flags. -/
def foldFl (f : Nat → Nat → FRes) (acc : FRes) : List Nat → FRes
  | [] => acc
  | x :: r =>
    let y := f acc.1 x
    foldFl f (y.1, acc.2 ||| y.2) r

/-- The float sum: one FP32 rounding per step, then one to T. A NaN sum reports NaN produced once more in T. -/
def vrsumFp (t : BitVec 4) (S : List Nat) : FRes :=
  let wide (x : Nat) : FRes := fp32.ofFp 0 (fpOf t x)
  match S with
  | [] => (0, 0)
  | x :: r =>
    let w0 := wide x
    let acc := foldFl (fun a y =>
      let w := wide y
      let z := fp32.add 0 (fp32.decode a) (fp32.decode w.1)
      (z.1, w.2 ||| z.2)) w0 r
    if t = 0 then acc
    else
      let y := (fmtOf t).ofFp 0 (fp32.decode acc.1)
      (y.1, acc.2 ||| y.2)

/-- Maximum or minimum of float elements, NaNs ignored unless all are (R118). -/
def vrExtFp (t : BitVec 4) (max abs : Bool) (S : List Nat) : FRes :=
  let f := fmtOf t
  let val (x : Nat) : Nat := if abs then x % f.signBit else x
  let inv : BitVec 16 := if S.any fun x => (fpOf t x).isSnan then flInvalid else 0
  match S.filter fun x => !(fpOf t x).isNan with
  | [] => (f.nan, flNan ||| inv)
  | x :: r => (r.foldl (fun a y => (f.minMax max a (val y)).1) (val x), inv)

/-- The value of a reduction of the active elements. -/
def reduce (fn : Nat) (t : BitVec 4) (S : List Nat) : FRes :=
  let w := elemWidth t
  let sg := tySigned t
  if tyFloat t then
    let f := fmtOf t
    if S.isEmpty then (if fn = 1 then f.signBit + f.inf else if fn = 2 then f.inf else 0, 0)
    else if fn = 0 then vrsumFp t S
    else if fn = 1 then vrExtFp t true false S
    else if fn = 2 then vrExtFp t false false S
    else vrExtFp t true true S
  else if S.isEmpty then
    (if fn = 1 then wrapInt w (intMin sg w) else if fn = 2 then wrapInt w (intMax sg w) else 0, 0)
  else if fn = 0 then (S.foldl (· + ·) 0 % 2 ^ w, 0)
  else if fn = 1 then (S.foldl (fun a x => (minMaxEl t true a x).1) (S.headD 0), 0)
  else if fn = 2 then (S.foldl (fun a x => (minMaxEl t false a x).1) (S.headD 0), 0)
  else ((S.map (absEl t)).foldl max 0, 0)

/-- Element 0 of vD gets the value, every other element 0. -/
def State.reduceOp (s : State) (fn : Nat) (d a : BitVec 5) (k : BitVec 3) (t : BitVec 4) : State :=
  let r := reduce fn t ((active (elemCount t) (s.rk k)).map (s.el t a))
  ((s.wv d (BitVec.ofNat 512 (r.1 % 2 ^ elemWidth t))).advance 4).raise r.2

def execVrsum (d a : BitVec 5) (k : BitVec 3) (t : BitVec 4) (s : State) : Res := .next (s.reduceOp 0 d a k t)
def execVrmax (d a : BitVec 5) (k : BitVec 3) (t : BitVec 4) (s : State) : Res := .next (s.reduceOp 1 d a k t)
def execVrmin (d a : BitVec 5) (k : BitVec 3) (t : BitVec 4) (s : State) : Res := .next (s.reduceOp 2 d a k t)
def execVramax (d a : BitVec 5) (k : BitVec 3) (t : BitVec 4) (s : State) : Res := .next (s.reduceOp 3 d a k t)

/-! ## Permutes (R119) -/

/-- Active elements are moved as bit patterns. -/
def State.permOp (s : State) (d : BitVec 5) (k : BitVec 3) (t : BitVec 4) (f : Nat → Nat) : State :=
  s.vecOp d k t fun i => (f i, 0)

def execVperm (d a b : BitVec 5) (k : BitVec 3) (t : BitVec 4) (s : State) : Res :=
  .next (s.permOp d k t fun i => s.el t a (s.el t b i % elemCount t))
def execVbcst (d a n : BitVec 5) (k : BitVec 3) (t : BitVec 4) (s : State) : Res :=
  .next (s.permOp d k t fun _ => s.el t a n.toNat)
def execVshup (d a n : BitVec 5) (k : BitVec 3) (t : BitVec 4) (s : State) : Res :=
  .next (s.permOp d k t fun i => if n.toNat ≤ i then s.el t a (i - n.toNat) else 0)
def execVshdn (d a n : BitVec 5) (k : BitVec 3) (t : BitVec 4) (s : State) : Res :=
  .next (s.permOp d k t fun i => if i + n.toNat < elemCount t then s.el t a (i + n.toNat) else 0)
def execVzip (d a b : BitVec 5) (k : BitVec 3) (t : BitVec 4) (s : State) : Res :=
  .next (s.permOp d k t fun i => if i % 2 = 0 then s.el t a (i / 2) else s.el t b ((i - 1) / 2))
def execVunzip (d a b : BitVec 5) (k : BitVec 3) (t : BitVec 4) (s : State) : Res :=
  .next (s.permOp d k t fun i =>
    if i < elemCount t / 2 then s.el t a (2 * i) else s.el t b (2 * i - elemCount t))

/-! ## Conversions (R120) -/

/-- One element from type `S` to type `T`. -/
def cvtEl (S T : BitVec 4) (m : RMode) (x : Nat) : FRes :=
  let w := elemWidth T
  if S = T then (x, 0)
  else if tyFloat S then
    if tyFloat T then (fmtOf T).ofFp m (fpOf S x)
    else fpToInt m (tySigned T) w (fpOf S x)
  else
    let v := intOf (tySigned S) (elemWidth S) x
    if tyFloat T then (fmtOf T).ofInt m v
    else
      let (c, clamped) := clampInt (tySigned T) w v
      (wrapInt w c, if clamped then flSat else 0)

/-- `vcvt`: m elements are converted, and the elements of vD above them become 0. -/
def execVcvt (d a S : BitVec 5) (k : BitVec 3) (m : BitVec 2) (t : BitVec 4) (s : State) : Res :=
  let src := S.setWidth 4
  let n := elemCount t
  let cnt := min n (elemCount src)
  let w := elemWidth t
  let mask := s.rk k
  let r := (List.range n).map fun i =>
    if cnt ≤ i then (0, 0)
    else if bit mask i then cvtEl src t m (s.el src a i)
    else (s.el t d i, (0 : BitVec 16))
  .next (((s.wv d (pack w (r.map (·.1)))).advance 4).raise (r.foldl (fun x y => x ||| y.2) 0))

/-! ## Tables (R121, R122) -/

/-- Table A or B of the current slot's core. -/
def State.table (s : State) (x : BitVec 1) : DTable := if x = 0 then (s.core s.cur).tabA else (s.core s.cur).tabB

/-- Byte `i` of a register. -/
def byteOf (v : VReg) (i : Nat) : Nat := lane 8 v i

/-- `dec8` in an element's format (R121). -/
def decEl (t : BitVec 4) (e : BitVec 19) : FRes :=
  if t = 0 then (e.toNat * 2 ^ 13, 0)
  else
    match e8m10.decode e.toNat with
    | .nan _ => ((fmtOf t).nan, 0)
    | x => (fmtOf t).ofFp 0 x

def execVdec (d a : BitVec 5) (x : BitVec 1) (k : BitVec 3) (t : BitVec 4) (s : State) : Res :=
  let tab := s.table x
  .next (s.vecOp d k t fun i => decEl t (tab.get (BitVec.ofNat 8 (byteOf (s.rv a) i))))

/-- The byte of `c.tnan` for a table (R109). -/
def tnanByte (tn : BitVec 16) (x : BitVec 1) : Byte := if x = 0 then fld tn 0 8 else fld tn 8 8

def execVenc (d a : BitVec 5) (x : BitVec 1) (k : BitVec 3) (t : BitVec 4) (s : State) : Res :=
  let tab := s.table x
  let n := elemCount t
  let mask := s.rk k
  let r := (List.range 64).map fun i =>
    if i < n && bit mask i then
      let e := enc8 tab (tnanByte s.me.tnan x) (fpOf t (s.el t a i))
      (e.1.toNat, e.2)
    else (byteOf (s.rv d) i, (0 : BitVec 16))
  .next (((s.wv d (pack 8 (r.map (·.1)))).advance 4).raise (r.foldl (fun x y => x ||| y.2) 0))

/-! ## Integer forms (R124) -/

/-- vD.e[i] := f(vA.e[i], vB.e[i]) on bit patterns. -/
def State.int2 (s : State) (d a b : BitVec 5) (k : BitVec 3) (t : BitVec 4) (f : Nat → Nat → Nat → FRes) : State :=
  s.vecOp d k t fun i => f (elemWidth t) (s.el t a i) (s.el t b i)

/-- A clamped sum or difference. -/
def satEl (t : BitVec 4) (w : Nat) (v : Int) : FRes :=
  let (c, clamped) := clampInt (tySigned t) w v
  (wrapInt w c, if clamped then flSat else 0)

def execViadd (d a b : BitVec 5) (k : BitVec 3) (t : BitVec 4) (s : State) : Res :=
  .next (s.int2 d a b k t fun w x y => ((x + y) % 2 ^ w, 0))
def execVisub (d a b : BitVec 5) (k : BitVec 3) (t : BitVec 4) (s : State) : Res :=
  .next (s.int2 d a b k t fun w x y => (wrapInt w ((x : Int) - y), 0))
def execVimul (d a b : BitVec 5) (k : BitVec 3) (t : BitVec 4) (s : State) : Res :=
  .next (s.int2 d a b k t fun w x y => (x * y % 2 ^ w, 0))
def execVimulh (d a b : BitVec 5) (k : BitVec 3) (t : BitVec 4) (s : State) : Res :=
  .next (s.int2 d a b k t fun w x y =>
    (wrapInt w (intOf (tySigned t) w x * intOf (tySigned t) w y / (2 ^ w : Nat)), 0))
def execViand (d a b : BitVec 5) (k : BitVec 3) (t : BitVec 4) (s : State) : Res :=
  .next (s.int2 d a b k t fun _ x y => (x &&& y, 0))
def execVior (d a b : BitVec 5) (k : BitVec 3) (t : BitVec 4) (s : State) : Res :=
  .next (s.int2 d a b k t fun _ x y => (x ||| y, 0))
def execVixor (d a b : BitVec 5) (k : BitVec 3) (t : BitVec 4) (s : State) : Res :=
  .next (s.int2 d a b k t fun _ x y => (x ^^^ y, 0))
def execVisll (d a b : BitVec 5) (k : BitVec 3) (t : BitVec 4) (s : State) : Res :=
  .next (s.int2 d a b k t fun w x y => (if w ≤ y then 0 else x * 2 ^ y % 2 ^ w, 0))
def execVisrl (d a b : BitVec 5) (k : BitVec 3) (t : BitVec 4) (s : State) : Res :=
  .next (s.int2 d a b k t fun w x y => (if w ≤ y then 0 else x / 2 ^ y, 0))
def execVisra (d a b : BitVec 5) (k : BitVec 3) (t : BitVec 4) (s : State) : Res :=
  .next (s.int2 d a b k t fun w x y => (wrapInt w (intOf true w x / (2 ^ min y w : Nat)), 0))
def execViaddSat (d a b : BitVec 5) (k : BitVec 3) (t : BitVec 4) (s : State) : Res :=
  .next (s.int2 d a b k t fun w x y => satEl t w (intOf (tySigned t) w x + intOf (tySigned t) w y))
def execVisubSat (d a b : BitVec 5) (k : BitVec 3) (t : BitVec 4) (s : State) : Res :=
  .next (s.int2 d a b k t fun w x y => satEl t w (intOf (tySigned t) w x - intOf (tySigned t) w y))

/-! ## Moves (R125) -/

def execVins (d a n : BitVec 5) (t : BitVec 4) (s : State) : Res :=
  let w := elemWidth t
  .next ((s.wv d (pack w ((List.range (elemCount t)).map fun i =>
    if i = n.toNat then (s.rg a).toNat % 2 ^ w else s.el t d i))).advance 4)

def execVext (d a n : BitVec 5) (t : BitVec 4) (s : State) : Res :=
  let w := elemWidth t
  let v := BitVec.ofNat 64 (s.el t a n.toNat)
  .next ((s.wg d (if tySigned t then sext v w else zext v w)).advance 4)

def execVsplat (d a : BitVec 5) (k : BitVec 3) (t : BitVec 4) (s : State) : Res :=
  .next (s.permOp d k t fun _ => (s.rg a).toNat % 2 ^ elemWidth t)

end Sys2Proof.Machine
end

