-- ==== Sys2Proof/Machine/Dispatch.lean ====
section
/-! DEFINITION. One arm per constructor of `Instr`: the meaning of each row of spec/opcode_table.json. -/
namespace Sys2Proof.Machine

def exec (i : Instr) (s : State) : Host.Outcome State Fault Refusal :=
  match i with
  | .add d a b p => Sys2Proof.Machine.execAdd d a b p s
  | .sub d a b p => Sys2Proof.Machine.execSub d a b p s
  | .and d a b p => Sys2Proof.Machine.execAnd d a b p s
  | .or d a b p => Sys2Proof.Machine.execOr d a b p s
  | .xor d a b p => Sys2Proof.Machine.execXor d a b p s
  | .andn d a b p => Sys2Proof.Machine.execAndn d a b p s
  | .orn d a b p => Sys2Proof.Machine.execOrn d a b p s
  | .addSat d a b p => Sys2Proof.Machine.execAddSat d a b p s
  | .subSat d a b p => Sys2Proof.Machine.execSubSat d a b p s
  | .addZsat d a b p => Sys2Proof.Machine.execAddZsat d a b p s
  | .subZsat d a b p => Sys2Proof.Machine.execSubZsat d a b p s
  | .mul d a b p => Sys2Proof.Machine.execMul d a b p s
  | .mulh d a b p => Sys2Proof.Machine.execMulh d a b p s
  | .mulhz d a b p => Sys2Proof.Machine.execMulhz d a b p s
  | .mulSat d a b p => Sys2Proof.Machine.execMulSat d a b p s
  | .div d a b p => Sys2Proof.Machine.execDiv d a b p s
  | .divz d a b p => Sys2Proof.Machine.execDivz d a b p s
  | .rem d a b p => Sys2Proof.Machine.execRem d a b p s
  | .remz d a b p => Sys2Proof.Machine.execRemz d a b p s
  | .sll d a b p => Sys2Proof.Machine.execSll d a b p s
  | .srl d a b p => Sys2Proof.Machine.execSrl d a b p s
  | .sra d a b p => Sys2Proof.Machine.execSra d a b p s
  | .ror d a b p => Sys2Proof.Machine.execRor d a b p s
  | .clz d a p => Sys2Proof.Machine.execClz d a p s
  | .ctz d a p => Sys2Proof.Machine.execCtz d a p s
  | .pcnt d a p => Sys2Proof.Machine.execPcnt d a p s
  | .brev d a p => Sys2Proof.Machine.execBrev d a p s
  | .bswap d a p => Sys2Proof.Machine.execBswap d a p s
  | .cmpEq d a b p => Sys2Proof.Machine.execCmpEq d a b p s
  | .cmpNe d a b p => Sys2Proof.Machine.execCmpNe d a b p s
  | .cmpLt d a b p => Sys2Proof.Machine.execCmpLt d a b p s
  | .cmpGe d a b p => Sys2Proof.Machine.execCmpGe d a b p s
  | .cmpLtu d a b p => Sys2Proof.Machine.execCmpLtu d a b p s
  | .cmpGeu d a b p => Sys2Proof.Machine.execCmpGeu d a b p s
  | .kand d a b p => Sys2Proof.Machine.execKand d a b p s
  | .kor d a b p => Sys2Proof.Machine.execKor d a b p s
  | .kxor d a b p => Sys2Proof.Machine.execKxor d a b p s
  | .kandn d a b p => Sys2Proof.Machine.execKandn d a b p s
  | .kmov d a p => Sys2Proof.Machine.execKmov d a p s
  | .gtok d a p => Sys2Proof.Machine.execGtok d a p s
  | .ktog d a p => Sys2Proof.Machine.execKtog d a p s
  | .sel d a b t0 => Sys2Proof.Machine.execSel d a b t0 s
  | .sext8 d a p => Sys2Proof.Machine.execSext8 d a p s
  | .sext16 d a p => Sys2Proof.Machine.execSext16 d a p s
  | .sext32 d a p => Sys2Proof.Machine.execSext32 d a p s
  | .zext8 d a p => Sys2Proof.Machine.execZext8 d a p s
  | .zext16 d a p => Sys2Proof.Machine.execZext16 d a p s
  | .zext32 d a p => Sys2Proof.Machine.execZext32 d a p s
  | .mkptr d a n p => Sys2Proof.Machine.execMkptr d a n p s
  | .setp d a p => Sys2Proof.Machine.execSetp d a p s
  | .clrp d a p => Sys2Proof.Machine.execClrp d a p s
  | .addi d a imm => Sys2Proof.Machine.execAddi d a imm s
  | .andi d a imm => Sys2Proof.Machine.execAndi d a imm s
  | .ori d a imm => Sys2Proof.Machine.execOri d a imm s
  | .xori d a imm => Sys2Proof.Machine.execXori d a imm s
  | .slli d a n => Sys2Proof.Machine.execSlli d a n s
  | .srli d a n => Sys2Proof.Machine.execSrli d a n s
  | .srai d a n => Sys2Proof.Machine.execSrai d a n s
  | .rori d a n => Sys2Proof.Machine.execRori d a n s
  | .cmpiEq k a imm => Sys2Proof.Machine.execCmpiEq k a imm s
  | .cmpiNe k a imm => Sys2Proof.Machine.execCmpiNe k a imm s
  | .cmpiLt k a imm => Sys2Proof.Machine.execCmpiLt k a imm s
  | .cmpiGe k a imm => Sys2Proof.Machine.execCmpiGe k a imm s
  | .movhi d imm => Sys2Proof.Machine.execMovhi d imm s
  | .movw d imm => Sys2Proof.Machine.execMovw d imm s
  | .bc k t0 d => Sys2Proof.Machine.execBc k t0 d s
  | .call k t0 d => Sys2Proof.Machine.execCall k t0 d s
  | .nop => Sys2Proof.Machine.execNop s
  | .jr a p => Sys2Proof.Machine.execJr a p s
  | .callr a p => Sys2Proof.Machine.execCallr a p s
  | .repf l c t0 t => Sys2Proof.Machine.execRepf l c t0 t s
  | .ralign n => Sys2Proof.Machine.execRalign n s
  | .exit => Sys2Proof.Machine.execExit s
  | .yield => Sys2Proof.Machine.execYield s
  | .ld d a z q f => Sys2Proof.Machine.execLd d a z q f s
  | .st d a z q f => Sys2Proof.Machine.execSt d a z q f s
  | .ldf d a z f => Sys2Proof.Machine.execLdf d a z f s
  | .ste d a z f => Sys2Proof.Machine.execSte d a z f s
  | .aswp d a b t o => Sys2Proof.Machine.execAswp d a b t o s
  | .aadd d a b t o => Sys2Proof.Machine.execAadd d a b t o s
  | .aand d a b t o => Sys2Proof.Machine.execAand d a b t o s
  | .aor d a b t o => Sys2Proof.Machine.execAor d a b t o s
  | .axor d a b t o => Sys2Proof.Machine.execAxor d a b t o s
  | .amin d a b t o => Sys2Proof.Machine.execAmin d a b t o s
  | .amax d a b t o => Sys2Proof.Machine.execAmax d a b t o s
  | .aminu d a b t o => Sys2Proof.Machine.execAminu d a b t o s
  | .amaxu d a b t o => Sys2Proof.Machine.execAmaxu d a b t o s
  | .cas d a b t o => Sys2Proof.Machine.execCas d a b t o s
  | .vld d a q f => Sys2Proof.Machine.execVld d a q f s
  | .vst d a q f => Sys2Proof.Machine.execVst d a q f s
  | .vldMasked d a k t => Sys2Proof.Machine.execVldMasked d a k t s
  | .vstMasked d a k t => Sys2Proof.Machine.execVstMasked d a k t s
  | .vgather d a b k t => Sys2Proof.Machine.execVgather d a b k t s
  | .vscatter d a b k t => Sys2Proof.Machine.execVscatter d a b k t s
  | .vaadd a b k t => Sys2Proof.Machine.execVaadd a b k t s
  | .vamin a b k t => Sys2Proof.Machine.execVamin a b k t s
  | .vamax a b k t => Sys2Proof.Machine.execVamax a b k t s
  | .vaand a b k t => Sys2Proof.Machine.execVaand a b k t s
  | .vaor a b k t => Sys2Proof.Machine.execVaor a b k t s
  | .vaxor a b k t => Sys2Proof.Machine.execVaxor a b k t s
  | .fence k c => Sys2Proof.Machine.execFence k c s
  | .pub a b => Sys2Proof.Machine.execPub a b s
  | .zline a => Sys2Proof.Machine.execZline a s
  | .flush a => Sys2Proof.Machine.execFlush a s
  | .pref a => Sys2Proof.Machine.execPref a s
  | .ldk d a q f => Sys2Proof.Machine.execLdk d a q f s
  | .vadd d a b k m t => Sys2Proof.Machine.execVadd d a b k m t s
  | .vsub d a b k m t => Sys2Proof.Machine.execVsub d a b k m t s
  | .vmul d a b k m t => Sys2Proof.Machine.execVmul d a b k m t s
  | .vdiv d a b k m t => Sys2Proof.Machine.execVdiv d a b k m t s
  | .vfma d a b k m t => Sys2Proof.Machine.execVfma d a b k m t s
  | .vfms d a b k m t => Sys2Proof.Machine.execVfms d a b k m t s
  | .vfnma d a b k m t => Sys2Proof.Machine.execVfnma d a b k m t s
  | .vfnms d a b k m t => Sys2Proof.Machine.execVfnms d a b k m t s
  | .vmin d a b k t => Sys2Proof.Machine.execVmin d a b k t s
  | .vmax d a b k t => Sys2Proof.Machine.execVmax d a b k t s
  | .vabs d a k t => Sys2Proof.Machine.execVabs d a k t s
  | .vneg d a k t => Sys2Proof.Machine.execVneg d a k t s
  | .vcmpEq d a b k t => Sys2Proof.Machine.execVcmpEq d a b k t s
  | .vcmpNe d a b k t => Sys2Proof.Machine.execVcmpNe d a b k t s
  | .vcmpLt d a b k t => Sys2Proof.Machine.execVcmpLt d a b k t s
  | .vcmpLe d a b k t => Sys2Proof.Machine.execVcmpLe d a b k t s
  | .vcmpUn d a b k t => Sys2Proof.Machine.execVcmpUn d a b k t s
  | .vexp2 d a k m t => Sys2Proof.Machine.execVexp2 d a k m t s
  | .vlog2 d a k m t => Sys2Proof.Machine.execVlog2 d a k m t s
  | .vrcp d a k m t => Sys2Proof.Machine.execVrcp d a k m t s
  | .vrsq d a k m t => Sys2Proof.Machine.execVrsq d a k m t s
  | .vrsum d a k t => Sys2Proof.Machine.execVrsum d a k t s
  | .vrmax d a k t => Sys2Proof.Machine.execVrmax d a k t s
  | .vrmin d a k t => Sys2Proof.Machine.execVrmin d a k t s
  | .vramax d a k t => Sys2Proof.Machine.execVramax d a k t s
  | .vperm d a b k t => Sys2Proof.Machine.execVperm d a b k t s
  | .vbcst d a n k t => Sys2Proof.Machine.execVbcst d a n k t s
  | .vshup d a n k t => Sys2Proof.Machine.execVshup d a n k t s
  | .vshdn d a n k t => Sys2Proof.Machine.execVshdn d a n k t s
  | .vzip d a b k t => Sys2Proof.Machine.execVzip d a b k t s
  | .vunzip d a b k t => Sys2Proof.Machine.execVunzip d a b k t s
  | .vcvt d a t0 k m t => Sys2Proof.Machine.execVcvt d a t0 k m t s
  | .vdec d a x k t => Sys2Proof.Machine.execVdec d a x k t s
  | .venc d a x k t => Sys2Proof.Machine.execVenc d a x k t s
  | .dtload x a => Sys2Proof.Machine.execDtload x a s
  | .viadd d a b k t => Sys2Proof.Machine.execViadd d a b k t s
  | .visub d a b k t => Sys2Proof.Machine.execVisub d a b k t s
  | .vimul d a b k t => Sys2Proof.Machine.execVimul d a b k t s
  | .vimulh d a b k t => Sys2Proof.Machine.execVimulh d a b k t s
  | .viand d a b k t => Sys2Proof.Machine.execViand d a b k t s
  | .vior d a b k t => Sys2Proof.Machine.execVior d a b k t s
  | .vixor d a b k t => Sys2Proof.Machine.execVixor d a b k t s
  | .visll d a b k t => Sys2Proof.Machine.execVisll d a b k t s
  | .visrl d a b k t => Sys2Proof.Machine.execVisrl d a b k t s
  | .visra d a b k t => Sys2Proof.Machine.execVisra d a b k t s
  | .viaddSat d a b k t => Sys2Proof.Machine.execViaddSat d a b k t s
  | .visubSat d a b k t => Sys2Proof.Machine.execVisubSat d a b k t s
  | .vins d a n t => Sys2Proof.Machine.execVins d a n t s
  | .vext d a n t => Sys2Proof.Machine.execVext d a n t s
  | .vsplat d a k t => Sys2Proof.Machine.execVsplat d a k t s
  | .mxfmt a b => Sys2Proof.Machine.execMxfmt a b s
  | .mzero a => Sys2Proof.Machine.execMzero a s
  | .mma a => Sys2Proof.Machine.execMma a s
  | .mmac a => Sys2Proof.Machine.execMmac a s
  | .mdrain a b => Sys2Proof.Machine.execMdrain a b s
  | .mbsend n a k => Sys2Proof.Machine.execMbsend n a k s
  | .mbtake d n k => Sys2Proof.Machine.execMbtake d n k s
  | .capp n a => Sys2Proof.Machine.execCapp n a s
  | .cadv n => Sys2Proof.Machine.execCadv n s
  | .waittl n a => Sys2Proof.Machine.execWaittl n a s
  | .waitlc n a => Sys2Proof.Machine.execWaitlc n a s
  | .waitm a => Sys2Proof.Machine.execWaitm a s
  | .karr n => Sys2Proof.Machine.execKarr n s
  | .kwait n => Sys2Proof.Machine.execKwait n s
  | .karrw n => Sys2Proof.Machine.execKarrw n s
  | .swexp a b => Sys2Proof.Machine.execSwexp a b s
  | .swadd a b => Sys2Proof.Machine.execSwadd a b s
  | .swwait a b => Sys2Proof.Machine.execSwwait a b s
  | .jadd c a b => Sys2Proof.Machine.execJadd c a b s
  | .enq a b k => Sys2Proof.Machine.execEnq a b k s
  | .deq d a k => Sys2Proof.Machine.execDeq d a k s
  | .tspawn a k => Sys2Proof.Machine.execTspawn a k s
  | .hstart d a b => Sys2Proof.Machine.execHstart d a b s
  | .hjoin a => Sys2Proof.Machine.execHjoin a s
  | .cut a => Sys2Proof.Machine.execCut a s
  | .ply d a => Sys2Proof.Machine.execPly d a s
  | .alw d => Sys2Proof.Machine.execAlw d s
  | .skfind d a => Sys2Proof.Machine.execSkfind d a s
  | .skrel a => Sys2Proof.Machine.execSkrel a s
  | .skflush a => Sys2Proof.Machine.execSkflush a s
  | .skpin a => Sys2Proof.Machine.execSkpin a s
  | .shsend a b k => Sys2Proof.Machine.execShsend a b k s
  | .shrecv d k => Sys2Proof.Machine.execShrecv d k s
  | .shpermit a => Sys2Proof.Machine.execShpermit a s
  | .amsg a b => Sys2Proof.Machine.execAmsg a b s
  | .trap n => Sys2Proof.Machine.execTrap n s
  | .eret => Sys2Proof.Machine.execEret s
  | .halt => Sys2Proof.Machine.execHalt s
  | .brk => Sys2Proof.Machine.execBrk s
  | .csrr d c => Sys2Proof.Machine.execCsrr d c s
  | .csrw a c => Sys2Proof.Machine.execCsrw a c s
  | .segw n a b => Sys2Proof.Machine.execSegw n a b s
  | .ptbw a b => Sys2Proof.Machine.execPtbw a b s
  | .invt a => Sys2Proof.Machine.execInvt a s
  | .wake a => Sys2Proof.Machine.execWake a s
  | .rndk d a b => Sys2Proof.Machine.execRndk d a b s
  | .clkr d => Sys2Proof.Machine.execClkr d s
  | .ximm x follower => Sys2Proof.Machine.execXimm x follower s
  | .enop => Sys2Proof.Machine.execEnop s
  | .emul d a b => Sys2Proof.Machine.execEmul d a b s
  | .eadd d a b => Sys2Proof.Machine.execEadd d a b s
  | .escl d a imm => Sys2Proof.Machine.execEscl d a imm s
  | .ebias d a imm => Sys2Proof.Machine.execEbias d a imm s
  | .etab d a imm => Sys2Proof.Machine.execEtab d a imm s
  | .eclmp d a b => Sys2Proof.Machine.execEclmp d a b s
  | .ecvt d a f => Sys2Proof.Machine.execEcvt d a f s
  | .emax d a b => Sys2Proof.Machine.execEmax d a b s
  | .emin d a b => Sys2Proof.Machine.execEmin d a b s
  | .eabsmax d a => Sys2Proof.Machine.execEabsmax d a s
  | .eflag c a b => Sys2Proof.Machine.execEflag c a b s
  | .esel d a b => Sys2Proof.Machine.execEsel d a b s
  | .estore a f => Sys2Proof.Machine.execEstore a f s
  | .eskip imm => Sys2Proof.Machine.execEskip imm s
  | .eend => Sys2Proof.Machine.execEend s
  | .nfswWrite => Sys2Proof.Machine.execNfswWrite s
  | .bankmodeWrite => Sys2Proof.Machine.execBankmodeWrite s
  | .ptbcfgWrite => Sys2Proof.Machine.execPtbcfgWrite s
  | .vmrootWrite => Sys2Proof.Machine.execVmrootWrite s
  | .regionWrite => Sys2Proof.Machine.execRegionWrite s
  | .knotWordWrite => Sys2Proof.Machine.execKnotWordWrite s
  | .shrxWrite => Sys2Proof.Machine.execShrxWrite s
  | .shtxWrite => Sys2Proof.Machine.execShtxWrite s
  | .prdatLostAck => Sys2Proof.Machine.execPrdatLostAck s
  | .fetchBlockDelivery => Sys2Proof.Machine.execFetchBlockDelivery s
  | .yieldReturn => Sys2Proof.Machine.execYieldReturn s
  | .ralignRelease => Sys2Proof.Machine.execRalignRelease s
  | .loadReply => Sys2Proof.Machine.execLoadReply s
  | .storePerform => Sys2Proof.Machine.execStorePerform s
  | .atomicPacketPerform => Sys2Proof.Machine.execAtomicPacketPerform s
  | .postedFaultRecord => Sys2Proof.Machine.execPostedFaultRecord s
  | .faultRecordAppend => Sys2Proof.Machine.execFaultRecordAppend s
  | .shadowServiceStart => Sys2Proof.Machine.execShadowServiceStart s
  | .slotRetire => Sys2Proof.Machine.execSlotRetire s
  | .wakeDelivery => Sys2Proof.Machine.execWakeDelivery s
  | .haltReturn => Sys2Proof.Machine.execHaltReturn s
  | .feWordServe => Sys2Proof.Machine.execFeWordServe s
  | .chainEntryStart => Sys2Proof.Machine.execChainEntryStart s
  | .copyPacket => Sys2Proof.Machine.execCopyPacket s
  | .chainEntryComplete => Sys2Proof.Machine.execChainEntryComplete s
  | .waittlSatisfied => Sys2Proof.Machine.execWaittlSatisfied s
  | .waitlcServe => Sys2Proof.Machine.execWaitlcServe s
  | .waitmReturn => Sys2Proof.Machine.execWaitmReturn s
  | .mxfmtApply => Sys2Proof.Machine.execMxfmtApply s
  | .matrixCommandAccept => Sys2Proof.Machine.execMatrixCommandAccept s
  | .matrixCommandStart => Sys2Proof.Machine.execMatrixCommandStart s
  | .matrixBlockStep => Sys2Proof.Machine.execMatrixBlockStep s
  | .drainElement => Sys2Proof.Machine.execDrainElement s
  | .matrixCommandComplete => Sys2Proof.Machine.execMatrixCommandComplete s
  | .swaddPerform => Sys2Proof.Machine.execSwaddPerform s
  | .swexpPerform => Sys2Proof.Machine.execSwexpPerform s
  | .joinArm => Sys2Proof.Machine.execJoinArm s
  | .jaddPerform => Sys2Proof.Machine.execJaddPerform s
  | .swwaitReturn => Sys2Proof.Machine.execSwwaitReturn s
  | .knotArrival => Sys2Proof.Machine.execKnotArrival s
  | .deviceKnotComplete => Sys2Proof.Machine.execDeviceKnotComplete s
  | .kwaitRelease => Sys2Proof.Machine.execKwaitRelease s
  | .loomTermFire => Sys2Proof.Machine.execLoomTermFire s
  | .launchPortTake => Sys2Proof.Machine.execLaunchPortTake s
  | .launchDistribute => Sys2Proof.Machine.execLaunchDistribute s
  | .skeinEviction => Sys2Proof.Machine.execSkeinEviction s
  | .skeinRestoreComplete => Sys2Proof.Machine.execSkeinRestoreComplete s
  | .directoryPacketApply => Sys2Proof.Machine.execDirectoryPacketApply s
  | .stageMapApply => Sys2Proof.Machine.execStageMapApply s
  | .crewStart => Sys2Proof.Machine.execCrewStart s
  | .retirementNotice => Sys2Proof.Machine.execRetirementNotice s
  | .taskDispatch => Sys2Proof.Machine.execTaskDispatch s
  | .queuePrefetch => Sys2Proof.Machine.execQueuePrefetch s
  | .apportionRecompute => Sys2Proof.Machine.execApportionRecompute s
  | .classPreempt => Sys2Proof.Machine.execClassPreempt s
  | .displacedTaskResume => Sys2Proof.Machine.execDisplacedTaskResume s
  | .loadLevel => Sys2Proof.Machine.execLoadLevel s
  | .strandExpiry => Sys2Proof.Machine.execStrandExpiry s
  | .strandEntryFree => Sys2Proof.Machine.execStrandEntryFree s
  | .cutArrival => Sys2Proof.Machine.execCutArrival s
  | .packetIngress => Sys2Proof.Machine.execPacketIngress s
  | .shuttleSendTransmit => Sys2Proof.Machine.execShuttleSendTransmit s
  | .shuttlePayloadPacket => Sys2Proof.Machine.execShuttlePayloadPacket s
  | .shuttleTrailerWrite => Sys2Proof.Machine.execShuttleTrailerWrite s
  | .shuttleSendComplete => Sys2Proof.Machine.execShuttleSendComplete s
  | .permitArrival => Sys2Proof.Machine.execPermitArrival s
  | .shrecvCopyDone => Sys2Proof.Machine.execShrecvCopyDone s
  | .peerRequestArrival => Sys2Proof.Machine.execPeerRequestArrival s
  | .peerLostAnswer => Sys2Proof.Machine.execPeerLostAnswer s
  | .peerTimeout => Sys2Proof.Machine.execPeerTimeout s
  | .peerPortDown => Sys2Proof.Machine.execPeerPortDown s
  | .activeMessageStart => Sys2Proof.Machine.execActiveMessageStart s
  | .xclusterAccess => Sys2Proof.Machine.execXclusterAccess s
  | .amsgAccept => Sys2Proof.Machine.execAmsgAccept s
  | .walkVisit => Sys2Proof.Machine.execWalkVisit s
  | .walkRootStore => Sys2Proof.Machine.execWalkRootStore s
  | .invtComplete => Sys2Proof.Machine.execInvtComplete s
  | .replyPendingWrite => Sys2Proof.Machine.execReplyPendingWrite s
  | .preemptRequest => Sys2Proof.Machine.execPreemptRequest s
  | .vfSaveComplete => Sys2Proof.Machine.execVfSaveComplete s
  | .resume => Sys2Proof.Machine.execResume s
  | .doorbell => Sys2Proof.Machine.execDoorbell s
  | .vfRegisterWrite => Sys2Proof.Machine.execVfRegisterWrite s
  | .biasFlip => Sys2Proof.Machine.execBiasFlip s
  | .backInvalidationRetry => Sys2Proof.Machine.execBackInvalidationRetry s
  | .spdmRequest => Sys2Proof.Machine.execSpdmRequest s
  | .idleEntry => Sys2Proof.Machine.execIdleEntry s
  | .wakeFromIdle => Sys2Proof.Machine.execWakeFromIdle s
  | .powerCapThrottle => Sys2Proof.Machine.execPowerCapThrottle s
  | .powerOnBoot => Sys2Proof.Machine.execPowerOnBoot s
  | .eccUncorrectable => Sys2Proof.Machine.execEccUncorrectable s
  | .agentDeathPoison => Sys2Proof.Machine.execAgentDeathPoison s
  | .carriedExpiryDrop => Sys2Proof.Machine.execCarriedExpiryDrop s
  | .inboundHostRequest => Sys2Proof.Machine.execInboundHostRequest s
  | .throttlingEnd => Sys2Proof.Machine.execThrottlingEnd s
  | .skflushComplete => Sys2Proof.Machine.execSkflushComplete s
  | .sharedLineDrop => Sys2Proof.Machine.execSharedLineDrop s

end Sys2Proof.Machine
end

