-- ==== Sys2Proof/Machine/Step.lean ====
section
/-! DEFINITION. One step of the module: a turn of the agenda, or a cycle of the core in focus (log 1). -/
namespace Sys2Proof.Machine

/-- Time passes on every die (R244; log 4). -/
def State.ticked (s : State) : State :=
  { s with steps := s.steps + 1, clock := Vector.ofFn fun i => s.clock.get i + Config.tick s.steps i.val }

/-- The current slot issues: fetch, decode, the checks of R45, and the instruction's meaning. A slot that runs the firmware
takes one turn of it (log 13); a landing slot whose task has not started reads its entry and argument (R235, log 29). -/
def issue (s : State) : Res :=
  if s.me.fw then .next s.firmware
  else if s.me.starting.isSome then .next (s.dispatchRead s.cur)
  else
  match s.nextWord s.cur with
  | .error s' => .next s'
  | .ok (w, s1) =>
    match s1.decodeChecks s1.cur w with
    | .error s' => .next s'
    | .ok i => exec i s1

/-- What follows a core's cycle: the counter advances, and the timed holds that are due end (R60, R90, R91). -/
def afterCycle (c : Coord) : Res → Res
  | .next s =>
    let s := s.cycleEnd c
    .next (s.laters (s.timers c))
  | .fault f => .fault f
  | .refused r => .refused r

/-- One cycle of a core (R60): the first eligible slot issues, or nothing does. -/
def cycle (c : Coord) (s : State) : Res :=
  afterCycle c (match s.pick c with
    | none => .next s
    | some n => issue (s.issued c n))

/-- One word of a cluster's epilogue processor (R181, R182; log 22). -/
def epilogueTurn (c : Coord) (s : State) : Res :=
  let s := { s with unit := c }
  let e := (s.cluster c).epi
  if e.ended then .next s
  else
    match decodeEpi ((s.cluster c).epiI.get e.pc 0xF000) with
    | none => .next (s.modCluster c fun x => { x with epi := { e with illegal := true, ended := true } })
    | some i =>
      match exec i s with
      | .next s' => .next (if (s'.cluster c).epi.ended then s' else { s' with agenda := s'.agenda ++ [.epilogue c] })
      | r => r

/-- What the step does, and the state with that turn taken off: what is due by the clock, else the first turn of the
agenda, else a cycle of the core in focus; none where the device is held for recovery (log 1). -/
def State.turn (s : State) : Option (Turn × State) :=
  match s.due, s.agenda with
  | t :: _, _ => some (t, s)
  | [], t :: rest => some (t, { s with agenda := rest })
  | [], [] => if s.dev.recovery then none else some (.cycle s.focus, s)

/-- A turn's effect. -/
def runTurn (t : Turn) (s : State) : Res :=
  match t with
  | .cycle c => cycle c s
  | .epilogue c => epilogueTurn c s
  | .event i a => exec i { s with arg := a }

/-- One step. -/
def step (s : State) : Host.Outcome State Fault Refusal :=
  match s.ticked.turn with
  | some (t, s') => runTurn t s'
  | none => .fault .recovery

/-- The slot that `withFetchWord` runs: slot 0 of the core in focus. -/
def State.placed (s : State) : Coord := s.focus.at 0

/-- A slot that is live in the rotation at offset 0 of a local segment with every right. -/
def Slot.atLocal (x : Slot) : Slot :=
  { x with
    live := true, fw := false, pc := 0, frame := none, hold := none, lastIssue := none, starting := none, cappPos := none
    sg := x.sg.set 0 (BitVec.ofNat 128 ((1 * 2 ^ 60 + 15 * 2 ^ 56 + 2 ^ 16) * 2 ^ 64)) }

/-- The instruction of `nbits` bits `w` stands where the next step fetches: in the core's local memory, or in the
cluster's epilogue image for a 16-bit word (log 12). -/
def State.withFetchWord (s : State) (nbits w : Nat) : State :=
  let c := s.placed
  if nbits ≤ 16 then
    let s := s.modCluster c fun x => { x with epiI := x.epiI.set 0 (BitVec.ofNat 16 w), epi := EpiRun.reset }
    { s with agenda := [.epilogue c] }
  else
    let a := localAddr c.coreKey 0
    let s := { s with agenda := [], mem := s.mem.store (at' a (leBytes 8 w)) 0, dev := { s.dev with recovery := false } }
    let s := s.modCluster c fun x => { x with icache := (a / 32, []) :: x.icache.filter fun e => e.1 != a / 32 }
    let s := s.modCore c fun k => { k with rot := 0 }
    s.modSlot c Slot.atLocal

end Sys2Proof.Machine
end

