-- ==== Sys2Proof/Safety.lean ====
section
/-! DEFINITION. What counts as a safe step, and the terms in which claims say what an instruction changes and what it leaves
alone. -/
namespace Sys2Proof.Machine

/-- The step goes on: neither a fault nor a refusal. -/
def Goes (s : State) : Prop := ∃ t, step s = .next t

/-- The instruction's meaning goes on in a state. -/
def Executes (i : Instr) (s : State) : Prop := ∃ t, exec i s = .next t

/-! ## Frames -/

/-- Everything outside the slot at `c` is the same. -/
def OnlySlot (c : Coord) (s t : State) : Prop :=
  { t with slots := s.slots } = s ∧ (∀ e, e ≠ c → t.slot e = s.slot e) ∧ ∀ a, t.mem.byte a = s.mem.byte a

/-- Everything outside the slots is the same, but for events that stand at the end of the agenda. -/
def OnlySlots (s t : State) : Prop := { t with slots := s.slots, agenda := s.agenda } = s

/-- Everything outside the slot at `c` is the same, but for events that stand at the end of the agenda. -/
def OnlySlotAgenda (c : Coord) (s t : State) : Prop :=
  OnlySlots s t ∧ (∃ l, t.agenda = s.agenda ++ l) ∧ ∀ e, e ≠ c → t.slot e = s.slot e

/-- Everything outside the memory, the slot at `c` and the end of the agenda is the same. -/
def OnlySlotMem (c : Coord) (s t : State) : Prop :=
  { t with slots := s.slots, agenda := s.agenda, mem := s.mem } = s ∧ (∃ l, t.agenda = s.agenda ++ l)
    ∧ ∀ e, e ≠ c → t.slot e = s.slot e

/-- Memory holds the same bytes, tags and full/empty states: only what the caches hold may differ. -/
def SameBytes (m n : Memory) : Prop :=
  (∀ a, n.byte a = m.byte a) ∧ (∀ a, n.tag a = m.tag a) ∧ n.full = m.full ∧ n.owner = m.owner

/-- The slot `y` is `x` after an instruction of `n` bytes is complete: it is in the rotation with no page fault counted
(R62, R141), and outside a repeat frame it stands `n` bytes on, modulo 2^60 (R64). -/
def PastBy (n : Nat) (x y : Slot) : Prop :=
  y.hold = none ∧ y.pfCount = 0 ∧ y.cappPos = none ∧ y.elems = []
    ∧ (x.frame = none → y.frame = none ∧ y.pc = fld x.pc 60 4 ++ (fld x.pc 0 60 + BitVec.ofNat 60 n))

/-- The slot `y` with the fields that completing an instruction changes taken from `x`. -/
def Slot.placedAs (y x : Slot) : Slot :=
  { y with pc := x.pc, frame := x.frame, hold := x.hold, pfCount := x.pfCount, cappPos := x.cappPos, elems := x.elems }

/-- The current slot completed an instruction of `n` bytes that wrote `v` to gD and nothing else; a write of g0 is
discarded (R65). -/
def WroteG (n : Nat) (d : BitVec 5) (v : Dword) (s t : State) : Prop :=
  OnlySlot s.cur s t ∧ PastBy n s.me t.me ∧ { t.me.placedAs s.me with g := s.me.g } = s.me
    ∧ ∀ r, t.rg r = if r = d ∧ r ≠ 0 then v else s.rg r

/-- The same for a mask register; a write of k0 is discarded (R66). -/
def WroteK (n : Nat) (d : BitVec 3) (v : Dword) (s t : State) : Prop :=
  OnlySlot s.cur s t ∧ PastBy n s.me t.me ∧ { t.me.placedAs s.me with k := s.me.k } = s.me
    ∧ ∀ r, t.rk r = if r = d ∧ r ≠ 0 then v else s.rk r

/-- The same for a vector register. -/
def WroteV (n : Nat) (d : BitVec 5) (v : VReg) (s t : State) : Prop :=
  OnlySlot s.cur s t ∧ PastBy n s.me t.me ∧ { t.me.placedAs s.me with v := s.me.v } = s.me
    ∧ ∀ r, t.rv r = if r = d then v else s.rv r

/-- The current slot went past an instruction of `n` bytes, and nothing else changed. -/
def Passed (n : Nat) (s t : State) : Prop :=
  OnlySlot s.cur s t ∧ PastBy n s.me t.me ∧ t.me.placedAs s.me = s.me

/-- The current slot went to `pc`, with the registers `g`, and nothing else changed. -/
def JumpedTo (pc : Dword) (s t : State) : Prop :=
  OnlySlot s.cur s t ∧ t.me.pc = pc ∧ t.me.hold = none ∧ t.me.pfCount = 0 ∧ t.me.cappPos = none ∧ t.me.elems = [] ∧ t.me.frame = s.me.frame
    ∧ { t.me.placedAs s.me with g := s.me.g } = s.me

/-- The current slot left the rotation, and nothing else of it changed. -/
def HeldBy (h : Hold) (s t : State) : Prop := t.me = { s.me with hold := some h }

/-- The current slot took a trap at its own handler (R325): `c.epc`, `c.cause`, `c.tval` and `c.status` are written, the
repeat frame and the hold are cleared, and the pc is at `c.tvec`; nothing else changed. -/
def TookTrap (cause : BitVec 8) (tval : Dword) (s t : State) : Prop :=
  OnlySlot s.cur s t
    ∧ t.me = { s.me with
        cause := cause, tval := tval, epc := s.me.pc, pc := s.me.tvec, frame := none, hold := none, pfCount := 0
        cappPos := none, elems := [], status := if s.privileged s.cur then 7 else 5 }

/-- The trap of a cause is the slot's own: no handler is running (R328), and `c.troute` does not route it (R330). -/
def TrapsHere (cause : BitVec 8) (s : State) : Prop := bit s.me.status 2 = false ∧ s.routed s.cur cause = false

end Sys2Proof.Machine
end

