-- ==== Sys2Proof/Certificates/Slice0/Obligations.lean ====
section
/-! DEFINITION. The statements for the provers: what each instruction and each machine event does, what it leaves alone, and
what the machine keeps. -/
namespace Sys2Proof.Machine

/-! ## Integer, mask and immediate instructions -/

/-- The signed 64-bit clamp of R71. -/
def clampS (x : Int) : Dword :=
  if x < -(2 ^ 63) then 0x8000000000000000 else if 2 ^ 63 ≤ x then 0x7FFFFFFFFFFFFFFF else BitVec.ofInt 64 x

/-- Destination, predicate and result of the instructions of groups 0x01 and 0x02 (R71 to R73). -/
def arithResult (s : State) : Instr → Option (BitVec 5 × BitVec 3 × Dword)
  | .add d a b p => some (d, p, s.rg a + s.rg b)
  | .sub d a b p => some (d, p, s.rg a - s.rg b)
  | .and d a b p => some (d, p, s.rg a &&& s.rg b)
  | .or d a b p => some (d, p, s.rg a ||| s.rg b)
  | .xor d a b p => some (d, p, s.rg a ^^^ s.rg b)
  | .andn d a b p => some (d, p, s.rg a &&& ~~~s.rg b)
  | .orn d a b p => some (d, p, s.rg a ||| ~~~s.rg b)
  | .addSat d a b p => some (d, p, clampS ((s.rg a).toInt + (s.rg b).toInt))
  | .subSat d a b p => some (d, p, clampS ((s.rg a).toInt - (s.rg b).toInt))
  | .addZsat d a b p =>
    some (d, p, if 2 ^ 64 ≤ (s.rg a).toNat + (s.rg b).toNat then BitVec.allOnes 64 else s.rg a + s.rg b)
  | .subZsat d a b p => some (d, p, if (s.rg a).toNat < (s.rg b).toNat then 0 else s.rg a - s.rg b)
  | .mul d a b p => some (d, p, s.rg a * s.rg b)
  | .mulh d a b p =>
    some (d, p, (((s.rg a).signExtend 128 * (s.rg b).signExtend 128) >>> 64).setWidth 64)
  | .mulhz d a b p => some (d, p, (((s.rg a).setWidth 128 * (s.rg b).setWidth 128) >>> 64).setWidth 64)
  | .mulSat d a b p => some (d, p, clampS ((s.rg a).toInt * (s.rg b).toInt))
  | .div d a b p => some (d, p, if s.rg b = 0 then BitVec.allOnes 64 else (s.rg a).sdiv (s.rg b))
  | .divz d a b p => some (d, p, if s.rg b = 0 then BitVec.allOnes 64 else s.rg a / s.rg b)
  | .rem d a b p => some (d, p, if s.rg b = 0 then s.rg a else (s.rg a).srem (s.rg b))
  | .remz d a b p => some (d, p, if s.rg b = 0 then s.rg a else s.rg a % s.rg b)
  | _ => none

/-- Destination, predicate and result of group 0x03 (R74, R75). -/
def shiftResult (s : State) : Instr → Option (BitVec 5 × BitVec 3 × Dword)
  | .sll d a b p => some (d, p, s.rg a <<< ((s.rg b).toNat % 64))
  | .srl d a b p => some (d, p, s.rg a >>> ((s.rg b).toNat % 64))
  | .sra d a b p => some (d, p, (s.rg a).sshiftRight ((s.rg b).toNat % 64))
  | .ror d a b p => some (d, p, (s.rg a).rotateRight ((s.rg b).toNat % 64))
  | .clz d a p => some (d, p, (s.rg a).clz)
  | .ctz d a p => some (d, p, (s.rg a).ctz)
  | .pcnt d a p => some (d, p, (s.rg a).cpop)
  | .brev d a p => some (d, p, (s.rg a).reverse)
  | .bswap d a p =>
    let x := s.rg a
    some (d, p, fld x 0 8 ++ fld x 8 8 ++ fld x 16 8 ++ fld x 24 8 ++ fld x 32 8 ++ fld x 40 8 ++ fld x 48 8 ++ fld x 56 8)
  | _ => none

/-- All ones where the condition holds, else zero (R66). -/
def maskOf (c : Bool) : Dword := if c then 0xFFFFFFFFFFFFFFFF else 0

/-- Mask destination, predicate and result of group 0x04 (R76, R77). -/
def maskResult (s : State) : Instr → Option (BitVec 3 × BitVec 3 × Dword)
  | .cmpEq d a b p => some (d, p, maskOf (s.rg a = s.rg b))
  | .cmpNe d a b p => some (d, p, maskOf (s.rg a ≠ s.rg b))
  | .cmpLt d a b p => some (d, p, maskOf ((s.rg a).slt (s.rg b)))
  | .cmpGe d a b p => some (d, p, maskOf (!(s.rg a).slt (s.rg b)))
  | .cmpLtu d a b p => some (d, p, maskOf ((s.rg a).ult (s.rg b)))
  | .cmpGeu d a b p => some (d, p, maskOf (!(s.rg a).ult (s.rg b)))
  | .kand d a b p => some (d, p, s.rk a &&& s.rk b)
  | .kor d a b p => some (d, p, s.rk a ||| s.rk b)
  | .kxor d a b p => some (d, p, s.rk a ^^^ s.rk b)
  | .kandn d a b p => some (d, p, s.rk a &&& ~~~s.rk b)
  | .kmov d a p => some (d, p, s.rk a)
  | .gtok d a p => some (d, p, s.rg a)
  | _ => none

/-- Destination, predicate and result of `ktog` and the predicated instructions of group 0x05 (R77, R79, R80). -/
def extendResult (s : State) : Instr → Option (BitVec 5 × BitVec 3 × Dword)
  | .ktog d a p => some (d, p, s.rk a)
  | .sext8 d a p => some (d, p, ((s.rg a).setWidth 8).signExtend 64)
  | .sext16 d a p => some (d, p, ((s.rg a).setWidth 16).signExtend 64)
  | .sext32 d a p => some (d, p, ((s.rg a).setWidth 32).signExtend 64)
  | .zext8 d a p => some (d, p, s.rg a &&& 0xFF)
  | .zext16 d a p => some (d, p, s.rg a &&& 0xFFFF)
  | .zext32 d a p => some (d, p, s.rg a &&& 0xFFFFFFFF)
  | .mkptr d a n p => some (d, p, (s.rg a &&& 0x0FFFFFFFFFFFFFFF) ||| (n.setWidth 64 <<< 61))
  | .setp d a p => some (d, p, s.rg a ||| 0x1000000000000000)
  | .clrp d a p => some (d, p, s.rg a &&& 0xEFFFFFFFFFFFFFFF)
  | _ => none

/-- Destination and result of the immediate forms that write gD (R81, R82, R84) and of `sel` (R78), with an immediate as
R42 forms it: `x` is the prefix, if there is one. -/
def immResult (s : State) (x : Option (BitVec 26)) : Instr → Option (BitVec 5 × Dword)
  | .addi d a i =>
    some (d, s.rg a + match x with | none => i.signExtend 64 | some x => (x ++ i).signExtend 64)
  | .andi d a i =>
    some (d, s.rg a &&& match x with | none => i.setWidth 64 | some x => (x ++ i).signExtend 64)
  | .ori d a i =>
    some (d, s.rg a ||| match x with | none => i.setWidth 64 | some x => (x ++ i).signExtend 64)
  | .xori d a i =>
    some (d, s.rg a ^^^ match x with | none => i.setWidth 64 | some x => (x ++ i).signExtend 64)
  | _ => none

/-- Destination and result of the shifts by a constant, `movhi`, `movw` and `sel` (R78, R82, R84). -/
def constResult (s : State) : Instr → Option (BitVec 5 × Dword)
  | .slli d a n => some (d, s.rg a <<< n.toNat)
  | .srli d a n => some (d, s.rg a >>> n.toNat)
  | .srai d a n => some (d, (s.rg a).sshiftRight n.toNat)
  | .rori d a n => some (d, (s.rg a).rotateRight n.toNat)
  | .movhi d i => some (d, (((i.setWidth 32) <<< 16) ||| ((s.rg d).setWidth 32 &&& 0xFFFF)).signExtend 64)
  | .movw d i => some (d, i.setWidth 64)
  | .sel d a b k => some (d, if (s.rk k).getLsbD 0 then s.rg a else s.rg b)
  | _ => none

/-- Mask destination and result of the compares with an immediate (R83). -/
def immMask (s : State) (x : Option (BitVec 26)) : Instr → Option (BitVec 3 × Dword)
  | .cmpiEq k a i => some (k, maskOf (s.rg a = match x with | none => i.signExtend 64 | some x => (x ++ i).signExtend 64))
  | .cmpiNe k a i => some (k, maskOf (s.rg a ≠ match x with | none => i.signExtend 64 | some x => (x ++ i).signExtend 64))
  | .cmpiLt k a i =>
    some (k, maskOf ((s.rg a).slt (match x with | none => i.signExtend 64 | some x => (x ++ i).signExtend 64)))
  | .cmpiGe k a i =>
    some (k, maskOf (!(s.rg a).slt (match x with | none => i.signExtend 64 | some x => (x ++ i).signExtend 64)))
  | _ => none

end Sys2Proof.Machine

open Sys2Proof Sys2Proof.Machine

/-- R71 to R73, R68: a predicated arithmetic or logic instruction answers a next state; where bit 0 of kP is 1 it writes
its result to gD, else it acts as `nop`; nothing else changes. -/
def Obligations.ArithmeticResult : Prop :=
  ∀ (i : Instr) (s : State) (d : BitVec 5) (p : BitVec 3) (v : Dword), arithResult s i = some (d, p, v) →
    ∃ t, exec i s = .next t ∧ (if (s.rk p).getLsbD 0 then WroteG 4 d v s t else Passed 4 s t)

/-- R74, R75, R68: a predicated shift, bit count or reversal writes its result to gD where bit 0 of kP is 1, else it acts as `nop`;
nothing else changes. -/
def Obligations.ShiftAndBitResult : Prop :=
  ∀ (i : Instr) (s : State) (d : BitVec 5) (p : BitVec 3) (v : Dword), shiftResult s i = some (d, p, v) →
    ∃ t, exec i s = .next t ∧ (if (s.rk p).getLsbD 0 then WroteG 4 d v s t else Passed 4 s t)

/-- R76, R77: compares write all ones or zeros to kD, mask logic a mask, where bit 0 of kP is 1; k0 stays all
ones, and nothing else changes. -/
def Obligations.CompareAndMaskResult : Prop :=
  ∀ (i : Instr) (s : State) (d p : BitVec 3) (v : Dword), maskResult s i = some (d, p, v) →
    ∃ t, exec i s = .next t ∧ (if (s.rk p).getLsbD 0 then WroteK 4 d v s t else Passed 4 s t)

/-- R77, R79, R80, R68: `ktog`, the extensions and the pointer instructions write their result to gD where bit 0 of kP is 1;
nothing else changes. -/
def Obligations.ExtendAndPointerResult : Prop :=
  ∀ (i : Instr) (s : State) (d : BitVec 5) (p : BitVec 3) (v : Dword), extendResult s i = some (d, p, v) →
    ∃ t, exec i s = .next t ∧ (if (s.rk p).getLsbD 0 then WroteG 4 d v s t else Passed 4 s t)

/-- R78, R81 to R84: `sel` and the immediate forms write their result to gD or kD and nothing else.
R42, R43: with a prefix, the immediate has 42 bits, and the pair is one instruction of 8 bytes. -/
def Obligations.ImmediateResult : Prop :=
  (∀ (i : Instr) (s : State),
    (∀ d v, immResult s none i = some (d, v) → ∃ t, exec i s = .next t ∧ WroteG 4 d v s t)
      ∧ (∀ d v, constResult s i = some (d, v) → ∃ t, exec i s = .next t ∧ WroteG 4 d v s t)
      ∧ ∀ k v, immMask s none i = some (k, v) → ∃ t, exec i s = .next t ∧ WroteK 4 k v s t)
  ∧ (∀ (x : BitVec 26) (f : Word) (i : Instr) (s : State), x ≠ BitVec.allOnes 26 → decodeWord f = some i →
    (∀ d v, immResult s (some x) i = some (d, v) → ∃ t, exec (.ximm x f) s = .next t ∧ WroteG 8 d v s t)
      ∧ ∀ k v, immMask s (some x) i = some (k, v) → ∃ t, exec (.ximm x f) s = .next t ∧ WroteK 8 k v s t)

namespace Sys2Proof.Machine

/-! ## Control -/

/-- The pc plus `n` bytes, modulo 2^60 in its offset (R64). -/
def pcPlus (pc : Dword) (n : BitVec 60) : Dword := fld pc 60 4 ++ (fld pc 0 60 + n)

/-- The target of a branch with the displacement `disp` in words (R85). -/
def branchTo (pc : Dword) (disp : BitVec 22) : Dword := pcPlus pc (disp.signExtend 60 * 4)

/-- No posted access of the current slot is under way. -/
def Quiet (s : State) : Prop := ∀ p ∈ s.port, p.coord ≠ s.cur

end Sys2Proof.Machine

/-- R85, R86: a branch jumps where its test holds and passes otherwise; a call writes g31 as well.
R87: `jr` and `callr` jump to the old value of gA where kP[0] is 1 and the value is aligned; a misaligned value traps
with cause 0x04 and leaves g31. -/
def Obligations.BranchAndJumpResult : Prop :=
  ((∀ (k : BitVec 3) (c : BitVec 1) (d : BitVec 22) (s : State), ∃ t, exec (.bc k c d) s = .next t
    ∧ (if (s.rk k).setWidth 1 = c then JumpedTo (branchTo s.me.pc d) s t ∧ ∀ r, t.rg r = s.rg r else Passed 4 s t))
  ∧ (∀ (k : BitVec 3) (c : BitVec 1) (d : BitVec 22) (s : State), ∃ t, exec (.call k c d) s = .next t
    ∧ (if (s.rk k).setWidth 1 = c then
        JumpedTo (branchTo s.me.pc d) s t ∧ ∀ r, t.rg r = if r = 31 then pcPlus s.me.pc 4 else s.rg r
      else Passed 4 s t)))
  ∧ (∀ (a : BitVec 5) (p : BitVec 3) (s : State),
    (¬ (s.rk p).getLsbD 0 → (∃ t, exec (.jr a p) s = .next t ∧ Passed 4 s t)
      ∧ ∃ t, exec (.callr a p) s = .next t ∧ Passed 4 s t)
    ∧ ((s.rk p).getLsbD 0 → (s.rg a).toNat % 4 = 0 →
      (∃ t, exec (.jr a p) s = .next t ∧ JumpedTo (s.rg a) s t ∧ ∀ r, t.rg r = s.rg r)
        ∧ ∃ t, exec (.callr a p) s = .next t ∧ JumpedTo (s.rg a) s t
            ∧ ∀ r, t.rg r = if r = 31 then pcPlus s.me.pc 4 else s.rg r)
    ∧ ((s.rk p).getLsbD 0 → (s.rg a).toNat % 4 ≠ 0 → TrapsHere 0x04 s →
      (∃ t, exec (.jr a p) s = .next t ∧ TookTrap 0x04 (s.rg a) s t)
        ∧ ∃ t, exec (.callr a p) s = .next t ∧ TookTrap 0x04 (s.rg a) s t))

/-- R92, R94: `repf` opens a frame at the next word with the fields' values plus one and the step 1, 2, 4 or 8.
R94: after an instruction of a frame comes the next captured word; after the last word the next pass from the first;
after the last pass the word behind the frame. Shown for every arithmetic instruction. -/
def Obligations.RepeatFrameResult : Prop :=
  (∀ (l : BitVec 4) (c : BitVec 6) (g : BitVec 3) (p : BitVec 2) (s : State), s.me.frame = none →
    ∃ t, exec (.repf l c g p) s = .next t ∧ OnlySlot s.cur s t ∧ t.me.placedAs s.me = s.me
      ∧ t.me.hold = none ∧ t.me.pc = pcPlus s.me.pc 4
      ∧ ∃ f, t.me.frame = some f ∧ f.base = pcPlus s.me.pc 4 ∧ f.len = l.toNat + 1 ∧ f.count = c.toNat + 1
          ∧ f.stagger = g ∧ f.stride = 1#5 <<< p.toNat ∧ f.pass = 0 ∧ f.idx = 0)
  ∧ (∀ (i : Instr) (s : State) (d : BitVec 5) (p : BitVec 3) (v : Dword) (f : Frame), arithResult s i = some (d, p, v) →
    s.me.frame = some f →
    ∃ t, exec i s = .next t
      ∧ (f.idx + 1 < f.len → t.me.frame = some { f with idx := f.idx + 1 }
          ∧ t.me.pc = pcPlus f.base (BitVec.ofNat 60 (4 * (f.idx + 1))))
      ∧ (f.len ≤ f.idx + 1 → f.pass + 1 < f.count →
          t.me.frame = some { f with idx := 0, pass := f.pass + 1 } ∧ t.me.pc = f.base)
      ∧ (f.len ≤ f.idx + 1 → f.count ≤ f.pass + 1 →
          t.me.frame = none ∧ t.me.pc = pcPlus f.base (BitVec.ofNat 60 (4 * f.len))))

namespace Sys2Proof.Machine

/-! ## Traps, privilege and control registers -/

/-- The word of an instruction, zero-extended. -/
def wordOfInstr (i : Instr) : Dword := ((encodeWord i).getD 0).setWidth 64

/-- The CSRs that need privilege to write (R321). -/
def privilegedWrites : List Nat :=
  [0x01, 0x02, 0x03, 0x07, 0x09, 0x40, 0x43, 0x44, 0x60, 0x61, 0x62, 0x65, 0x66] ++ (List.range 12).map (0x81 + ·)
    ++ [0xA1, 0xA2, 0xA3, 0xA4, 0xC0, 0xC1, 0xC2, 0xC3, 0xC4, 0xC5, 0xC6, 0xC7, 0xC8]

/-- What the manual reserves to privileged slots (R318, R321). -/
def privilegedInstr : Instr → Bool
  | .segw .. | .ptbw .. | .invt .. | .eret => true
  | .csrw _ n => privilegedWrites.contains n.toNat
  | .csrr _ n => [0x61, 0x62, 0x86, 0x87, 0x89, 0x8A, 0xC7].contains n.toNat
  | _ => false

/-- The instruction may be executed by the slot: it has the privilege, or is the slot, that R321 asks for. -/
def MayExecute (s : State) (i : Instr) : Prop :=
  (privilegedInstr i = true → s.privileged s.cur = true)
    ∧ ((∃ x, i = .csrr x 0x42 ∨ i = .csrw x 0x42) → s.cur.slot = 13 ∧ (s.core s.cur).serving ≠ none)
    ∧ ((∃ x, i = .csrw x 0x0D) → s.cur.slot = 15)
    ∧ ((∃ x, i = .csrw x 0x63 ∨ i = .csrw x 0x64) → s.cur.slot = 0)

/-- The rows of a strand table entry as `c.stdat` reads them (R246): state, ply bit, VF and id; expiry; ovf, count of peers and dies; the
peers, six a row; and the arenas of a strand or the members of a ply. -/
def strandRowValue (x : Die) (e : StrandEntry) : Nat → Dword
  | 0 =>
    match e.state with
    | .free => 0
    | .live => BitVec.ofNat 64 (2 ^ 62 + (if e.isPly then 2 ^ 60 else 0) + e.vf % 512 * 2 ^ 51 + e.id.toNat)
    | .ended cut =>
      BitVec.ofNat 64 (2 ^ 63 + (if cut then 2 ^ 61 else 0) + (if e.isPly then 2 ^ 60 else 0) + e.vf % 512 * 2 ^ 51 + e.id.toNat)
  | 1 => BitVec.ofNat 64 (match e.state with | .free => 0 | .live => x.expiryOf e | .ended _ => e.expiry)
  | 2 => BitVec.ofNat 64 ((if e.ovf then 2 ^ 63 else 0) + min e.peers.length 16 * 256 + e.dies.toNat)
  | 3 => peers e 0
  | 4 => peers e 6
  | 5 => peers e 12
  | 6 => if e.isPly then members e 0 else e.arenas.get 0
  | 7 => if e.isPly then members e 2 else e.arenas.get 1
  | _ => 0
where
  peers (e : StrandEntry) (j : Nat) : Dword :=
    BitVec.ofNat 64 ((List.range 6).foldl (fun a i => a + if j + i < 16 then (e.peers.getD (j + i) 0).toNat * 2 ^ (9 * i) else 0) 0)
  members (e : StrandEntry) (j : Nat) : Dword :=
    let one (j : Nat) : Nat := match e.members[j]? with | some m => 2 ^ 31 + m.toNat | none => 0
    BitVec.ofNat 64 (one j + one (j + 1) * 2 ^ 32)

/-- The value of a CSR as a read gives it (R321). -/
def plainCsr (s : State) : Nat → Option Dword
  | 0x00 => some (s.dev.devno.setWidth 64 <<< 16 ||| s.cur.die.setWidth 64 <<< 13 ||| s.cur.cluster.setWidth 64 <<< 7
      ||| s.cur.core.setWidth 64 <<< 4 ||| s.cur.slot.setWidth 64)
  | 0x01 => some ((s.me.status.setWidth 64 &&& 6) ||| if s.privileged s.cur then 1 else 0)
  | 0x02 => some (s.me.strand.setWidth 64)
  | 0x03 => some (s.me.cls.setWidth 64)
  | 0x04 => some (s.me.cause.setWidth 64)
  | 0x05 => some s.me.epc
  | 0x06 => some s.me.tval
  | 0x07 => some s.me.tvec
  | 0x08 => some s.me.crew
  | 0x09 => some (s.me.qown.setWidth 64)
  | 0x0A => some s.me.nfsw
  | 0x0B => some (s.me.tnan.setWidth 64)
  | 0x0C => some (s.me.stag.setWidth 64)
  | 0x0D => some s.me.mbsrc
  | 0x0E => some s.me.shsrc
  | 0x0F => some s.me.rfault
  | 0x10 => some s.me.rfptr
  | 0x11 => some s.me.escv
  | 0x40 => some (s.core s.cur).ptbcfg
  | 0x41 => some (s.core s.cur).pmiss
  | 0x42 => (s.core s.cur).serving.map fun k => (s.slot (s.cur.at k)).epc
  | 0x43 => some (s.core s.cur).troute
  | 0x44 => some (s.core s.cur).amvec
  | 0x60 => some ((s.cluster s.cur).bankmode.setWidth 64)
  | 0x61 => some ((s.cluster s.cur).mcapsel.setWidth 64)
  | 0x62 => some (Sparse.get (s.cluster s.cur).mcap (s.cluster s.cur).mcapsel.toNat 0)
  | 0x63 => some (s.cluster s.cur).loomsel
  | 0x64 =>
    let i := fldN (s.cluster s.cur).loomsel 0 4
    match fldN (s.cluster s.cur).loomsel 6 2 with
    | 0 => some ((s.cluster s.cur).ct.getD i 0)
    | 1 => some ((s.cluster s.cur).term.getD i 0)
    | 2 => some ((s.cluster s.cur).line.getD i 0)
    | _ => some 0
  | 0x65 => some (s.cluster s.cur).shrx
  | 0x66 =>
    let x := s.cluster s.cur
    some (BitVec.ofNat 64 ((if x.shtxEn then 2 ^ 63 else 0) + x.shtxVf.toNat * 2 ^ 54 + x.shtxTarget.toNat * 2 ^ 48
      + x.shtxSize.toNat * 2 ^ 40 + x.permits % 128))
  | 0x67 =>
    let x := s.cluster s.cur
    some (BitVec.ofNat 64 (x.rd % 64 * 2 ^ 24 + x.wr % 64 * 2 ^ 16 + x.full % 128 * 2 ^ 8 + x.resv % 128))
  | 0x80 => some (BitVec.ofNat 64 (s.now s.cur.die))
  | 0x81 => some (s.die s.cur.die).knsel
  | 0x82 =>
    let x := s.die s.cur.die
    let n := fldN x.knsel 8 6
    let row := fldN x.knsel 6 2
    let cl := fldN x.knsel 0 6
    some (if n ≤ 39 ∧ row = 0 then (s.knot s.cur.die n).word
      else if n ≤ 39 ∧ row = 1 ∧ cl < clusterCount s.cur.die then (Sparse.get (s.knot s.cur.die n).rows cl 0).setWidth 64
      else 0)
  | 0x83 => some ((s.die s.cur.die).qsel.setWidth 64)
  | 0x84 => some ((s.die s.cur.die).queue (s.die s.cur.die).qsel.toNat).cfg
  | 0x85 => some (s.die s.cur.die).occcfg
  | 0x86 => some (s.die s.cur.die).stsel
  | 0x87 =>
    let x := s.die s.cur.die
    some (strandRowValue x (Sparse.get x.strands (fldN x.stsel 0 13) StrandEntry.reset) (fldN x.stsel 16 4))
  | 0x88 => some (s.die s.cur.die).linkb
  | 0x89 => some (s.die s.cur.die).annsel
  | 0x8A =>
    let sel := (s.die s.cur.die).annsel
    some (if fldN sel 16 9 < 384 ∧ fldN sel 0 4 < 14 then Sparse.get (s.die s.cur.die).ann (fldN sel 16 9 * 16 + fldN sel 0 4) 0 else 0)
  | 0x8B => some ((s.die s.cur.die).skvf.setWidth 64)
  | 0x8C =>
    let vf := (s.die s.cur.die).skvf.toNat
    some (if vf < 384 then Sparse.get (s.die s.cur.die).skcap vf 0 else 0)
  | 0xA0 => some (s.dev.incarn.setWidth 64)
  | 0xA1 => some (s.dev.prsel.setWidth 64)
  | 0xA2 => some (s.peerEntry s.dev.prsel)
  | 0xA3 => some s.dev.domsel
  | 0xA4 =>
    let vf := fldN s.dev.domsel 16 9
    some (if vf < 384 then (s.vf vf).domain.getD (fldN s.dev.domsel 0 3) 0 else 0)
  | 0xC0 => some (s.vf s.me.vf).vmroot
  | 0xC1 => some ((s.vf s.me.vf).region.get 0)
  | 0xC2 => some ((s.vf s.me.vf).region.get 1)
  | 0xC3 => some ((s.vf s.me.vf).region.get 2)
  | 0xC4 => some ((s.vf s.me.vf).region.get 3)
  | 0xC5 => some (Sparse.get (s.die s.cur.die).walkspill s.me.vf 0)
  | 0xC6 => some (s.vf s.me.vf).vftvec
  | 0xC7 => some (s.vf s.me.vf).ctxarea
  | 0xC8 => some (s.vf s.me.vf).fqwake
  | _ => none

/-- The slot after a write of a slot's CSR whose write touches the slot alone (R321). -/
def wroteSlotCsr (x : Slot) (v : Dword) : Nat → Option Slot
  | 0x01 => some { x with status := (v.setWidth 3 &&& 6) ||| (x.status &&& 1) }
  | 0x02 => some { x with strand := v.setWidth 24 }
  | 0x03 => some { x with cls := v.setWidth 2 }
  | 0x04 => some { x with cause := v.setWidth 8 }
  | 0x05 => some { x with epc := v }
  | 0x06 => some { x with tval := v }
  | 0x07 => some { x with tvec := v &&& 0xFFFFFFFFFFFFFFFC }
  | 0x0A => some { x with nfsw := v, posted := 0 }
  | 0x0B => some { x with tnan := v.setWidth 16 }
  | 0x0C => some { x with stag := v.setWidth 3 }
  | 0x0D => some { x with mbsrc := v &&& 0x00FFFFFF0000000F }
  | 0x0F => some { x with rfault := v &&& 0xC0FF000000000000 }
  | 0x10 => some { x with rfptr := v }
  | _ => none

/-- The core after a write of its CSR that touches one field (R321). -/
def wroteCoreCsr (k : Core) (v : Dword) : Nat → Option Core
  | 0x43 => some { k with troute := v &&& 0x1FFFFE }
  | 0x44 => some { k with amvec := v }
  | _ => none

/-- The cluster after a write of its CSR that touches one field (R321). -/
def wroteClusterCsr (x : Cluster) (v : Dword) : Nat → Option Cluster
  | 0x61 => some { x with mcapsel := v.setWidth 6 }
  | 0x62 => some { x with mcap := x.mcap.set x.mcapsel.toNat (v &&& 0xFFC3FFFCFFFFFFFF) }
  | 0x63 => some { x with loomsel := v &&& 0xCF }
  | 0x66 => some { x with
      shtxEn := v.getLsbD 63, shtxVf := fld v 54 9, shtxTarget := fld v 48 6, permits := 0, seq := 0 }
  | _ => none

/-- The die after a write of its CSR that touches one field (R321). -/
def wroteDieCsr (x : Die) (v : Dword) (vf : Nat) : Nat → Option Die
  | 0x81 => some { x with knsel := v &&& 0x3FFF }
  | 0x83 => some { x with qsel := v.setWidth 6 }
  | 0x85 => some { x with occcfg := v &&& 0xFFFFF00000000000 }
  | 0x86 => some { x with stsel := v &&& 0xF1FFF }
  | 0x88 => some { x with linkb := v }
  | 0x89 => some { x with annsel := v &&& 0x1FF000F }
  | 0x8B => some { x with skvf := v.setWidth 9 }
  | 0xC5 => some { x with walkspill := Sparse.set x.walkspill vf (v &&& 0x8000FFFFFF800000) }
  | _ => none

/-- The device after a write of its CSR that touches one field (R321). -/
def wroteDeviceCsr (x : Device) (v : Dword) : Nat → Option Device
  | 0xA1 => some { x with prsel := v.setWidth 9 }
  | 0xA3 => some { x with domsel := v &&& 0x1FF0007 }
  | _ => none

/-- The VF after a write of its CSR that touches one field and waits for nothing (R321). -/
def wroteVfCsr (x : Vf) (v : Dword) : Nat → Option Vf
  | 0xC6 => some { x with vftvec := v &&& 0xFFFFFFFFFFFFFFFC }
  | 0xC7 => some { x with ctxarea := v &&& 0x800FFFFFFFF00000 }
  | 0xC8 => some { x with fqwake := v &&& 0x8000000001FFFFFF }
  | _ => none

/-- The current slot passes, and no other slot changes. -/
def OthersKeep (s t : State) : Prop :=
  (∀ e, e ≠ s.cur → t.slot e = s.slot e) ∧ PastBy 4 s.me t.me ∧ t.me.placedAs s.me = s.me

/-- The slot left the rotation for slot 13 (R331): `c.cause`, `c.tval` and `c.epc` are written, and a service is on the agenda. -/
def QueuedFor13 (cause : BitVec 8) (tval epc : Dword) (s t : State) : Prop :=
  OnlySlotAgenda s.cur s t ∧ t.agenda = s.agenda ++ [.event .shadowServiceStart (.at s.cur)]
    ∧ t.me = { s.me with
        cause := cause, tval := tval, epc := epc, frame := none, pfCount := 0, cappPos := none, elems := []
        hold := some (.service cause 0) }

/-- The slot retired with FAULT and, where the fault queue is enabled, one record of its double trap waits for the queue (R328,
R141). -/
def DoubleTrapped (s t : State) : Prop :=
  t.me.live = false ∧ t.me.retired = some .fault ∧ t.me.hold = none
    ∧ (t.vf s.me.vf).faults = (s.vf s.me.vf).faults ++
        if s.fqOn s.me.vf then
          [{ dwords := [s.cur.bits s.dev.devno, BitVec.ofNat 64 (s.me.vf % 2 ^ 16 * 2 ^ 48 + fldN s.me.pc 0 48),
                        BitVec.ofNat 64 (7 * 32), s.me.strand.setWidth 64] }]
        else []

/-- Something still uses a translation of the slot's VF that is stale, or that is of a 2 MiB page (R336). -/
def TranslationInUse (s : State) (host : Bool) (page : Nat) : Prop :=
  (∃ e ∈ s.tcache, e.vf = s.me.vf ∧ (e.stale = true ∨ e.covers host page = true))
    ∨ ∃ k ∈ s.port, k.vf = s.me.vf ∧ (k.stale = true ∨ k.held = false ∧ k.pages.any (touches host page) = true)

end Sys2Proof.Machine

/-- R325, R329: `trap n` and `brk` take the slot's own trap: cause 0x14 with n and the next word in `c.epc`, cause 0x12 with
0 and the word itself.
R330, R331: where `c.troute` routes its cause, a `trap` or `brk` holds the slot for slot 13, with its own `c.cause`, `c.tval` and
`c.epc` written and its status and pc as they were. That this holds also while the slot's th is 1 is the model's reading (log 34).
R328: in a slot whose th is 1, and that is not slot 13 in a service, a `trap` or `brk` whose cause is not routed is a double trap:
the slot retires with FAULT, and where the VF's fault queue is enabled one record of kind 7 with the address of the word waits for it. -/
def Obligations.TrapEntry : Prop :=
  (∀ (n : BitVec 10) (s : State),
    (TrapsHere 0x14 s → ∃ t, exec (.trap n) s = .next t ∧ OnlySlot s.cur s t
      ∧ t.me = { s.me with
          cause := 0x14, tval := n.setWidth 64, epc := pcPlus s.me.pc 4, pc := s.me.tvec, frame := none, hold := none
          pfCount := 0, cappPos := none, elems := [], status := if s.privileged s.cur then 7 else 5 })
    ∧ (TrapsHere 0x12 s → ∃ t, exec .brk s = .next t ∧ TookTrap 0x12 0 s t))
  ∧ (∀ (n : BitVec 10) (s : State),
    (s.routed s.cur 0x14 = true → ∃ t, exec (.trap n) s = .next t ∧ QueuedFor13 0x14 (n.setWidth 64) (pcPlus s.me.pc 4) s t)
    ∧ (s.routed s.cur 0x12 = true → ∃ t, exec .brk s = .next t ∧ QueuedFor13 0x12 0 s.me.pc s t))
  ∧ (∀ (n : BitVec 10) (s : State), s.me.status.getLsbD 2 = true → (s.cur.slot ≠ 13 ∨ (s.core s.cur).serving = none) →
    (s.cur.slot = 13 → (s.core s.cur).servedGone = false) →
    (s.routed s.cur 0x14 = false → ∃ t, exec (.trap n) s = .next t ∧ DoubleTrapped s t)
    ∧ (s.routed s.cur 0x12 = false → ∃ t, exec .brk s = .next t ∧ DoubleTrapped s t))

/-- R329, R332: `eret` in a privileged slot, other than slot 13 in a service, goes to `c.epc` with the privilege that ppriv
holds and th 0. In slot 13 in a service with th 0 it ends the service: the served slot, unless its task was annulled
meanwhile, is in the rotation at its `c.epc`, slot 13 is not live, and where another slot is queued the next service starts.
The model's own in it: the agenda (log 1). -/
def Obligations.EretReturns : Prop :=
  ∀ s : State, s.privileged s.cur = true →
    ((s.cur.slot ≠ 13 ∨ (s.core s.cur).serving = none ∨ s.me.status.getLsbD 2 = true) →
      ∃ t, exec .eret s = .next t ∧ OnlySlot s.cur s t
        ∧ t.me = { s.me with pc := s.me.epc, pfCount := 0, status := if s.me.status.getLsbD 1 then 3 else 0 })
    ∧ ∀ k : BitVec 4, s.cur.slot = 13 → (s.core s.cur).serving = some k → k ≠ 13 → s.me.status.getLsbD 2 = false →
      ∃ t, exec .eret s = .next t ∧ { t with slots := s.slots, cores := s.cores, agenda := s.agenda } = s
        ∧ ((s.core s.cur).servedGone = false → (∃ c b, (s.slot (s.cur.at k)).hold = some (.service c b)) →
            t.slot (s.cur.at k) = { s.slot (s.cur.at k) with hold := none, pc := (s.slot (s.cur.at k)).epc })
        ∧ ((s.core s.cur).servedGone = true → t.slot (s.cur.at k) = s.slot (s.cur.at k))
        ∧ t.me = { s.me with live := false, frame := none, hold := none }
        ∧ (∀ e, e ≠ s.cur → e ≠ s.cur.at k → t.slot e = s.slot e)
        ∧ t.core s.cur = { s.core s.cur with serving := none, servedGone := false }
        ∧ (∀ e, e.coreKey ≠ s.cur.coreKey → t.core e = s.core e)
        ∧ ((∃ (j : BitVec 4) (c : BitVec 8) (b : BitVec 52), (t.slot (s.cur.at j)).hold = some (.service c b)) →
            t.agenda = s.agenda ++ [.event .shadowServiceStart (.at s.cur)])
        ∧ ((∀ (j : BitVec 4) (c : BitVec 8) (b : BitVec 52), (t.slot (s.cur.at j)).hold ≠ some (.service c b)) →
            t.agenda = s.agenda)

/-- R318, R321, R45: an unprivileged slot that executes a privileged instruction, or names a privileged register, traps with
cause 0x02 and the instruction's word. -/
def Obligations.PrivilegeTrap : Prop :=
  ∀ (i : Instr) (s : State), privilegedInstr i = true → s.privileged s.cur = false → TrapsHere 0x02 s →
    ∃ t, exec i s = .next t ∧ TookTrap 0x02 (wordOfInstr i) s t

/-- R321, R322: a read of a control register of the slot, its core, cluster, die, device or VF gives that register, or the row of a table that
its select register names (R213, R231, R246, R257).
R321, R323: a write of a control register of the slot, its core or its cluster, by a slot that may write it, changes the writable
fields of the register and nothing else of the slot: `c.class` may let a queued task pre-empt this one (R236), `c.ptbcfg` empties the buffer too (R333), `c.pepc` is `c.epc` of the slot that slot 13 serves,
`c.loomdat` writes the register that `c.loomsel` names, `c.bankmode` zeroes each bank whose mode changes (R131), and `c.shrx` and
`c.shtx` wait while a send is in flight (R278). That `c.stag` takes a tag of 11 as written is the model's choice (log 89), and that a
write of `c.shrx` ends what copies count as full its reading (log 58).
R321, R323: a write of a control register of the die, the device or the VF, by a slot that may write it, changes the writable fields
of the register, or of the table entry that its select register names, and nothing else of the register: `c.kndat` the knot's word, whose
phase completes, or a core-mask row (R213), `c.qcfg` with a capacity that fits (R231), `c.stdat` the arenas of a live strand (R247, R256),
`c.anndat` a counter (R257), `c.skcap` while no die holds a skein of the VF (R263), `c.prdat` a peer's entry (R288, R291), `c.domdat` a domain word. That an entry written with ports that are all down is lost at once, and one
that names no port is not, is the model's choice (log 63), and so is that a core-mask row of a cluster that the die has not reads 0 and is not
written (log 68). A write of `c.vmroot` or a region waits for the slot's posted accesses, and one of `c.vmroot` for the users of the VF's
translations too (R336; what these are is log 20).
The model's own in it: the port and its order (log 3), the agenda (log 1). -/
def Obligations.CsrAccess : Prop :=
  (∀ (d : BitVec 5) (n : BitVec 8) (s : State) (v : Dword), plainCsr s n.toNat = some v → MayExecute s (.csrr d n) →
    ∃ t, exec (.csrr d n) s = .next t ∧ WroteG 4 d v s t)
  ∧ (∀ (a : BitVec 5) (n : BitVec 8) (s : State), MayExecute s (.csrw a n) →
    let v := s.rg a
    (∀ x, wroteSlotCsr s.me v n.toNat = some x →
      ∃ t, exec (.csrw a n) s = .next t ∧ OnlySlotAgenda s.cur s t ∧ (n ≠ 0x03 → OnlySlot s.cur s t) ∧ PastBy 4 s.me t.me
        ∧ t.me.placedAs s.me = x)
    ∧ (n = 0x09 → ∃ t, exec (.csrw a n) s = .next t ∧ OnlySlotAgenda s.cur s t ∧ PastBy 4 s.me t.me
        ∧ t.me.placedAs s.me = { s.me with qown := v.setWidth 6 })
    ∧ (∀ x, wroteCoreCsr (s.core s.cur) v n.toNat = some x →
      ∃ t, exec (.csrw a n) s = .next t ∧ { t with slots := s.slots, cores := s.cores } = s ∧ OthersKeep s t ∧ t.core s.cur = x
        ∧ ∀ e : Coord, e.coreKey ≠ s.cur.coreKey → t.core e = s.core e)
    ∧ (n = 0x40 → ∃ t, exec (.csrw a n) s = .next t ∧ { t with slots := s.slots, cores := s.cores } = s ∧ OthersKeep s t
        ∧ { t.core s.cur with ptb := (s.core s.cur).ptb } = { s.core s.cur with ptbcfg := v &&& 0xFF00000000000000, victim := 0 }
        ∧ (∀ i : Fin 64, ((t.core s.cur).ptb.get i).valid = false)
        ∧ ∀ e : Coord, e.coreKey ≠ s.cur.coreKey → t.core e = s.core e)
    ∧ (∀ k, n = 0x42 → (s.core s.cur).serving = some k → k ≠ 13 →
      ∃ t, exec (.csrw a n) s = .next t ∧ { t with slots := s.slots } = s ∧ PastBy 4 s.me t.me ∧ t.me.placedAs s.me = s.me
        ∧ t.slot (s.cur.at k) = { s.slot (s.cur.at k) with epc := v } ∧ ∀ e, e ≠ s.cur → e ≠ s.cur.at k → t.slot e = s.slot e)
    ∧ (∀ x, wroteClusterCsr (s.cluster s.cur) v n.toNat = some x → (n = 0x66 → (s.cluster s.cur).sending = false) →
      ∃ t, exec (.csrw a n) s = .next t ∧ { t with slots := s.slots, clusters := s.clusters } = s ∧ OthersKeep s t
        ∧ t.cluster s.cur = x ∧ ∀ e : Coord, e.clusterKey ≠ s.cur.clusterKey → t.cluster e = s.cluster e)
    ∧ (n = 0x64 →
      let i := fldN (s.cluster s.cur).loomsel 0 4
      let row := fldN (s.cluster s.cur).loomsel 6 2
      ∃ t, exec (.csrw a n) s = .next t ∧ { t with slots := s.slots, clusters := s.clusters, agenda := s.agenda } = s ∧ OthersKeep s t
        ∧ (∀ e : Coord, e.clusterKey ≠ s.cur.clusterKey → t.cluster e = s.cluster e)
        ∧ { t.cluster s.cur with
            ct := (s.cluster s.cur).ct, term := (s.cluster s.cur).term, line := (s.cluster s.cur).line } = s.cluster s.cur
        ∧ ∀ j : Fin 16,
            (t.cluster s.cur).ct.get j =
              (if row = 0 ∧ j.val = i then v &&& 0xBF00FFFFFFFFFFFF else (s.cluster s.cur).ct.get j)
            ∧ (t.cluster s.cur).term.get j =
              (if row = 1 ∧ j.val = i then v &&& 0x800000000000FFFF else (s.cluster s.cur).term.get j)
            ∧ (t.cluster s.cur).line.get j =
              if row = 2 ∧ j.val = i then v &&& 0x8700FFFF0000007F else (s.cluster s.cur).line.get j)
    ∧ (n = 0x65 → s.receiving s.cur = false →
      ∃ t x, exec (.csrw a n) s = .next t ∧ { t with slots := s.slots, clusters := s.clusters } = s ∧ OthersKeep s t
        ∧ t.cluster s.cur = { s.cluster s.cur with shrx := x, rd := 0, wr := 0, full := 0, resv := 0, taking := [] }
        ∧ fld x 0 63 = fld (v &&& 0xFFFFFFFFFC000000) 0 63
        ∧ (x.getLsbD 63 = true ↔ v.getLsbD 63 = true ∧ s.rxLegal s.cur (v &&& 0xFFFFFFFFFC000000) = true)
        ∧ ∀ e : Coord, e.clusterKey ≠ s.cur.clusterKey → t.cluster e = s.cluster e)
    ∧ ((n = 0x65 ∧ s.receiving s.cur = true) ∨ (n = 0x66 ∧ (s.cluster s.cur).sending = true) →
      ∃ t, exec (.csrw a n) s = .next t ∧ OnlySlot s.cur s t ∧ HeldBy .ring s t)
    ∧ (n = 0x60 → s.port = [] →
      ∃ t, exec (.csrw a n) s = .next t ∧ OthersKeep s t
        ∧ (∀ b : BitVec 4, fld (t.cluster s.cur).bankmode (2 * b.toNat) 2 =
            if fld v (2 * b.toNat) 2 = 3#2 then fld (s.cluster s.cur).bankmode (2 * b.toNat) 2 else fld v (2 * b.toNat) 2)
        ∧ ∀ (b : BitVec 4) (x : Nat), fld (t.cluster s.cur).bankmode (2 * b.toNat) 2 ≠ fld (s.cluster s.cur).bankmode (2 * b.toNat) 2 →
            bankAddr s.cur.clusterKey (b.toNat * 2 ^ 17) ≤ x → x < bankAddr s.cur.clusterKey (b.toNat * 2 ^ 17) + 2 ^ 17 →
            t.mem.byte x = 0 ∧ t.mem.tag x = 0 ∧ t.mem.isFull x = false))
  ∧ (∀ (a : BitVec 5) (n : BitVec 8) (s : State), MayExecute s (.csrw a n) →
    let v := s.rg a
    let d := s.cur.die
    let die := s.die d
    let onDie (t : State) : Prop := { t with slots := s.slots, dies := s.dies } = s ∧ OthersKeep s t ∧ ∀ e, e ≠ d → t.die e = s.die e
    let onVf (vf : Nat) (t : State) : Prop := { t with slots := s.slots, vfs := s.vfs } = s ∧ OthersKeep s t ∧ ∀ e, e ≠ vf → t.vf e = s.vf e
    (∀ x, wroteDieCsr die v s.me.vf n.toNat = some x → ∃ t, exec (.csrw a n) s = .next t ∧ onDie t ∧ t.die d = x)
    ∧ (∀ x, wroteDeviceCsr s.dev v n.toNat = some x →
      ∃ t, exec (.csrw a n) s = .next t ∧ { t with slots := s.slots, dev := s.dev } = s ∧ OthersKeep s t ∧ t.dev = x)
    ∧ (∀ x, wroteVfCsr (s.vf s.me.vf) v n.toNat = some x →
      ∃ t, exec (.csrw a n) s = .next t ∧ onVf s.me.vf t ∧ t.vf s.me.vf = x)
    ∧ (∀ k, n = 0x82 → k = fldN die.knsel 8 6 →
      (k ≤ 39 → fldN die.knsel 6 2 = 0 →
        ∃ t, exec (.csrw a n) s = .next t ∧ t.mem = s.mem ∧ OthersKeep s t ∧ (t.knot d k).word = v &&& 0xFFC0FF0000001FFF
          ∧ (t.knot d k).count = 0 ∧ (t.knot d k).parity = !(s.knot d k).parity)
      ∧ (k ≤ 39 → fldN die.knsel 6 2 = 1 → fldN die.knsel 0 6 < clusterCount d →
        ∃ t, exec (.csrw a n) s = .next t ∧ onDie t ∧ { t.die d with knots := die.knots } = die
          ∧ (∀ j, j ≠ k → t.knot d j = s.knot d j) ∧ { t.knot d k with rows := (s.knot d k).rows } = s.knot d k
          ∧ ∀ j, Sparse.get (t.knot d k).rows j 0 =
              if j = fldN die.knsel 0 6 then v.setWidth 8 else Sparse.get (s.knot d k).rows j 0)
      ∧ (39 < k ∨ 1 < fldN die.knsel 6 2 ∨ (fldN die.knsel 6 2 = 1 ∧ clusterCount d ≤ fldN die.knsel 0 6) →
        ∃ t, exec (.csrw a n) s = .next t ∧ Passed 4 s t))
    ∧ (∀ (q : Nat) (fits : Prop), n = 0x84 → q = die.qsel.toNat →
      (fits ↔ fldN v 0 15 ≤ 16384 ∧ (List.range 64).foldl (fun m i => m + if i = q then fldN v 0 15 else (die.queue i).cap) 0 ≤ 16384) →
      ∃ t w, exec (.csrw a n) s = .next t ∧ { t with slots := s.slots, dies := s.dies, agenda := s.agenda } = s ∧ OthersKeep s t
        ∧ (∀ e, e ≠ d → t.die e = s.die e) ∧ { t.die d with queues := die.queues } = die
        ∧ (∀ j, j ≠ q → (t.die d).queue j = die.queue j) ∧ (t.die d).queue q = { die.queue q with cfg := w }
        ∧ fld w 15 49 = fld (v &&& 0xFFE0FF0000000000) 15 49 ∧ (fits → fld w 0 15 = fld v 0 15)
        ∧ (¬ fits → fld w 0 15 = fld (die.queue q).cfg 0 15))
    ∧ (∀ (i row : Nat) (e : StrandEntry), n = 0x87 → i = fldN die.stsel 0 13 → row = fldN die.stsel 16 4 →
      e = Sparse.get die.strands i StrandEntry.reset →
      (e.isLive = true → e.isPly = false → row = 6 ∨ row = 7 →
        ∃ t x, exec (.csrw a n) s = .next t ∧ onDie t
          ∧ { t.die d with strands := die.strands, killed := die.killed } = die
          ∧ (∀ j, j ≠ i → Sparse.get (t.die d).strands j StrandEntry.reset = Sparse.get die.strands j StrandEntry.reset)
          ∧ Sparse.get (t.die d).strands i StrandEntry.reset = { e with arenas := x }
          ∧ (∀ j : Fin 2, x.get j = if j.val + 6 = row then v &&& 0x7FFFFFFFFFFFFFFF else e.arenas.get j)
          ∧ ∀ m, m ∈ (t.die d).killed ↔ m ∈ die.killed ∧ ∀ j, j < 3 → v.getLsbD (21 * j + 20) = true → m ≠ fld v (21 * j) 20)
      ∧ (e.isLive = false ∨ e.isPly = true ∨ (row ≠ 6 ∧ row ≠ 7) → ∃ t, exec (.csrw a n) s = .next t ∧ Passed 4 s t))
    ∧ (∀ k, n = 0x8A → k = fldN die.annsel 16 9 * 16 + fldN die.annsel 0 4 → fldN die.annsel 16 9 < 384 → fldN die.annsel 0 4 < 14 →
      ∃ t, exec (.csrw a n) s = .next t ∧ onDie t ∧ { t.die d with ann := die.ann } = die
        ∧ ∀ j, Sparse.get (t.die d).ann j 0 = if j = k then v else Sparse.get die.ann j 0)
    ∧ (∀ vf, n = 0x8C → vf = die.skvf.toNat → vf < 384 →
      ((∀ e, Sparse.get (s.die e).dirs vf [] = []) →
        ∃ t, exec (.csrw a n) s = .next t ∧ onDie t ∧ { t.die d with skcap := die.skcap } = die
          ∧ ∀ j, Sparse.get (t.die d).skcap j 0 = if j = vf then v &&& 0x3FFFFFFF00000000 else Sparse.get die.skcap j 0)
      ∧ ((∃ e, Sparse.get (s.die e).dirs vf [] ≠ []) → ∃ t, exec (.csrw a n) s = .next t ∧ Passed 4 s t))
    ∧ (∀ w, n = 0xA2 → w = ((v &&& 0xBFFFFFFE00000000) ||| (s.peerEntry s.dev.prsel &&& ~~~v &&& 0x4000000000000000)) →
      (w.getLsbD 62 = true ∨ fld w 42 12 = 0#12 ∨ fld w 42 12 &&& ~~~s.dev.portsDown ≠ 0#12 →
        ∃ t, exec (.csrw a n) s = .next t ∧ { t with slots := s.slots, dev := { t.dev with peers := s.dev.peers } } = s ∧ OthersKeep s t
          ∧ ∀ e, t.peerEntry e = if e = s.dev.prsel then w else s.peerEntry e)
      ∧ (fld w 42 12 ≠ 0#12 → fld w 42 12 &&& ~~~s.dev.portsDown = 0#12 →
        ∃ t, exec (.csrw a n) s = .next t ∧ (t.peerEntry s.dev.prsel).getLsbD 62 = true))
    ∧ (∀ (vf : Nat) (i : Fin 8), n = 0xA4 → vf = fldN s.dev.domsel 16 9 → vf < 384 → i.val = fldN s.dev.domsel 0 3 →
      ∃ t, exec (.csrw a n) s = .next t ∧ onVf vf t ∧ { t.vf vf with domain := (s.vf vf).domain } = s.vf vf
        ∧ ∀ j : Fin 8, (t.vf vf).domain.get j = if j = i then v else (s.vf vf).domain.get j)
    ∧ (∀ i : Fin 4, n.toNat = 0xC1 + i.val → Quiet s →
      ∃ t, exec (.csrw a n) s = .next t ∧ onVf s.me.vf t ∧ { t.vf s.me.vf with region := (s.vf s.me.vf).region } = s.vf s.me.vf
        ∧ ∀ j : Fin 4, (t.vf s.me.vf).region.get j = if j = i then v &&& 0x83FFFFFFFFE00000 else (s.vf s.me.vf).region.get j)
    ∧ (n = 0xC0 → Quiet s → (∀ k ∈ s.port, k.vf ≠ s.me.vf) →
      ((∀ e ∈ s.tcache, e.vf ≠ s.me.vf) → ∃ t, exec (.csrw a n) s = .next t ∧ onVf s.me.vf t
          ∧ t.vf s.me.vf = { s.vf s.me.vf with vmroot := v &&& 0x000FFFFFFFFFF000 })
      ∧ ((∃ e ∈ s.tcache, e.vf = s.me.vf) → ∃ t, exec (.csrw a n) s = .next t ∧ HeldBy .csrw s t
          ∧ t.vf s.me.vf = { s.vf s.me.vf with vmroot := v &&& 0x000FFFFFFFFFF000 }
          ∧ ∀ e ∈ t.tcache, e.vf = s.me.vf → e.stale = true)))

/-- R339: `segw` in a privileged slot writes gB : gA to a segment register with bits 117:112 zero, and nothing else.
R333: `ptbw` in a privileged slot with gB bit 63 set makes the logical block map to the physical one, in an entry that maps the block
already, or else in the victim's, which then moves on; with bit 63 clear an entry that maps the block is no longer valid, and without one
nothing of the buffer changes. The current slot passes, and no other core and nothing else of its own core changes.
R336: `invt` of a device or host pointer in a privileged slot with no access of its own under way passes where nothing still uses
a translation of the VF that is stale or is one of the named page, and else waits; no other slot changes either way. Another kind
traps with cause 0x06, and an offset above 2^48 with 0x05. What counts as a user is the model's own (log 20).
The model's own in it: the port and its order (log 3). -/
def Obligations.SegmentAndTranslation : Prop :=
  (∀ (n : BitVec 3) (a b : BitVec 5) (s : State), s.privileged s.cur = true →
    ∃ t, exec (.segw n a b) s = .next t ∧ OnlySlot s.cur s t ∧ PastBy 4 s.me t.me
      ∧ { t.me.placedAs s.me with sg := s.me.sg } = s.me
      ∧ ∀ m, t.me.rsg m = if m = n then (s.rg b &&& 0xFFC0FFFFFFFFFFFF) ++ s.rg a else s.me.rsg m)
  ∧ (∀ (a b : BitVec 5) (s : State), s.privileged s.cur = true →
    ∃ t, exec (.ptbw a b) s = .next t ∧ { t with slots := s.slots, cores := s.cores } = s
      ∧ PastBy 4 s.me t.me ∧ t.me.placedAs s.me = s.me ∧ (∀ e, e ≠ s.cur → t.slot e = s.slot e)
      ∧ (∀ e, e.coreKey ≠ s.cur.coreKey → t.core e = s.core e)
      ∧ { t.core s.cur with ptb := (s.core s.cur).ptb, victim := (s.core s.cur).victim } = s.core s.cur
      ∧ (let lb : BitVec 52 := (s.rg a).setWidth 52
         let maps (i : Fin 64) : Prop := ((s.core s.cur).ptb.get i).valid = true ∧ ((s.core s.cur).ptb.get i).logical = lb
         let new : PtbEntry := { valid := true, logical := lb, physical := (s.rg b).setWidth 52 }
         ((s.rg b).getLsbD 63 = true →
            (t.core s.cur).ptbFind lb = some new
            ∧ ((∃ i, maps i) → (t.core s.cur).victim = (s.core s.cur).victim
                ∧ ∃ i, maps i ∧ (t.core s.cur).ptb = (s.core s.cur).ptb.set i new)
            ∧ ((∀ i, ¬ maps i) → (t.core s.cur).victim = (s.core s.cur).victim + 1
                ∧ (t.core s.cur).ptb = (s.core s.cur).ptb.set (s.core s.cur).victim.toFin new))
          ∧ ((s.rg b).getLsbD 63 = false →
            (t.core s.cur).victim = (s.core s.cur).victim
            ∧ ((∃ i, maps i) → ∃ i, maps i
                ∧ (t.core s.cur).ptb = (s.core s.cur).ptb.set i { (s.core s.cur).ptb.get i with valid := false })
            ∧ ((∀ i, ¬ maps i) → (t.core s.cur).ptb = (s.core s.cur).ptb))))
  ∧ (∀ (a : BitVec 5) (s : State), s.privileged s.cur = true →
    (Quiet s → (s.kindOf (s.rg a) = 4 ∨ s.kindOf (s.rg a) = 6) → fldN (s.rg a) 48 12 = 0 →
      (¬ TranslationInUse s (s.kindOf (s.rg a) == 6) (s.invtPage (s.rg a)) → ∃ t, exec (.invt a) s = .next t ∧ Passed 4 s t)
      ∧ (TranslationInUse s (s.kindOf (s.rg a) == 6) (s.invtPage (s.rg a)) →
          ∃ t, exec (.invt a) s = .next t ∧ HeldBy .invt s t ∧ (∀ e, e ≠ s.cur → t.slot e = s.slot e)
            ∧ { t with slots := s.slots, tcache := s.tcache, port := s.port } = s))
    ∧ (s.kindOf (s.rg a) ≠ 4 → s.kindOf (s.rg a) ≠ 6 → TrapsHere 0x06 s →
        ∃ t, exec (.invt a) s = .next t ∧ TookTrap 0x06 (s.rg a) s t)
    ∧ ((s.kindOf (s.rg a) = 4 ∨ s.kindOf (s.rg a) = 6) → fldN (s.rg a) 48 12 ≠ 0 → TrapsHere 0x05 s →
        ∃ t, exec (.invt a) s = .next t ∧ TookTrap 0x05 (s.rg a) s t))

/-- R89 step 1, R90, R329: `exit` and `yield` leave the rotation, `exit` with its retirement on the agenda, `yield` with the
slots that may issue in this cycle; `halt` leaves it while the wake latch is 0, and otherwise clears the latch and passes.
R91: `ralign 0` is a `nop`; with another count the slot is held while some peer is not held at the same address, and else
goes on at once, and with it every slot whose peers are then all held there, of its peers and of those whose peer it is: the cycles that
the spacing of R60 still keeps each of them from issuing are then the same for all, the most that any of them had left. No other slot
changes.
R334: `wake` of a coordinate of this device, with no access under way, puts the wake's delivery on the agenda and passes;
a coordinate without a cluster traps with cause 0x05.
The model's own in it: the agenda (log 1). -/
def Obligations.WaitingAndWaking : Prop :=
  (∀ s : State,
    (∃ t, exec .exit s = .next t ∧ HeldBy .exiting s t ∧ OnlySlotAgenda s.cur s t
      ∧ t.agenda = s.agenda ++ [.event .slotRetire (.at s.cur)])
    ∧ (∃ (t : State) (others : BitVec 16), exec .yield s = .next t ∧ HeldBy (.yield (s.core s.cur).cycle others) s t ∧ OnlySlot s.cur s t
      ∧ ∀ n : BitVec 4, others.getLsbD n.toNat = (n != s.cur.slot && s.mayIssue (s.cur.at n)))
    ∧ (s.me.wakeLatch = false → ∃ t, exec .halt s = .next t ∧ HeldBy .halt s t ∧ OnlySlot s.cur s t)
    ∧ (s.me.wakeLatch = true → ∃ t, exec .halt s = .next t ∧ OnlySlot s.cur s t ∧ PastBy 4 s.me t.me
        ∧ t.me.placedAs s.me = { s.me with wakeLatch := false }))
  ∧ (∀ (n : BitVec 15) (s : State),
    (n = 0 → ∃ t, exec (.ralign n) s = .next t ∧ Passed 4 s t)
    ∧ (n ≠ 0 →
      let s1 := s.modMe fun x => { x with hold := some (.ralign n (s.core s.cur).cycle) }
      let all := s1.inStep s.cur
      ((∃ w ∈ s.peers s.cur, (s.slot w).heldAt s.me.pc = false) →
        ∃ t, exec (.ralign n) s = .next t ∧ { t with slots := s.slots } = s ∧ HeldBy (.ralign n (s.core s.cur).cycle) s t
          ∧ ∀ w, w ≠ s.cur → w ∉ all → t.slot w = s.slot w)
      ∧ ((∀ w ∈ s.peers s.cur, (s.slot w).heldAt s.me.pc = true) →
        ∃ t, exec (.ralign n) s = .next t ∧ { t with slots := s.slots } = s
          ∧ (∀ w, w = s.cur ∨ (w ∈ s.peers s.cur ∧ s1.alignedAll w = true) → PastBy 4 (s.slot w) (t.slot w))
          ∧ (∀ w ∈ all, { (t.slot w).placedAs (s.slot w) with lastIssue := (s.slot w).lastIssue } = s.slot w)
          ∧ ((∀ w ∈ all, (s.slot w).lastIssue.isSome) →
              ∃ k, (∀ w ∈ all, s.spacing w ≤ k ∧ t.spacing w = k) ∧ ∃ w ∈ all, s.spacing w = k)
          ∧ ∀ w, w ∉ all → t.slot w = s.slot w)))
  ∧ (∀ (a : BitVec 5) (s : State),
    (Quiet s → (Coord.ofBits (s.rg a)).ok = true → fld (s.rg a) 16 9 = s.dev.devno →
      ∃ t, exec (.wake a) s = .next t ∧ OnlySlotAgenda s.cur s t ∧ PastBy 4 s.me t.me ∧ t.me.placedAs s.me = s.me
        ∧ t.agenda = s.agenda ++ [.event .wakeDelivery { EvArg.at (Coord.ofBits (s.rg a)) with vf := s.me.vf }])
    ∧ ((Coord.ofBits (s.rg a)).ok = false → TrapsHere 0x05 s →
      ∃ t, exec (.wake a) s = .next t ∧ TookTrap 0x05 (s.rg a) s t))

/-- R340: `rndk` writes the keyed hash of the counter gB under the key gA to gD, depends on nothing else and changes nothing else. -/
def Obligations.KeyedHashResult : Prop :=
  ∀ (d a b : BitVec 5) (s : State),
    let x := (List.range 6).foldl (fun (x : Dword × Dword) _ =>
      let y := x.1 + x.2
      let z := (y ^^^ (y >>> 31)) * 0xBF58476D1CE4E5B9
      (z.rotateRight 27, x.2 + 0x9E3779B97F4A7C15)) (s.rg b, s.rg a)
    ∃ t, exec (.rndk d a b) s = .next t ∧ WroteG 4 d (x.1 ^^^ (x.1 >>> 33)) s t

/-- R341: `clkr` writes the issuing die's clock to gD and changes nothing else. -/
def Obligations.ClockRead : Prop :=
  ∀ (d : BitVec 5) (s : State), ∃ t, exec (.clkr d) s = .next t ∧ WroteG 4 d (BitVec.ofNat 64 (s.clock.get s.cur.die.toFin)) s t

namespace Sys2Proof.Machine

/-! ## Accesses -/

/-- An instruction with its prefix, if it has one: the prefix's 26 bits and the follower's word (R42). -/
def runWith (x : Option (BitVec 26 × Word)) (i : Instr) (s : State) : Res :=
  match x with
  | none => exec i s
  | some (x, f) => exec (.ximm x f) s

/-- The prefix may stand before the instruction: its follower's word decodes to the instruction. -/
def prefixFits (x : Option (BitVec 26 × Word)) (i : Instr) : Prop :=
  match x with
  | none => True
  | some (x, f) => x ≠ BitVec.allOnes 26 ∧ decodeWord f = some i

/-- The length in bytes (R43). -/
def lengthWith (x : Option (BitVec 26 × Word)) : Nat := if x.isSome then 8 else 4

/-- The pointer of an M-form access of `size` bytes (R39, R42, R126). -/
def mPtr (s : State) (x : Option (BitVec 26 × Word)) (a : BitVec 5) (f : BitVec 11) (size : Nat) : Dword :=
  pcPlus (s.rg a) (match x with
    | none => f.signExtend 60 * BitVec.ofNat 60 size
    | some (x, _) => (x ++ f).signExtend 60 * BitVec.ofNat 60 size)

/-- The dies that hold the bytes of an access accept it, and note nothing new of its strand (R249): so it is on the slot's own die, for
strand 0, and for a strand that is live there and keeps its allowance. -/
def Accepted (s : State) (pl : Place) : Prop :=
  ∀ a ∈ pl.addrs, ∀ d, homeDie a = some d → s.cross s.cur.die (BitVec.ofNat 3 d) false s.me.strand s.me.vf pl.xcl = (s, true)

/-- The access at `p` names the bytes of `pl` on this device or its host, and their homes accept and do not refuse it (R145, R146,
R249). -/
def Granted (s : State) (p : Dword) (n : Nat) (rights : BitVec 4) (pl : Place) : Prop :=
  s.dataPlace s.cur p n rights = .ok pl ∧ pl.peer = none ∧ Accepted s pl ∧ firstRefused s.mem s.cur.clusterKey pl.addrs = none

/-- The state once the earlier accesses of the slot that may touch the bytes have performed, as far as they can (R297, R299). -/
def settled (s : State) (pl : Place) : State := if s.pendingAt pl then s.drain s.cur else s

/-- The state in which an access is at its homes, and whether they accept it (R249). -/
def atHomes (s : State) (pl : Place) : State × Bool := s.crossAll s.cur s.me.strand s.me.vf pl.xcl pl.addrs

/-- A loaded value in a 64-bit register by its sz (R39, R148). -/
def loadedValue (z : BitVec 3) (bytes : List Byte) : Dword :=
  match z with
  | 0 => (BitVec.ofNat 8 (leNat bytes)).setWidth 64
  | 1 => (BitVec.ofNat 8 (leNat bytes)).signExtend 64
  | 2 => (BitVec.ofNat 16 (leNat bytes)).setWidth 64
  | 3 => (BitVec.ofNat 16 (leNat bytes)).signExtend 64
  | 4 => (BitVec.ofNat 32 (leNat bytes)).setWidth 64
  | 5 => (BitVec.ofNat 32 (leNat bytes)).signExtend 64
  | _ => BitVec.ofNat 64 (leNat bytes)

/-- Only the current slot and what the caches hold differ. -/
def OnlyMeAndCaches (s t : State) : Prop :=
  { t with slots := s.slots, mem := s.mem } = s ∧ SameBytes s.mem t.mem ∧ ∀ e, e ≠ s.cur → t.slot e = s.slot e

/-- The byte at `a` after bytes are stored at addresses, in order, over memory `m`. -/
def byteAfter (m : Memory) (addrs : List Nat) (bytes : List Byte) (a : Nat) : Byte :=
  (((addrs.zip bytes).reverse.find? (·.1 == a)).map (·.2)).getD (m.byte a)

/-- Memory `n` is `m` after one store of bytes at addresses with a tag: those bytes, the tag of every word touched (R133),
and nothing else of the bytes, tags, full/empty states and owners. -/
def StoredAt (addrs : List Nat) (bytes : List Byte) (tag : BitVec 2) (m n : Memory) : Prop :=
  (∀ a, n.byte a = byteAfter m addrs bytes a)
    ∧ (∀ a, n.tag a = if a < hostBase ∧ ∃ b ∈ addrs, b / 8 = a / 8 then tag else m.tag a)
    ∧ n.full = m.full ∧ n.owner = m.owner

/-- The parts of a store of R148 and R152: base register, offset, size, rel, the bytes, the tag (R133, R134), and whether it
is an 8-byte store, which disarms `c.stag`. -/
def storeForm (s : State) (x : Option (BitVec 26 × Word)) :
    Instr → Option (BitVec 5 × BitVec 11 × Nat × Bool × List Byte × BitVec 2 × Bool)
  | .st d a z q f =>
    let size := 2 ^ (z.toNat / 2)
    let p := mPtr s x a f size
    some (a, f, size, q == 1, (List.range size).map (fun j => (s.rg d).extractLsb' (8 * j) 8),
      if size = 8 then s.storeTag p (s.rg d) else 0, size == 8)
  | .vst d a q f => some (a, f, 64, q == 1, (List.range 64).map (fun j => (s.rv d).extractLsb' (8 * j) 8), 0, false)
  | _ => none

/-- The slot after a store of R148 or R152 is sent or done: past it, with `c.stag` disarmed by an 8-byte scalar store. -/
def StorePassed (n : Nat) (disarms : Bool) (x y : Slot) : Prop :=
  PastBy n x y ∧ y.placedAs x = { x with stag := if disarms then x.stag &&& 3 else x.stag }

end Sys2Proof.Machine

/-- R148, R151, R152: a load whose pointer is aligned and whose bytes no home refuses writes them to its register, zero- or
sign-extended by its form. Earlier posted accesses of the slot that touch the bytes perform first (R297), and the dies that hold the
bytes receive it (R249): `s1`. No byte of memory and nothing else changes. That every earlier packet of the slot performs before the
load, where one touches its bytes, is the model's reading (log 2).
R145 step 1, R146, R249: a load whose pointer is misaligned traps with cause 0x04 and the pointer; one whose bytes a home
refuses traps with the home's cause; one that a die drops on its way leaves its slot without an answer (the model's reading, log
2). -/
def Obligations.LoadResultAndTraps : Prop :=
  (∀ (x : Option (BitVec 26 × Word)) (a : BitVec 5) (q : BitVec 1) (f : BitVec 11) (s : State) (pl : Place),
    (∀ (d : BitVec 5) (z : BitVec 3), prefixFits x (.ld d a z q f) → (mPtr s x a f (2 ^ (z.toNat / 2))).toNat % 2 ^ (z.toNat / 2) = 0 →
      let s1 := (atHomes (settled s pl) pl).1
      s.dataPlace s.cur (mPtr s x a f (2 ^ (z.toNat / 2))) (2 ^ (z.toNat / 2)) rightR = .ok pl → pl.peer = none →
      (settled s pl).pendingAt pl = false → (atHomes (settled s pl) pl).2 = true →
      firstRefused s1.mem s1.cur.clusterKey pl.addrs = none →
      ∃ t, runWith x (.ld d a z q f) s = .next t ∧ OnlyMeAndCaches s1 t ∧ PastBy (lengthWith x) s1.me t.me
        ∧ { t.me.placedAs s1.me with g := s1.me.g } = s1.me
        ∧ ∀ r, t.rg r = if r = d ∧ r ≠ 0 then loadedValue z (pl.addrs.map s1.mem.byte) else s1.rg r)
    ∧ (∀ (d : BitVec 3), prefixFits x (.ldk d a q f) → (mPtr s x a f 8).toNat % 8 = 0 →
      let s1 := (atHomes (settled s pl) pl).1
      s.dataPlace s.cur (mPtr s x a f 8) 8 rightR = .ok pl → pl.peer = none →
      (settled s pl).pendingAt pl = false → (atHomes (settled s pl) pl).2 = true →
      firstRefused s1.mem s1.cur.clusterKey pl.addrs = none →
      ∃ t, runWith x (.ldk d a q f) s = .next t ∧ OnlyMeAndCaches s1 t ∧ PastBy (lengthWith x) s1.me t.me
        ∧ { t.me.placedAs s1.me with k := s1.me.k } = s1.me
        ∧ ∀ r, t.rk r = if r = d ∧ r ≠ 0 then loadedValue 6 (pl.addrs.map s1.mem.byte) else s1.rk r)
    ∧ (∀ (d : BitVec 5), prefixFits x (.vld d a q f) → (mPtr s x a f 64).toNat % 64 = 0 →
      let s1 := (atHomes (settled s pl) pl).1
      s.dataPlace s.cur (mPtr s x a f 64) 64 rightR = .ok pl → pl.peer = none →
      (settled s pl).pendingAt pl = false → (atHomes (settled s pl) pl).2 = true →
      firstRefused s1.mem s1.cur.clusterKey pl.addrs = none →
      ∃ t, runWith x (.vld d a q f) s = .next t ∧ OnlyMeAndCaches s1 t ∧ PastBy (lengthWith x) s1.me t.me
        ∧ { t.me.placedAs s1.me with v := s1.me.v } = s1.me
        ∧ ∀ r, t.rv r = if r = d then BitVec.ofNat 512 (leNat (pl.addrs.map s1.mem.byte)) else s1.rv r))
  ∧ (∀ (d a : BitVec 5) (z : BitVec 3) (q : BitVec 1) (f : BitVec 11) (s : State),
    let p := mPtr s none a f (2 ^ (z.toNat / 2))
    (p.toNat % 2 ^ (z.toNat / 2) ≠ 0 → TrapsHere 0x04 s → ∃ t, exec (.ld d a z q f) s = .next t ∧ TookTrap 0x04 p s t)
    ∧ (p.toNat % 2 ^ (z.toNat / 2) = 0 → ∀ (cause : BitVec 8) (v : Dword),
        s.dataPlace s.cur p (2 ^ (z.toNat / 2)) rightR = .error (.trap cause v) → TrapsHere cause s →
        ∃ t, exec (.ld d a z q f) s = .next t ∧ TookTrap cause v s t)
    ∧ (p.toNat % 2 ^ (z.toNat / 2) = 0 → Quiet s → ∀ (pl : Place) (cause : BitVec 8) (j : Nat),
        s.dataPlace s.cur p (2 ^ (z.toNat / 2)) rightR = .ok pl → pl.peer = none → Accepted s pl →
        firstRefused s.mem s.cur.clusterKey pl.addrs = some (cause, j) → TrapsHere cause s →
        ∃ t, exec (.ld d a z q f) s = .next t ∧ TookTrap cause p s t)
    ∧ (p.toNat % 2 ^ (z.toNat / 2) = 0 → Quiet s → ∀ pl : Place,
        s.dataPlace s.cur p (2 ^ (z.toNat / 2)) rightR = .ok pl → pl.peer = none → (atHomes s pl).2 = false →
        ∃ t, exec (.ld d a z q f) s = .next t ∧ HeldBy .dropped (atHomes s pl).1 t ∧ OnlySlot s.cur (atHomes s pl).1 t))

/-- R144, R148, R152: a store that is not waited for leaves every byte of memory and puts one packet behind the others of the
port: the form's bytes for the addresses that its pointer resolves to, with its tag. With rel the slot has nothing posted. Packets of the slot to peers that were free to leave have left: `s0`.
The model's own in it: the port and its order (log 3), the agenda (log 1). -/
def Obligations.StoreIsPosted : Prop :=
  ∀ (x : Option (BitVec 26 × Word)) (i : Instr) (s : State) (a : BitVec 5) (f : BitVec 11) (size : Nat) (rel : Bool)
    (bytes : List Byte) (tag : BitVec 2) (disarms : Bool) (pl : Place),
    prefixFits x i → storeForm s x i = some (a, f, size, rel, bytes, tag, disarms) →
    (mPtr s x a f size).toNat % size = 0 → s.dataPlace s.cur (mPtr s x a f size) size rightW = .ok pl → pl.peer = none →
    pl.addrs ≠ [] → pl.waited = false → (rel = true → Quiet s) →
    let s0 := s.pump s.cur
    ∃ t, runWith x i s = .next t ∧ { t with slots := s0.slots, port := s0.port, agenda := s0.agenda } = s0
      ∧ (∀ e, e ≠ s.cur → t.slot e = s.slot e) ∧ StorePassed (lengthWith x) disarms s.me t.me
      ∧ (∀ b, t.mem.byte b = s.mem.byte b)
      ∧ ∃ p, t.port = s0.port ++ [p] ∧ p.coord = s.cur ∧ p.vf = s.me.vf ∧ p.strand = s.me.strand ∧ p.ptr = mPtr s x a f size
          ∧ p.held = false ∧ p.task = .present ∧ p.op = .store (pl.addrs.zip bytes) tag ∧ p.route = .here (pl.addrs.headD 0)
          ∧ t.agenda = s.agenda ++ [.event (if pl.xcl then .xclusterAccess else .storePerform) (.at s.cur)]

/-- R146: under policy 11, a store of a reference that has bit 60 clear into a published line traps with cause 0x08 and
leaves memory, with the refused value in `c.escv`.
R137, R148, R152: under policy 11 a store performs before the slot goes on: memory holds the form's bytes at the addresses
that its pointer resolves to, with the tag in every word touched, and every other byte as before.
The model's own in it: the agenda (log 1). -/
def Obligations.WaitedStoreAndEscape : Prop :=
  (∀ (d a : BitVec 5) (f : BitVec 11) (s : State) (pl : Place), Quiet s →
    (mPtr s none a f 8).toNat % 8 = 0 → Granted s (mPtr s none a f 8) 8 rightW pl → pl.waited = true →
    s.storeTag (mPtr s none a f 8) (s.rg d) = 1 → (s.rg d).getLsbD 60 = false → s.mem.ownerOf (pl.addrs.headD 0) = none →
    pl.addrs.headD 0 < hostBase → TrapsHere 0x08 s →
    ∃ t, exec (.st d a 6 0 f) s = .next t ∧ OnlySlot s.cur s t
      ∧ t.me = { s.me with
          cause := 0x08, tval := mPtr s none a f 8, epc := s.me.pc, pc := s.me.tvec, frame := none, hold := none, pfCount := 0
          cappPos := none, elems := [], status := (if s.privileged s.cur then 7 else 5), escv := s.rg d })
  ∧ (∀ (x : Option (BitVec 26 × Word)) (i : Instr) (s : State) (a : BitVec 5) (f : BitVec 11) (size : Nat) (rel : Bool)
    (bytes : List Byte) (tag : BitVec 2) (disarms : Bool) (pl : Place), s.mem.wf = true → Quiet s →
    prefixFits x i → storeForm s x i = some (a, f, size, rel, bytes, tag, disarms) →
    (mPtr s x a f size).toNat % size = 0 → Granted s (mPtr s x a f size) size rightW pl → pl.addrs ≠ [] →
    pl.waited = true → escapes s.mem pl.addrs tag (if disarms then leDword bytes else 0) = false →
    ∃ t, runWith x i s = .next t ∧ OnlySlotMem s.cur s t ∧ StorePassed (lengthWith x) disarms s.me t.me
      ∧ StoredAt pl.addrs bytes tag s.mem t.mem)

/-- R149: an `ldf` whose word is full, with no earlier waiter for the same, takes the value and leaves the word empty; an
`ste` whose word is empty stores and leaves it full.
The model's own in it: the agenda (log 1). -/
def Obligations.FullEmptyAccess : Prop :=
  ∀ (d a : BitVec 5) (f : BitVec 11) (s : State) (pl : Place), s.mem.wf = true → Quiet s → pl.addrs ≠ [] →
    (∀ w ∈ s.feq, w.word ≠ pl.addrs.headD 0 / 8) →
    (∀ z : BitVec 2, z.toNat ≤ 2 → s.kindOf (mPtr s none a f (if z = 2 then 8 else 4)) ∉ [4#4, 5#4, 6#4] →
      (mPtr s none a f (if z = 2 then 8 else 4)).toNat % (if z = 2 then 8 else 4) = 0 →
      Granted s (mPtr s none a f (if z = 2 then 8 else 4)) (if z = 2 then 8 else 4) 12 pl →
      s.mem.isFull (pl.addrs.headD 0) = true →
      ∃ t, exec (.ldf d a z f) s = .next t ∧ OnlySlotMem s.cur s t ∧ PastBy 4 s.me t.me
        ∧ { t.me.placedAs s.me with g := s.me.g } = s.me
        ∧ (∀ r, t.rg r = if r = d ∧ r ≠ 0 then
            loadedValue ((1#1) ++ z) (s.mem.read (pl.addrs.headD 0) (if z = 2 then 8 else 4)) else s.rg r)
        ∧ (∀ b, t.mem.byte b = s.mem.byte b)
        ∧ ∀ b, t.mem.isFull b = if b / 8 = pl.addrs.headD 0 / 8 then false else s.mem.isFull b)
    ∧ (∀ z : BitVec 1, s.kindOf (mPtr s none a f (if z = 1 then 8 else 4)) ∉ [4#4, 5#4, 6#4] →
      (mPtr s none a f (if z = 1 then 8 else 4)).toNat % (if z = 1 then 8 else 4) = 0 →
      Granted s (mPtr s none a f (if z = 1 then 8 else 4)) (if z = 1 then 8 else 4) 4 pl →
      s.mem.isFull (pl.addrs.headD 0) = false →
      ∃ t, exec (.ste d a z f) s = .next t ∧ OnlySlotMem s.cur s t ∧ PastBy 4 s.me t.me ∧ t.me.placedAs s.me = s.me
        ∧ (∀ b, t.mem.byte b = byteAfter s.mem ((List.range (if z = 1 then 8 else 4)).map (pl.addrs.headD 0 + ·))
            ((List.range (if z = 1 then 8 else 4)).map fun j => (s.rg d).extractLsb' (8 * j) 8) b)
        ∧ ∀ b, t.mem.isFull b = if b / 8 = pl.addrs.headD 0 / 8 then true else s.mem.isFull b)

namespace Sys2Proof.Machine

/-! ## Atomics, elements, lines and fences -/

/-- The parts of a scalar atomic (R150): operation, destination, base, operand, type, order. -/
def atomicForm : Instr → Option (Nat × BitVec 5 × BitVec 5 × BitVec 5 × BitVec 2 × BitVec 2)
  | .aswp d a b t o => some (0, d, a, b, t, o)
  | .aadd d a b t o => some (1, d, a, b, t, o)
  | .aand d a b t o => some (2, d, a, b, t, o)
  | .aor d a b t o => some (3, d, a, b, t, o)
  | .axor d a b t o => some (4, d, a, b, t, o)
  | .amin d a b t o => some (5, d, a, b, t, o)
  | .amax d a b t o => some (6, d, a, b, t, o)
  | .aminu d a b t o => some (7, d, a, b, t, o)
  | .amaxu d a b t o => some (8, d, a, b, t, o)
  | .cas d a b t o => some (9, d, a, b, t, o)
  | _ => none

/-- The new value of R150 on `w` bits, for operations other than `cas`. -/
def atomicValue (w : Nat) (fn : Nat) (old x : BitVec w) : BitVec w :=
  match fn with
  | 0 => x
  | 1 => old + x
  | 2 => old &&& x
  | 3 => old ||| x
  | 4 => old ^^^ x
  | 5 => if x.slt old then x else old
  | 6 => if old.slt x then x else old
  | 7 => if x.ult old then x else old
  | _ => if old.ult x then x else old

/-- The active elements of a mask among the first n(T), ascending (R97). -/
def activeEls (t : BitVec 4) (mask : Dword) : List Nat := (List.range (elemCount t)).filter fun i => mask.getLsbD i

/-- Element `i` of width `w` (R96). -/
def element (w : Nat) (v : VReg) (i : Nat) : Nat := (v >>> (i * w)).toNat % 2 ^ w

/-- The pointer of element `i` of an element-wise access (R153 to R155): consecutive, or at the offsets of a register. -/
def elPtr (s : State) (a : BitVec 5) (offs : Option (BitVec 5)) (t : BitVec 4) (i : Nat) : Dword :=
  pcPlus (s.rg a) (match offs with
    | none => BitVec.ofNat 60 (i * (elemWidth t / 8))
    | some b => BitVec.ofNat 60 (element (elemWidth t) (s.rv b) i))

/-- The parts of an element-wise load or store: base, offsets, mask, type, data register, and whether it loads. -/
def elemForm : Instr → Option (BitVec 5 × Option (BitVec 5) × BitVec 3 × BitVec 4 × BitVec 5 × Bool)
  | .vldMasked d a k t => some (a, none, k, t, d, true)
  | .vgather d a b k t => some (a, some b, k, t, d, true)
  | .vstMasked d a k t => some (a, none, k, t, d, false)
  | .vscatter d a b k t => some (a, some b, k, t, d, false)
  | _ => none

/-- The parts of a vector atomic (R155): base, operand, mask, type, operation. -/
def vatomicForm : Instr → Option (BitVec 5 × BitVec 5 × BitVec 3 × BitVec 4 × BitVec 4)
  | .vaadd a b k t => some (a, b, k, t, 4)
  | .vamin a b k t => some (a, b, k, t, 5)
  | .vamax a b k t => some (a, b, k, t, 6)
  | .vaand a b k t => some (a, b, k, t, 7)
  | .vaor a b k t => some (a, b, k, t, 8)
  | .vaxor a b k t => some (a, b, k, t, 9)
  | _ => none

/-- The pairs of address and operand that a vector atomic packet carries. -/
def Packet.atomEls (p : Packet) : List (Nat × Dword) :=
  match p.op with
  | .vatomic _ _ l => l
  | _ => []

end Sys2Proof.Machine

/-- R150, R133: an atomic of `w` bits that no home refuses returns the old bits in gD, sign- or zero-extended, and leaves the
operation's value in memory with tag 00 (the reference rule for a 64-bit `aswp`), in one step; every other byte is as before.
R150: `cas` stores gB where the old bits equal gD and else changes no byte and no tag; gD gets the old bits.
The model's own in it: the agenda (log 1). -/
def Obligations.ScalarAtomicResult : Prop :=
  (∀ (i : Instr) (fn : Nat) (d a b : BitVec 5) (t o : BitVec 2) (s : State) (pl : Place) (w : Nat),
    atomicForm i = some (fn, d, a, b, t, o) → fn ≠ 9 → s.mem.wf = true → Quiet s → w = (if t = 2 then 64 else 32) →
    (s.rg a).toNat % (w / 8) = 0 → (s.kindOf (s.rg a) = 6 → (fn = 0 ∨ fn = 1) ∧ t ≠ 1) →
    Granted s (s.rg a) (w / 8) 13 pl → pl.addrs.length = w / 8 →
    (pl.policy = 3 → escapes s.mem pl.addrs (s.atomicTag fn t (s.rg a) (s.rg b)) (s.rg b) = false) →
    let old : BitVec w := BitVec.ofNat w (leNat (pl.addrs.map s.mem.byte))
    let new : BitVec w := atomicValue w fn old ((s.rg b).setWidth w)
    ∃ t', exec i s = .next t' ∧ OnlySlotMem s.cur s t' ∧ PastBy 4 s.me t'.me ∧ { t'.me.placedAs s.me with g := s.me.g } = s.me
      ∧ (∀ r, t'.rg r = if r = d ∧ r ≠ 0 then (if t = 1 then old.signExtend 64 else old.setWidth 64) else s.rg r)
      ∧ StoredAt pl.addrs ((List.range (w / 8)).map fun j => new.extractLsb' (8 * j) 8)
          (s.atomicTag fn t (s.rg a) (s.rg b)) s.mem t'.mem)
  ∧ (∀ (d a b : BitVec 5) (t o : BitVec 2) (s : State) (pl : Place) (w : Nat),
    s.mem.wf = true → Quiet s → w = (if t = 2 then 64 else 32) → (s.rg a).toNat % (w / 8) = 0 →
    (s.kindOf (s.rg a) = 6 → t ≠ 1) → Granted s (s.rg a) (w / 8) 13 pl → pl.addrs.length = w / 8 →
    let old : BitVec w := BitVec.ofNat w (leNat (pl.addrs.map s.mem.byte))
    (pl.policy = 3 → old = (s.rg d).setWidth w →
      escapes s.mem pl.addrs (s.atomicTag 9 t (s.rg a) (s.rg b)) (s.rg b) = false) →
    ∃ t', exec (.cas d a b t o) s = .next t' ∧ OnlySlotMem s.cur s t' ∧ PastBy 4 s.me t'.me
      ∧ { t'.me.placedAs s.me with g := s.me.g } = s.me
      ∧ (∀ r, t'.rg r = if r = d ∧ r ≠ 0 then (if t = 1 then old.signExtend 64 else old.setWidth 64) else s.rg r)
      ∧ (old = (s.rg d).setWidth w →
          StoredAt pl.addrs ((List.range (w / 8)).map fun j => (s.rg b).extractLsb' (8 * j) 8)
            (s.atomicTag 9 t (s.rg a) (s.rg b)) s.mem t'.mem)
      ∧ (old ≠ (s.rg d).setWidth w → t'.mem = s.mem))

/-- R153, R154: an element-wise store with every active element resolved and none waited for posts one packet per active
element, in ascending order, each with the element's bytes at its own addresses and tag 00; no byte of memory changes. (No packet of the slot to a peer is about to
leave.) That each active element has a packet of its own is the model's reading (log 19).
R155: a vector atomic with every active element resolved on this device and none waited for posts packets that together
carry every active element once, with its address and its operand, each packet within one line; no byte of memory changes. (No part of
the instruction has been made already, and no packet of the slot to a peer is about to leave.)
The model's own in it: the port and its order (log 3), the agenda (log 1). -/
def Obligations.ElementStoresArePosted : Prop :=
  (∀ (i : Instr) (a d : BitVec 5) (offs : Option (BitVec 5)) (k : BitVec 3) (t : BitVec 4) (s : State) (pls : Nat → Place),
    elemForm i = some (a, offs, k, t, d, false) → i.wf = true → s.pump s.cur = s →
    (offs = none → (s.rg a).toNat % (elemWidth t / 8) = 0) →
    (∀ j ∈ activeEls t (s.rk k), (elPtr s a offs t j).toNat % (elemWidth t / 8) = 0
      ∧ s.dataPlace s.cur (elPtr s a offs t j) (elemWidth t / 8) rightW = .ok (pls j) ∧ (pls j).peer = none
      ∧ (pls j).waited = false ∧ (pls j).addrs ≠ []) →
    ∃ t', exec i s = .next t' ∧ { t' with slots := s.slots, port := s.port, agenda := s.agenda } = s
      ∧ (∀ e, e ≠ s.cur → t'.slot e = s.slot e) ∧ PastBy 4 s.me t'.me ∧ t'.me.placedAs s.me = s.me
      ∧ (∀ b, t'.mem.byte b = s.mem.byte b)
      ∧ ∃ ps, t'.port = s.port ++ ps ∧ (∀ p ∈ ps, p.coord = s.cur)
          ∧ ps.map (·.op) = (activeEls t (s.rk k)).map fun j =>
              .store ((pls j).addrs.zip ((List.range (elemWidth t / 8)).map fun n =>
                BitVec.ofNat 8 (element (elemWidth t) (s.rv d) j / 256 ^ n))) 0)
  ∧ (∀ (i : Instr) (a b : BitVec 5) (k : BitVec 3) (t fn : BitVec 4) (s : State) (pls : Nat → Place),
    vatomicForm i = some (a, b, k, t, fn) → i.wf = true → (s.rg a).toNat % (elemWidth t / 8) = 0 → s.kindOf (s.rg a) ≠ 6 →
    s.me.elems = [] → s.pump s.cur = s →
    (∀ j ∈ activeEls t (s.rk k), s.dataPlace s.cur (elPtr s a none t j) (elemWidth t / 8) 13 = .ok (pls j)
      ∧ (pls j).peer = none ∧ (pls j).waited = false) →
    ∃ t', exec i s = .next t' ∧ { t' with slots := s.slots, port := s.port, agenda := s.agenda } = s
      ∧ (∀ e, e ≠ s.cur → t'.slot e = s.slot e) ∧ PastBy 4 s.me t'.me ∧ t'.me.placedAs s.me = s.me
      ∧ (∀ c, t'.mem.byte c = s.mem.byte c)
      ∧ ∃ ps, t'.port = s.port ++ ps
          ∧ (∀ p ∈ ps, p.coord = s.cur ∧ p.op = .vatomic t fn p.atomEls ∧ ∀ e ∈ p.atomEls, ∀ e' ∈ p.atomEls, e.1 / 128 = e'.1 / 128)
          ∧ (ps.flatMap Packet.atomEls).Perm ((activeEls t (s.rk k)).map fun j =>
              ((pls j).addrs.headD 0, BitVec.ofNat 64 (element (elemWidth t) (s.rv b) j))))

/-- R156: `zline` of a line that no home refuses leaves it zero with tags 00 and empty states, PRIVATE to the issuing cluster
under policy 11, but for a line of a page in host bias (R365), and published otherwise; every other line keeps its bytes. That the
segment's policy 11 stands for the page's where the kind is not paged is the model's choice (log 92). `flush` and `pref` change no byte,
tag or state, and `flush` makes the home hold what the cluster's PRIVATE copy holds. That a `flush` of a line PRIVATE to another cluster traps
with cause 0x07 is the model's reading (log 35).
The model's own in it: the agenda (log 1). -/
def Obligations.LineInstructions : Prop :=
  ∀ (a : BitVec 5) (s : State) (pl : Place), s.mem.wf = true → Quiet s → (s.rg a).toNat % 128 = 0 → pl.addrs ≠ [] →
    (Granted s (s.rg a) 128 rightW pl →
      ∃ t, exec (.zline a) s = .next t ∧ OnlySlotMem s.cur s t ∧ PastBy 4 s.me t.me ∧ t.me.placedAs s.me = s.me
        ∧ (∀ b, t.mem.byte b = if b / 128 = pl.addrs.headD 0 / 128 then 0 else s.mem.byte b)
        ∧ (∀ b, t.mem.tag b = if b / 128 = pl.addrs.headD 0 / 128 then 0 else s.mem.tag b)
        ∧ (∀ b, t.mem.isFull b = if b / 128 = pl.addrs.headD 0 / 128 then false else s.mem.isFull b)
        ∧ ∀ b, t.mem.ownerOf b = if b / 128 = pl.addrs.headD 0 / 128 then 
              (if pl.policy = 3 ∧ s.mem.hostBiased (b / 128) = false then some s.cur.clusterKey else none)
            else s.mem.ownerOf b)
    ∧ (s.dataPlace s.cur (s.rg a) 128 rightR = .ok pl → pl.peer = none → Accepted s pl →
      ((∀ c, s.mem.ownerOf (pl.addrs.headD 0) = some c → c = s.cur.clusterKey) →
        ∃ t, exec (.flush a) s = .next t ∧ { t with slots := s.slots, mem := s.mem } = s ∧ SameBytes s.mem t.mem
          ∧ (∀ e, e ≠ s.cur → t.slot e = s.slot e) ∧ PastBy 4 s.me t.me ∧ t.me.placedAs s.me = s.me
          ∧ ∀ b, b / 128 = pl.addrs.headD 0 / 128 → cellGet t.mem.cells b = s.mem.byte b)
      ∧ ∀ c, s.mem.ownerOf (pl.addrs.headD 0) = some c → c ≠ s.cur.clusterKey → TrapsHere 0x07 s →
          ∃ t, exec (.flush a) s = .next t ∧ TookTrap 0x07 (s.rg a) s t)
    ∧ ∃ t, exec (.pref a) s = .next t ∧ OnlyMeAndCaches s t ∧ PastBy 4 s.me t.me ∧ t.me.placedAs s.me = s.me

/-- R307, R293: a fence of a slot with nothing posted passes; one of sys scope with a recorded remote fault traps with cause
0x0B or 0x0A and the recorded pointer. One with the st kind drops from the instruction cache of its cluster the blocks of the peer path,
numbered from 2^60, whose home its scope contains, and a slot of the cluster that waits for such a block is to fetch it again (R302, log
76): in sys scope every device's, in die and device scope those fetched from this device's own number, which may lie on its dies (R289,
R298). No other cluster and nothing else of its own changes. -/
def Obligations.FenceResult : Prop :=
  ∀ (k : BitVec 2) (c : BitVec 3) (s : State), Quiet s →
    (k.getLsbD 0 = false ∨ c.toNat < 2 → (c = 4 → s.me.rfault.getLsbD 63 = false) →
      ∃ t, exec (.fence k c) s = .next t ∧ Passed 4 s t)
    ∧ (2 ≤ c.toNat → (c = 4 → s.me.rfault.getLsbD 63 = false) → k.getLsbD 0 = true →
      ∃ t, exec (.fence k c) s = .next t ∧ { t with slots := s.slots, clusters := s.clusters } = s
        ∧ (∀ e, e ≠ s.cur → t.slot e =
            match (s.slot e).hold with
            | some (.load .fetchBlockDelivery p dev) =>
              if e.clusterKey = s.cur.clusterKey ∧ (c = 4 ∨ dev = s.dev.devno) then { s.slot e with hold := some (.refetch p dev) }
              else s.slot e
            | _ => s.slot e)
        ∧ PastBy 4 s.me t.me ∧ t.me.placedAs s.me = s.me
        ∧ ∀ e : Coord, { t.cluster e with icache := (s.cluster e).icache } = s.cluster e
          ∧ (e.clusterKey ≠ s.cur.clusterKey → t.cluster e = s.cluster e)
          ∧ (e.clusterKey = s.cur.clusterKey → (t.cluster e).icache = (s.cluster e).icache.filter fun b =>
              decide (b.1 < 2 ^ 60 ∨ ¬ (c = 4 ∨ BitVec.ofNat 9 ((b.1 - 2 ^ 60) / 2 ^ 43) = s.dev.devno))))
    ∧ (c = 4 → s.me.rfault.getLsbD 63 = true → ∀ cause : BitVec 8,
        cause = (if fld s.me.rfault 48 8 = 0x0B#8 then 0x0B else 0x0A) → TrapsHere cause s →
        ∃ t, exec (.fence k c) s = .next t ∧ TookTrap cause s.me.rfptr s t)

/-- R153, R154, R97: an element-wise load with every active element granted writes those elements and keeps the others; the
memory and everything else stay.
R123: `dtload` of a granted image replaces the core's table A or B: entry n is bits 18:0 of word n. -/
def Obligations.ElementAndTableLoad : Prop :=
  (∀ (i : Instr) (a d : BitVec 5) (offs : Option (BitVec 5)) (k : BitVec 3) (t : BitVec 4) (s : State) (pls : Nat → Place),
    elemForm i = some (a, offs, k, t, d, true) → i.wf = true → Quiet s →
    (offs = none → (s.rg a).toNat % (elemWidth t / 8) = 0) →
    (∀ j ∈ activeEls t (s.rk k), (elPtr s a offs t j).toNat % (elemWidth t / 8) = 0
      ∧ Granted s (elPtr s a offs t j) (elemWidth t / 8) rightR (pls j) ∧ (pls j).addrs.length = elemWidth t / 8) →
    ∃ t', exec i s = .next t' ∧ ∃ v, WroteV 4 d v s t'
      ∧ ∀ j, j < elemCount t → element (elemWidth t) v j =
          if (s.rk k).getLsbD j then leNat ((pls j).addrs.map s.mem.byte) else element (elemWidth t) (s.rv d) j)
  ∧ (∀ (x : BitVec 1) (a : BitVec 5) (s : State) (pl : Place), Quiet s → (s.rg a).toNat % 64 = 0 → s.kindOf (s.rg a) ≠ 5 →
    Granted s (s.rg a) 1024 rightR pl → pl.addrs.length = 1024 →
    ∃ t, exec (.dtload x a) s = .next t ∧ { t with slots := s.slots, cores := s.cores, mem := s.mem } = s
      ∧ SameBytes s.mem t.mem ∧ PastBy 4 s.me t.me ∧ t.me.placedAs s.me = s.me ∧ (∀ e, e ≠ s.cur → t.slot e = s.slot e)
      ∧ (∀ e : Coord, e.coreKey ≠ s.cur.coreKey → t.core e = s.core e)
      ∧ (x = 0 → (t.core s.cur).tabB = (s.core s.cur).tabB) ∧ (x = 1 → (t.core s.cur).tabA = (s.core s.cur).tabA)
      ∧ ∀ n : Byte, (if x = 0 then (t.core s.cur).tabA else (t.core s.cur).tabB).get n
          = (BitVec.ofNat 32 (leNat ((pl.addrs.drop (4 * n.toNat)).take 4 |>.map s.mem.byte))).setWidth 19)

namespace Sys2Proof.Machine

/-! ## Vector instructions -/

/-- The value of a finite number (R98). -/
def fpValue : Fp → Option ℚ
  | .fin n m e => some ((if n then -1 else 1) * (m : ℚ) * (2 : ℚ) ^ e)
  | _ => none

/-- R102 step 5: the value that step 4 chooses for the real `x`, with infinite exponent range, exceeds the largest finite magnitude. -/
def Overflows (f : Fmt) (mode : RMode) (x : ℚ) : Prop :=
  let top : ℚ := 2 ^ (f.bias + 1)
  let ulp : ℚ := 2 ^ f.bias / 2 ^ f.fb
  (mode = 0 ∧ top - ulp / 2 ≤ |x|) ∨ (mode = 1 ∧ top ≤ |x|) ∨ (mode = 2 ∧ (top ≤ x ∨ x < ulp - top))
    ∨ (mode = 3 ∧ (top - ulp < x ∨ x ≤ -top))

/-- R102 step 6: the real `x`, rounded to the format's precision with unbounded exponent, lies below the smallest normal value. -/
def Tiny (f : Fmt) (mode : RMode) (x : ℚ) : Prop :=
  let least : ℚ := 2 / 2 ^ f.bias
  let ulp : ℚ := least / 2 ^ (f.fb + 1)
  (mode = 0 ∧ |x| < least - ulp / 2) ∨ (mode = 1 ∧ |x| < least) ∨ (mode = 2 ∧ ulp - least ≤ x ∧ x < least)
    ∨ (mode = 3 ∧ -least < x ∧ x ≤ least - ulp)

/-- `res` is the non-zero real `x` rounded to the format by the mode (R102 steps 3 to 7). On overflow it is the infinity or the largest
finite value of the table, with overflow and inexact. Else it is the nearest representable value in mode rn, the one with an even last
fraction bit on a tie, the nearest not beyond it in rz, not above it in rd and not below it in ru; inexact exactly where it differs,
underflow exactly where it is tiny as well, and no other flag. -/
def IsRounded (f : Fmt) (mode : RMode) (x : ℚ) (res : FRes) : Prop :=
  let inf := (2 ^ f.eb - 1) * 2 ^ f.fb
  (Overflows f mode x →
      res = ((if x < 0 then 2 ^ (f.eb + f.fb) else 0)
        + (if mode = 0 ∨ (mode = 2 ∧ x < 0) ∨ (mode = 3 ∧ 0 < x) then inf else inf - 1), 0x000A))
    ∧ (¬ Overflows f mode x →
      ∃ r, fpValue (f.decode res.1) = some r ∧ (res.2.getLsbD 3 = true ↔ r ≠ x)
        ∧ (res.2.getLsbD 2 = true ↔ r ≠ x ∧ Tiny f mode x) ∧ res.2 &&& 0xFFF3 = 0
        ∧ ∀ (c : Nat) (y : ℚ), fpValue (f.decode c) = some y →
            (mode = 0 → |r - x| ≤ |y - x| ∧ (|y - x| = |r - x| → y ≠ r → res.1 % 2 = 0))
            ∧ (mode = 1 → |r| ≤ |x| ∧ 0 ≤ r * x ∧ (|y| ≤ |x| → 0 ≤ x * y → |y| ≤ |r|))
            ∧ (mode = 2 → r ≤ x ∧ (y ≤ x → y ≤ r))
            ∧ (mode = 3 → x ≤ r ∧ (x ≤ y → r ≤ y)))

/-- The encodings that R98, R102 and R103 name: a zero and an infinity by its sign (0 or 1), and the default NaN with its flags, NaN
produced and, for an invalid operation or a signalling operand, invalid. -/
def zeroEnc (f : Fmt) (sg : Nat) : FRes := (sg * 2 ^ (f.eb + f.fb), 0)
def infEnc (f : Fmt) (sg : Nat) : FRes := (sg * 2 ^ (f.eb + f.fb) + (2 ^ f.eb - 1) * 2 ^ f.fb, 0)
def nanEnc (f : Fmt) (invalid : Bool) : FRes := ((2 ^ f.eb - 1) * 2 ^ f.fb + 2 ^ (f.fb - 1), if invalid then 0x0011 else 0x0010)

/-- R98: the value of an encoding by its sign, exponent and fraction. -/
def DecodesAs (f : Fmt) (n : Nat) : Prop :=
  let sg := n / 2 ^ (f.eb + f.fb) % 2
  let e := n / 2 ^ f.fb % 2 ^ f.eb
  let m := n % 2 ^ f.fb
  (e = 2 ^ f.eb - 1 → m = 0 → f.decode n = .inf (sg = 1))
    ∧ (e = 2 ^ f.eb - 1 → m ≠ 0 → f.decode n = .nan (m < 2 ^ (f.fb - 1)))
    ∧ (e ≠ 2 ^ f.eb - 1 → fpValue (f.decode n) = some ((-1) ^ sg
        * (if e = 0 then (m : ℚ) / 2 ^ f.fb * (2 / 2 ^ f.bias) else (1 + (m : ℚ) / 2 ^ f.fb) * (2 ^ e / 2 ^ f.bias))))

/-- R102 step 3 and R103: the results of a sum, a product and a quotient of two encodings `a` and `b` that are not the rounded exact
value: with a NaN, an infinity, a divisor of zero or an exactly zero result. -/
def SpecialResults (f : Fmt) (mode : RMode) (a b : Nat) : Prop :=
  let sg (n : Nat) : Nat := n / 2 ^ (f.eb + f.fb) % 2
  let A := f.decode a
  let B := f.decode b
  let both := (sg a + sg b) % 2
  (A.isNan = true ∨ B.isNan = true → ∀ r ∈ [f.add mode A B, f.mul mode A B, f.div mode A B], r = nanEnc f (A.isSnan || B.isSnan))
    ∧ (∀ p, A = .inf p →
        (B = .inf p → f.add mode A B = infEnc f (sg a)) ∧ (B = .inf (!p) → f.add mode A B = nanEnc f true)
        ∧ (∀ q, B = .inf q → f.mul mode A B = infEnc f both ∧ f.div mode A B = nanEnc f true)
        ∧ ∀ y, fpValue B = some y → f.add mode A B = infEnc f (sg a) ∧ f.div mode A B = infEnc f both
            ∧ f.mul mode A B = if y = 0 then nanEnc f true else infEnc f both)
    ∧ (∀ x, fpValue A = some x →
        (∀ q, B = .inf q → f.add mode A B = infEnc f (sg b) ∧ f.div mode A B = zeroEnc f both
          ∧ f.mul mode A B = if x = 0 then nanEnc f true else infEnc f both)
        ∧ ∀ y, fpValue B = some y →
            (x + y = 0 → f.add mode A B = zeroEnc f (if sg a = sg b then sg a else if mode = 2 then 1 else 0))
            ∧ (x * y = 0 → f.mul mode A B = zeroEnc f both)
            ∧ (y = 0 → f.div mode A B = if x = 0 then nanEnc f true else ((infEnc f both).1, 0x0002))
            ∧ (y ≠ 0 → x = 0 → f.div mode A B = zeroEnc f both))

/-- R102 step 3, R103 and R114: the same for a product of `a` and `b` with the addend `c`. -/
def SpecialFma (f : Fmt) (mode : RMode) (a b c : Nat) : Prop :=
  let sg (n : Nat) : Nat := n / 2 ^ (f.eb + f.fb) % 2
  let A := f.decode a
  let B := f.decode b
  let C := f.decode c
  let both := (sg a + sg b) % 2
  let infA : Prop := ∃ p, A = .inf p
  let infB : Prop := ∃ p, B = .inf p
  let zeroInf : Prop := (infA ∧ fpValue B = some 0) ∨ (infB ∧ fpValue A = some 0)
  (zeroInf → f.fma mode A B C = nanEnc f true)
    ∧ (¬ zeroInf → A.isNan = true ∨ B.isNan = true ∨ C.isNan = true →
        f.fma mode A B C = nanEnc f (A.isSnan || B.isSnan || C.isSnan))
    ∧ (¬ zeroInf → infA ∨ infB → A.isNan = false → B.isNan = false → C.isNan = false →
        f.fma mode A B C = if ∃ p, C = .inf p ∧ sg c ≠ both then nanEnc f true else infEnc f both)
    ∧ ∀ x y, fpValue A = some x → fpValue B = some y →
        (∀ p, C = .inf p → f.fma mode A B C = infEnc f (sg c))
        ∧ ∀ z, fpValue C = some z → x * y + z = 0 →
            f.fma mode A B C = zeroEnc f (if both = sg c then both else if mode = 2 then 1 else 0)

/-- `n` is the real `x` rounded to an integer by the mode (R102, R120). -/
def IntRounded (mode : RMode) (x : ℚ) (n : Int) : Prop :=
  (mode = 0 → (∀ k : Int, |(n : ℚ) - x| ≤ |(k : ℚ) - x|) ∧ (2 * |(n : ℚ) - x| = 1 → n % 2 = 0))
    ∧ (mode = 1 → |(n : ℚ)| ≤ |x| ∧ |x| < |(n : ℚ)| + 1 ∧ 0 ≤ (n : ℚ) * x)
    ∧ (mode = 2 → (n : ℚ) ≤ x ∧ x < n + 1)
    ∧ (mode = 3 → x ≤ n ∧ (n : ℚ) < x + 1)

/-- A two's complement integer of `w` bits. -/
def sInt (w x : Nat) : Int := if 2 ^ (w - 1) ≤ x then (x : Int) - 2 ^ w else x

/-- An element read as the type's integer: types 3, 5, 7 and 9 are signed (R41). -/
def elInt (t : BitVec 4) (w x : Nat) : Int := if t ∈ [3#4, 5#4, 7#4, 9#4] then sInt w x else x

/-- The low `w` bits of an integer. -/
def modW (w : Nat) (x : Int) : Nat := (x % (2 ^ w : Int)).toNat

/-- An integer clamped to the range of a type, with the saturation flag when it was outside (R124). -/
def satW (t : BitVec 4) (w : Nat) (x : Int) : FRes :=
  let lo : Int := if t ∈ [3#4, 5#4, 7#4, 9#4] then -(2 ^ (w - 1) : Int) else 0
  let hi : Int := if t ∈ [3#4, 5#4, 7#4, 9#4] then 2 ^ (w - 1) - 1 else 2 ^ w - 1
  if x < lo then (modW w lo, 64) else if hi < x then (modW w hi, 64) else (modW w x, 0)

/-- Destination, mask, type and the result of each active element with its flags, for the lane-wise vector instructions
(R113 to R115, R117, R119, R121, R124, R125): sources are read before anything is written. -/
def laneForm (s : State) : Instr → Option (BitVec 5 × BitVec 3 × BitVec 4 × (Nat → FRes))
  | .vadd d a b k m t => some (d, k, t, fun i => (fmtOf t).add m (fpOf t (s.el t a i)) (fpOf t (s.el t b i)))
  | .vsub d a b k m t => some (d, k, t, fun i => (fmtOf t).add m (fpOf t (s.el t a i)) (fpOf t (s.el t b i)).neg)
  | .vmul d a b k m t => some (d, k, t, fun i => (fmtOf t).mul m (fpOf t (s.el t a i)) (fpOf t (s.el t b i)))
  | .vdiv d a b k m t => some (d, k, t, fun i => (fmtOf t).div m (fpOf t (s.el t a i)) (fpOf t (s.el t b i)))
  | .vfma d a b k m t =>
    some (d, k, t, fun i => (fmtOf t).fma m (fpOf t (s.el t a i)) (fpOf t (s.el t b i)) (fpOf t (s.el t d i)))
  | .vfms d a b k m t =>
    some (d, k, t, fun i => (fmtOf t).fma m (fpOf t (s.el t a i)).neg (fpOf t (s.el t b i)) (fpOf t (s.el t d i)))
  | .vfnma d a b k m t =>
    some (d, k, t, fun i => (fmtOf t).fma m (fpOf t (s.el t a i)).neg (fpOf t (s.el t b i)) (fpOf t (s.el t d i)).neg)
  | .vfnms d a b k m t =>
    some (d, k, t, fun i => (fmtOf t).fma m (fpOf t (s.el t a i)) (fpOf t (s.el t b i)) (fpOf t (s.el t d i)).neg)
  | .vmin d a b k t => some (d, k, t, fun i => minMaxEl t false (s.el t a i) (s.el t b i))
  | .vmax d a b k t => some (d, k, t, fun i => minMaxEl t true (s.el t a i) (s.el t b i))
  | .vabs d a k t => some (d, k, t, fun i =>
      let w := elemWidth t
      (if tyFloat t then s.el t a i % 2 ^ (w - 1) else modW w (elInt t w (s.el t a i)).natAbs, 0))
  | .vneg d a k t => some (d, k, t, fun i =>
      let w := elemWidth t
      (if tyFloat t then s.el t a i ^^^ 2 ^ (w - 1) else modW w (-(s.el t a i : Int)), 0))
  | .vexp2 d a k m t => some (d, k, t, fun i => (fmtOf t).exp2 m (fpOf t (s.el t a i)))
  | .vlog2 d a k m t => some (d, k, t, fun i => (fmtOf t).log2 m (fpOf t (s.el t a i)))
  | .vrcp d a k m t => some (d, k, t, fun i => (fmtOf t).rcp m (fpOf t (s.el t a i)))
  | .vrsq d a k m t => some (d, k, t, fun i => (fmtOf t).rsq m (fpOf t (s.el t a i)))
  | .vperm d a b k t => some (d, k, t, fun i => (s.el t a (s.el t b i % elemCount t), 0))
  | .vbcst d a n k t => some (d, k, t, fun _ => (s.el t a n.toNat, 0))
  | .vshup d a n k t => some (d, k, t, fun i => (if i < n.toNat then 0 else s.el t a (i - n.toNat), 0))
  | .vshdn d a n k t => some (d, k, t, fun i => (if elemCount t ≤ i + n.toNat then 0 else s.el t a (i + n.toNat), 0))
  | .vzip d a b k t => some (d, k, t, fun i => (if i % 2 = 0 then s.el t a (i / 2) else s.el t b (i / 2), 0))
  | .vunzip d a b k t =>
    some (d, k, t, fun i => (if 2 * i < elemCount t then s.el t a (2 * i) else s.el t b (2 * i - elemCount t), 0))
  | .vdec d a x k t => some (d, k, t, fun i =>
      decEl t ((if x = 0 then (s.core s.cur).tabA else (s.core s.cur).tabB).get ((s.rv a).extractLsb' (8 * i) 8)))
  | .viadd d a b k t => some (d, k, t, fun i => (modW (elemWidth t) ((s.el t a i : Int) + s.el t b i), 0))
  | .visub d a b k t => some (d, k, t, fun i => (modW (elemWidth t) ((s.el t a i : Int) - s.el t b i), 0))
  | .vimul d a b k t => some (d, k, t, fun i => (modW (elemWidth t) ((s.el t a i : Int) * s.el t b i), 0))
  | .vimulh d a b k t => some (d, k, t, fun i =>
      let w := elemWidth t
      (modW w (elInt t w (s.el t a i) * elInt t w (s.el t b i) / 2 ^ w), 0))
  | .viand d a b k t => some (d, k, t, fun i => (s.el t a i &&& s.el t b i, 0))
  | .vior d a b k t => some (d, k, t, fun i => (s.el t a i ||| s.el t b i, 0))
  | .vixor d a b k t => some (d, k, t, fun i => (s.el t a i ^^^ s.el t b i, 0))
  | .visll d a b k t => some (d, k, t, fun i =>
      (if s.el t b i < elemWidth t then s.el t a i * 2 ^ s.el t b i % 2 ^ elemWidth t else 0, 0))
  | .visrl d a b k t => some (d, k, t, fun i => (if s.el t b i < elemWidth t then s.el t a i / 2 ^ s.el t b i else 0, 0))
  | .visra d a b k t => some (d, k, t, fun i =>
      let w := elemWidth t
      (if s.el t b i < w then modW w (sInt w (s.el t a i) / 2 ^ s.el t b i)
        else if s.el t a i < 2 ^ (w - 1) then 0 else 2 ^ w - 1, 0))
  | .viaddSat d a b k t => some (d, k, t, fun i =>
      let w := elemWidth t
      satW t w (elInt t w (s.el t a i) + elInt t w (s.el t b i)))
  | .visubSat d a b k t => some (d, k, t, fun i =>
      let w := elemWidth t
      satW t w (elInt t w (s.el t a i) - elInt t w (s.el t b i)))
  | .vsplat d a k t => some (d, k, t, fun _ => ((s.rg a).toNat % 2 ^ elemWidth t, 0))
  | _ => none

/-- The flags of all active elements together (R104). -/
def laneFlags (t : BitVec 4) (mask : Dword) (f : Nat → FRes) : BitVec 16 :=
  (activeEls t mask).foldl (fun a i => a ||| (f i).2) 0

/-- The current slot passed an instruction that writes registers and raises the flags `fl` (R106): no byte of memory, no
other slot and no scalar register differs; the posted set takes the flags unless `c.nfsw` is 0; and where no post is sent,
nothing outside the slot differs. -/
def RaisedFlags (fl : BitVec 16) (s t : State) : Prop :=
  PastBy 4 s.me t.me ∧ (∀ r, t.rg r = s.rg r) ∧ (∀ b, t.mem.byte b = s.mem.byte b) ∧ (∀ e, e ≠ s.cur → t.slot e = s.slot e)
    ∧ t.me.posted = (if s.me.nfsw = 0 then s.me.posted else s.me.posted ||| fl)
    ∧ (s.me.nfsw = 0 ∨ fl &&& ~~~s.me.posted = 0 →
        OnlySlot s.cur s t ∧ { t.me.placedAs s.me with v := s.me.v, k := s.me.k } = s.me)

/-- Mask destination, operands, mask, type and condition of the vector compares (R116). -/
def vcmpForm : Instr → Option (BitVec 3 × BitVec 5 × BitVec 5 × BitVec 3 × BitVec 4 × (Fp → Fp → Bool) × (Int → Int → Bool))
  | .vcmpEq d a b k t => some (d, a, b, k, t, fun x y => !x.isNan && !y.isNan && !x.lt y && !y.lt x, fun x y => x = y)
  | .vcmpNe d a b k t => some (d, a, b, k, t, fun x y => x.isNan || y.isNan || x.lt y || y.lt x, fun x y => x ≠ y)
  | .vcmpLt d a b k t => some (d, a, b, k, t, fun x y => x.lt y, fun x y => x < y)
  | .vcmpLe d a b k t => some (d, a, b, k, t, fun x y => !x.isNan && !y.isNan && !y.lt x, fun x y => x ≤ y)
  | .vcmpUn d a b k t => some (d, a, b, k, t, fun x y => x.isNan || y.isNan, fun _ _ => false)
  | _ => none

/-- Function number, destination, source, mask and type of the reductions (R118). -/
def reduceForm : Instr → Option (Nat × BitVec 5 × BitVec 5 × BitVec 3 × BitVec 4)
  | .vrsum d a k t => some (0, d, a, k, t)
  | .vrmax d a k t => some (1, d, a, k, t)
  | .vrmin d a k t => some (2, d, a, k, t)
  | .vramax d a k t => some (3, d, a, k, t)
  | _ => none

end Sys2Proof.Machine

/-- R98, R102 to R104, R113, R114: an encoding has the value of its fields; a non-zero value is rounded to a format by its mode, ties to
even in rn, with the overflow, underflow and inexact flags; a NaN, an infinity and a zero become the destination's; and a sum, a product,
a quotient and a product with an addend are the exact value of their operands, rounded once, with the results of R102 step 3 and R103 for
zeros, infinities, NaNs and a divisor of zero. The results of O26 to O29 are named by these functions. -/
def Obligations.RoundingIsNearest : Prop :=
  ∀ (f : Fmt) (mode : RMode), f ∈ [fp32, fp16, bf16, e8m10] →
    (∀ n, DecodesAs f n)
    ∧ (∀ (neg : Bool) (m : Nat) (e : Int) (x : ℚ), m ≠ 0 → fpValue (.fin neg m e) = some x →
      IsRounded f mode x (f.round mode neg m e) ∧ IsRounded f mode x (f.ofFp mode (.fin neg m e)))
    ∧ (∀ (neg : Bool) (e : Int), f.ofFp mode (.fin neg 0 e) = zeroEnc f neg.toNat ∧ f.ofFp mode (.inf neg) = infEnc f neg.toNat
      ∧ f.ofFp mode (.nan neg) = nanEnc f neg)
    ∧ (∀ a b c : Nat, SpecialResults f mode a b ∧ SpecialFma f mode a b c)
    ∧ ∀ (a b c : Nat) (x y z : ℚ), fpValue (f.decode a) = some x → fpValue (f.decode b) = some y → fpValue (f.decode c) = some z →
        (x + y ≠ 0 → IsRounded f mode (x + y) (f.add mode (f.decode a) (f.decode b)))
        ∧ (x * y ≠ 0 → IsRounded f mode (x * y) (f.mul mode (f.decode a) (f.decode b)))
        ∧ (x ≠ 0 → y ≠ 0 → IsRounded f mode (x / y) (f.div mode (f.decode a) (f.decode b)))
        ∧ (x * y + z ≠ 0 → IsRounded f mode (x * y + z) (f.fma mode (f.decode a) (f.decode b) (f.decode c)))

/-- R113 to R115, R117, R119, R121, R124, R125, R97: a lane-wise vector instruction writes each active element of vD, keeps the
inactive ones, reads all sources first, and raises the flags of its active elements together. -/
def Obligations.VectorLaneResult : Prop :=
  ∀ (i : Instr) (s : State) (d : BitVec 5) (k : BitVec 3) (t : BitVec 4) (f : Nat → FRes),
    laneForm s i = some (d, k, t, f) → i.wf = true →
    ∃ t', exec i s = .next t' ∧ RaisedFlags (laneFlags t (s.rk k) f) s t' ∧ (∀ r, t'.rk r = s.rk r)
      ∧ (∀ r, r ≠ d → t'.rv r = s.rv r)
      ∧ ∀ j, j < elemCount t → element (elemWidth t) (t'.rv d) j =
          if (s.rk k).getLsbD j then (f j).1 % 2 ^ elemWidth t else element (elemWidth t) (s.rv d) j

/-- R116: a vector compare writes all 64 bits of kD: the condition for active elements, 0 elsewhere. -/
def Obligations.VectorCompareResult : Prop :=
  ∀ (i : Instr) (s : State) (d : BitVec 3) (a b : BitVec 5) (k : BitVec 3) (t : BitVec 4) (f : Fp → Fp → Bool)
    (g : Int → Int → Bool), vcmpForm i = some (d, a, b, k, t, f, g) → i.wf = true →
    let snan (j : Nat) : Bool := tyFloat t && ((fpOf t (s.el t a j)).isSnan || (fpOf t (s.el t b j)).isSnan)
    ∃ t', exec i s = .next t'
      ∧ RaisedFlags (if (activeEls t (s.rk k)).any snan then 1 else 0) s t' ∧ (∀ r, t'.rv r = s.rv r)
      ∧ (∀ r, r ≠ d → t'.rk r = s.rk r)
      ∧ ∀ j, j < 64 → (t'.rk d).getLsbD j = (decide (j < elemCount t) && (s.rk k).getLsbD j
          && if tyFloat t then f (fpOf t (s.el t a j)) (fpOf t (s.el t b j))
             else g (elInt t (elemWidth t) (s.el t a j)) (elInt t (elemWidth t) (s.el t b j)))

/-- R118: a reduction writes element 0 of vD and zeros to the others; an integer sum is modulo 2^w, and an integer maximum or
minimum of at least one element is one of the active elements and bounds them all. -/
def Obligations.ReductionResult : Prop :=
  ∀ (i : Instr) (s : State) (fn : Nat) (d a : BitVec 5) (k : BitVec 3) (t : BitVec 4),
    reduceForm i = some (fn, d, a, k, t) → i.wf = true →
    let S := (activeEls t (s.rk k)).map (s.el t a)
    let w := elemWidth t
    ∃ t', exec i s = .next t' ∧ RaisedFlags (reduce fn t S).2 s t' ∧ (∀ r, t'.rk r = s.rk r) ∧ (∀ r, r ≠ d → t'.rv r = s.rv r)
      ∧ (∀ j, 0 < j → j < elemCount t → element w (t'.rv d) j = 0)
      ∧ element w (t'.rv d) 0 = (reduce fn t S).1 % 2 ^ w
      ∧ (tyFloat t = false → (reduce fn t S).2 = 0
          ∧ (fn = 0 → element w (t'.rv d) 0 = S.sum % 2 ^ w)
          ∧ (fn = 1 → S ≠ [] → element w (t'.rv d) 0 ∈ S ∧ ∀ x ∈ S, elInt t w x ≤ elInt t w (element w (t'.rv d) 0))
          ∧ (fn = 2 → S ≠ [] → element w (t'.rv d) 0 ∈ S ∧ ∀ x ∈ S, elInt t w (element w (t'.rv d) 0) ≤ elInt t w x)
          ∧ (fn = 3 → ∀ x ∈ S, (elInt t w x).natAbs ≤ element w (t'.rv d) 0))

/-- R120, R121: a conversion converts the elements that both types have and zeroes those above: a value to a float is rounded by the
mode, one to an integer is rounded to an integer and clamped, with the flags of R120. `venc` writes the bytes of its active elements and
keeps every other byte; `vins` and `vext` move one element. -/
def Obligations.ConversionResult : Prop :=
  (∀ (d a S : BitVec 5) (k : BitVec 3) (m : BitVec 2) (t : BitVec 4) (s : State), (Instr.vcvt d a S k m t).wf = true →
    let n := min (elemCount t) (elemCount (S.setWidth 4))
    let f (j : Nat) : FRes := cvtEl (S.setWidth 4) t m (s.el (S.setWidth 4) a j)
    ∃ t', exec (.vcvt d a S k m t) s = .next t'
      ∧ RaisedFlags (((List.range n).filter fun j => (s.rk k).getLsbD j).foldl (fun x j => x ||| (f j).2) 0) s t'
      ∧ (∀ r, t'.rk r = s.rk r) ∧ (∀ r, r ≠ d → t'.rv r = s.rv r)
      ∧ ∀ j, j < elemCount t → element (elemWidth t) (t'.rv d) j =
          if n ≤ j then 0 else if (s.rk k).getLsbD j then (f j).1 % 2 ^ elemWidth t else element (elemWidth t) (s.rv d) j)
  ∧ (∀ (S t : BitVec 4) (m : BitVec 2) (a : Nat), S.toNat ≤ 9 → t.toNat ≤ 9 → a < 2 ^ elemWidth S →
    let w := elemWidth t
    let lo : Int := if t ∈ [3#4, 5#4, 7#4, 9#4] then -(2 ^ (w - 1) : Int) else 0
    let hi : Int := if t ∈ [3#4, 5#4, 7#4, 9#4] then 2 ^ (w - 1) - 1 else 2 ^ w - 1
    (S = t → cvtEl S t m a = (a, 0))
    ∧ (S ≠ t → tyFloat S = true → tyFloat t = true → ∀ x, fpValue (fpOf S a) = some x → x ≠ 0 → IsRounded (fmtOf t) m x (cvtEl S t m a))
    ∧ (S ≠ t → tyFloat S = true → tyFloat t = true →
        (fpValue (fpOf S a) = some 0 → cvtEl S t m a = zeroEnc (fmtOf t) (a / 2 ^ (elemWidth S - 1)))
        ∧ (∀ p : Bool, fpOf S a = .inf p → cvtEl S t m a = infEnc (fmtOf t) p.toNat)
        ∧ (∀ p, fpOf S a = .nan p → cvtEl S t m a = nanEnc (fmtOf t) p))
    ∧ (tyFloat S = false → tyFloat t = true → elInt S (elemWidth S) a ≠ 0 →
        IsRounded (fmtOf t) m (elInt S (elemWidth S) a) (cvtEl S t m a))
    ∧ (tyFloat S = false → tyFloat t = true → a = 0 → cvtEl S t m a = (0, 0))
    ∧ (tyFloat S = true → tyFloat t = false → (∀ p, fpOf S a = .nan p → cvtEl S t m a = (0, 0x0041))
        ∧ ∀ p : Bool, fpOf S a = .inf p → cvtEl S t m a = (modW w (if p then lo else hi), 0x0041))
    ∧ (tyFloat S = true → tyFloat t = false → ∀ x, fpValue (fpOf S a) = some x → ∃ n : Int, IntRounded m x n
        ∧ (cvtEl S t m a).1 = modW w (max lo (min hi n))
        ∧ (((cvtEl S t m a).2.getLsbD 0 = true ↔ x < lo ∨ hi < x) ∧ ((cvtEl S t m a).2.getLsbD 6 = true ↔ x < lo ∨ hi < x))
        ∧ ((cvtEl S t m a).2.getLsbD 3 = true ↔ ((max lo (min hi n) : Int) : ℚ) ≠ x))
    ∧ (S ≠ t → tyFloat S = false → tyFloat t = false → cvtEl S t m a = satW t w (elInt S (elemWidth S) a)))
  ∧ (∀ (d a : BitVec 5) (x : BitVec 1) (k : BitVec 3) (t : BitVec 4) (s : State), (Instr.venc d a x k t).wf = true →
    let tab := if x = 0 then (s.core s.cur).tabA else (s.core s.cur).tabB
    let f (j : Nat) : Byte × BitVec 16 := enc8 tab (s.me.tnan.extractLsb' (8 * x.toNat) 8) (fpOf t (s.el t a j))
    ∃ t', exec (.venc d a x k t) s = .next t'
      ∧ RaisedFlags ((activeEls t (s.rk k)).foldl (fun y j => y ||| (f j).2) 0) s t'
      ∧ (∀ r, t'.rk r = s.rk r) ∧ (∀ r, r ≠ d → t'.rv r = s.rv r)
      ∧ ∀ j, j < 64 → (t'.rv d).extractLsb' (8 * j) 8 =
          if j < elemCount t ∧ (s.rk k).getLsbD j then (f j).1 else (s.rv d).extractLsb' (8 * j) 8)
  ∧ (∀ (d a n : BitVec 5) (t : BitVec 4) (s : State), (Instr.vins d a n t).wf = true →
    ∃ t', exec (.vins d a n t) s = .next t' ∧ ∃ v, WroteV 4 d v s t' ∧ ∀ j, j < elemCount t →
      element (elemWidth t) v j = if j = n.toNat then (s.rg a).toNat % 2 ^ elemWidth t else element (elemWidth t) (s.rv d) j)
  ∧ ∀ (d a n : BitVec 5) (t : BitVec 4) (s : State), (Instr.vext d a n t).wf = true →
    ∃ t', exec (.vext d a n t) s = .next t'
      ∧ WroteG 4 d (BitVec.ofInt 64 (elInt t (elemWidth t) (element (elemWidth t) (s.rv a) n.toNat))) s t'

/-- R106: an instruction that raises a flag not yet posted, with `c.nfsw` naming a sync word that resolves on this device,
sends one post of its flags to that word, with the second dword's pointer, which is the model's reading (log 25); none is sent again while the bits stay in the posted set. Shown for `vadd`. (No packet of the slot to a peer is about to leave.)
The model's own in it: the port and its order (log 3), the agenda (log 1). -/
def Obligations.FlagsArePostedOnce : Prop :=
  ∀ (d a b : BitVec 5) (k : BitVec 3) (m : BitVec 2) (t : BitVec 4) (s : State) (f : Nat → FRes) (pl : Place),
    (Instr.vadd d a b k m t).wf = true → s.pump s.cur = s → laneForm s (.vadd d a b k m t) = some (d, k, t, f) → s.me.nfsw ≠ 0 →
    s.me.nfsw.toNat % 16 = 0 → s.kindOf s.me.nfsw ≠ 6 → s.dataPlace s.cur s.me.nfsw 16 5 = .ok pl → pl.peer = none →
    (laneFlags t (s.rk k) f &&& ~~~s.me.posted ≠ 0 →
      ∃ t', exec (.vadd d a b k m t) s = .next t' ∧ t'.mem = s.mem ∧ t'.agenda = s.agenda ++ [.event .atomicPacketPerform (.at s.cur)]
        ∧ ∃ p, t'.port = s.port ++ [p] ∧ p.coord = s.cur ∧ p.op = .flags (laneFlags t (s.rk k) f)
            ∧ p.route = .here (pl.addrs.headD 0) ∧ p.ptr = pcPlus s.me.nfsw 8)
    ∧ (laneFlags t (s.rk k) f &&& ~~~s.me.posted = 0 →
      ∃ t', exec (.vadd d a b k m t) s = .next t' ∧ t'.port = s.port ∧ t'.agenda = s.agenda)

namespace Sys2Proof.Machine

/-! ## Matrix commands and the epilogue -/

/-- Only the cluster at `u` and the end of the agenda differ. -/
def OnlyCluster (u : Coord) (s t : State) : Prop :=
  { t with clusters := s.clusters, agenda := s.agenda } = s ∧ ∀ e : Coord, e.clusterKey ≠ u.clusterKey → t.cluster e = s.cluster e

/-- Number `n` of a VF is complete on timeline `tl` of the core (R208), or in the VF's record of the core while it is saved (R344): the
timeline has reached it, or it waits for smaller ones. -/
def NumberDone (s : State) (vf : Nat) (c : Coord) (tl n : Nat) : Prop :=
  match (s.vf vf).savedCores.find? c.coreKey with
  | some r => n ≤ r.tl.getD tl 0 ∨ (tl, n) ∈ r.completed
  | none => n ≤ (s.core c).tl.getD tl 0 ∨ (tl, n) ∈ (s.core c).completed

/-- The bytes of a place lie on this die or on the host. -/
def HomeHere (d : BitVec 3) (pl : Place) : Prop := ∀ a ∈ pl.addrs, ∀ e, homeDie a = some e → e = d.toNat

/-- A command's capability (R170 step 2): an entry of the unit's table with its token and VF covers every accumulator unit of 1,024
elements that the command can write or drain, and all of them for an `eload`. -/
def Capable (cl : Cluster) (die : BitVec 3) (x : MCmd) : Prop :=
  ∃ e ∈ cl.mcap, bit e.2 63 = true ∧ fldN e.2 54 9 = x.vf ∧ fld e.2 0 32 = x.token
    ∧ ∀ r ∈ (if x.op = 5 then [(0, 8 * psize die)] else x.segs die),
        fldN e.2 42 8 ≤ r.1 / 1024 ∧ (r.1 + r.2 - 1) / 1024 ≤ fldN e.2 34 8

/-- A command's format context (R159, R170 step 3): its core's own at a unit of its cluster, one of 8 to 15 that its core owns elsewhere;
with valid types. -/
def FormatOk (s : State) (u : Coord) (x : MCmd) : Prop :=
  let f := (s.cluster u).ctx.getD x.ctx FmtCtx.reset
  (if x.sender.clusterKey = u.clusterKey then x.ctx = x.sender.core.toNat
   else 8 ≤ x.ctx ∧ f.owner = some ((x.sender.at 0).bits s.dev.devno))
    ∧ f.atype ≠ 15 ∧ f.btype ≠ 15

/-- The status of a command's acceptance is that of the first check of R170 that fails, in the order of the rule: op, shape and alignment;
capability; format context, for ops 1 and 2; operand A, then operand B; scale underrun. -/
def AcceptOrder (s : State) (u : Coord) (x : MCmd) (st : BitVec 16) : Prop :=
  let f := (s.cluster u).ctx.getD x.ctx FmtCtx.reset
  let a := if x.op = 5 then (if x.a.p = 0 then 0 else s.operandA x x.a 512) else s.operandA x x.a (x.extA f)
  let b := if x.op = 5 then (if x.b.p = 0 then 0 else s.operandA x x.b 8192) else s.operandB u x (x.extB f)
  (x.shapeOk u.die = false → st = 0x0020)
    ∧ (x.shapeOk u.die = true → ¬ Capable (s.cluster u) u.die x → st = 0x000D)
    ∧ (x.shapeOk u.die = true → Capable (s.cluster u) u.die x → x.op = 1 ∨ x.op = 2 → ¬ FormatOk s u x → st = 0x0021)
    ∧ (x.shapeOk u.die = true → Capable (s.cluster u) u.die x → (x.op = 1 ∨ x.op = 2 → FormatOk s u x) →
        (x.op = 1 ∨ x.op = 2 ∨ x.op = 5 → a ≠ 0 → st = a)
        ∧ (x.op = 1 ∨ x.op = 2 ∨ x.op = 5 → a = 0 → b ≠ 0 → st = b)
        ∧ (x.op = 1 ∨ x.op = 2 → a = 0 → b = 0 → st = if f.scale = true ∧ x.s < (x.k + 31) / 32 then 0x000F else 0)
        ∧ (x.op = 5 → a = 0 → b = 0 → st = 0)
        ∧ (x.op = 3 ∨ x.op = 4 → st = 0))

/-- The rows of R167 for an accumulator value and the products of one K-step (none for 0 × ∞), in their order. -/
def KsumTable (c : Word) (ps : List (Option Fp)) (r : FRes) : Prop :=
  let terms := fp32.decode c.toNat :: ps.filterMap id
  (none ∈ ps → r = (0x7FC00000, flInvalid ||| flNan))
    ∧ (none ∉ ps → (∃ t ∈ terms, t.isNan = true) → r = (0x7FC00000, flNan))
    ∧ (none ∉ ps → (∀ t ∈ terms, t.isNan = false) → .inf false ∈ terms → .inf true ∈ terms →
        r = (0x7FC00000, flInvalid ||| flNan))
    ∧ (none ∉ ps → (∀ t ∈ terms, t.isNan = false) → .inf false ∈ terms → .inf true ∉ terms → r = (0x7F800000, 0))
    ∧ (none ∉ ps → (∀ t ∈ terms, t.isNan = false) → .inf false ∉ terms → .inf true ∈ terms → r = (0xFF800000, 0))
    ∧ (∀ vs : List ℚ, none ∉ ps → terms.map fpValue = vs.map some →
        ((∀ t ∈ terms, ∃ e, t = .fin true 0 e) → r = (0x80000000, 0))
        ∧ ((∃ t ∈ terms, ∀ e, t ≠ .fin true 0 e) → vs.sum = 0 → r = (0, 0))
        ∧ (vs.sum ≠ 0 → IsRounded fp32 0 vs.sum r))

/-- The parts of a matrix word (R174): how its command is named, whether it is numbered on tl5, a destination, gA. -/
def matrixForm (s : State) : Instr → Option (BitVec 2 × Bool × Option (BitVec 25) × BitVec 5)
  | .mma a => some (0, false, none, a)
  | .mmac a => some (1, false, none, a)
  | .mdrain a b => some (2, true, some ((s.rg b).setWidth 25), a)
  | .mzero a => some (3, false, none, a)
  | _ => none

/-- Dword `i` of the bytes of a record. -/
def recordDword (bytes : List Byte) (i : Nat) : Dword := leDword ((bytes.drop (8 * i)).take 8)

/-- The rows and columns of the block that the next block step works on. -/
def MCmd.stepRows (x : MCmd) (die : BitVec 3) : List Nat :=
  ((List.range (blockSide die)).map (x.rb * blockSide die + ·)).filter (· < x.mp)
def MCmd.stepCols (x : MCmd) (die : BitVec 3) : List Nat :=
  ((List.range (blockSide die)).map (x.cb * blockSide die + ·)).filter (· < x.np)

/-- The products of a K-step for row `i` and column `j` of a block, from what was read of A and B (R163, R166). -/
def MCmd.stepTerms (x : MCmd) (f : FmtCtx) (rows cols : List Nat) (ba bb : List (List Byte)) (i j : Nat) : List (Option Fp) :=
  ((List.range 16).filter fun k => x.depthon (16 * x.kb + k)).map fun k =>
    product (f.at f.atype (ba.getD i []) k) (f.at f.btype (bb.getD (j / 16) []) (k * 16 + j % 16))
      (if f.scale then leNat (ba.getD (rows.length + i) []) else 127)
      (if f.scale then leNat (bb.getD ((cols.filter (· % 16 == 0)).length + j) []) else 127)

/-- The epilogue program's run for the drain's next element. -/
def MCmd.elementRun (x : MCmd) (u : Coord) (cl : Cluster) : EpiRun :=
  (EpiRun.start (cl.acc.get (x.elem u.die x.dm x.dn) 0) x.persist x.entry x.dn
    (x.doff + (if x.op = 2 then x.dm % x.h else x.dm) * x.dpitch)).run cl.epiI cl.epiD 256

/-- The target core of the drain's next element: the command's, and for mmac one further core per band (R178, R179). -/
def MCmd.elementTarget (x : MCmd) : Coord :=
  { x.target with core := x.target.core + BitVec.ofNat 3 (if x.op = 2 then x.dm / x.h else 0) }

/-- The local-memory addresses of an element's write. -/
def writeAddrs (t : Coord) (w : Nat × List Byte) : List Nat := (List.range w.2.length).map fun i => localAddr t.coreKey (w.1 + i)

/-- Destination and result of the epilogue instructions that write a register (R182, R183). -/
def epilogueResult (x : EpiRun) (m : Sparse Word) : Instr → Option (BitVec 3 × FRes)
  | .emul d a b => some (d, fp32.mul 0 (x.fp a) (x.fp b))
  | .eadd d a b => some (d, fp32.add 0 (x.fp a) (x.fp b))
  | .escl d a i => some (d, fp32.mul 0 (x.fp a) (fp32.decode (m.get ((32 * i.toNat + x.n) % 2048) 0).toNat))
  | .ebias d a i => some (d, fp32.add 0 (x.fp a) (fp32.decode (m.get ((32 * i.toNat + x.n) % 2048) 0).toNat))
  | .etab d a i =>
    let j := etabIndex m i (x.fp a)
    some (d, fp32.fma 0 (fp32.decode (m.get ((32 * i.toNat + (64 + j)) % 2048) 0).toNat) (x.fp a)
      (fp32.decode (m.get ((32 * i.toNat + (128 + j)) % 2048) 0).toNat))
  | .eclmp d a b =>
    let lo := fp32.minMax true (x.r a) (x.r b)
    let hi := fp32.minMax false lo.1 (x.r (b + 1))
    some (d, hi.1, lo.2 ||| hi.2)
  | .ecvt d a f => some (d, epiBack f (x.r a))
  | .emax d a b => some (d, fp32.minMax true (x.r a) (x.r b))
  | .emin d a b => some (d, fp32.minMax false (x.r a) (x.r b))
  | .eabsmax d a => if (x.fp a).isNan then none else some (d, fp32.minMax true (x.r d) (x.r a % 2 ^ 31))
  | .esel d a b => some (d, if x.ef then x.r a else x.r b, 0)
  | _ => none

/-- The processor's record after an instruction that writes no register, with the address of the next word (R181, R182). -/
def epilogueOther (x : EpiRun) : Instr → Option (EpiRun × Nat)
  | .enop => some (x, x.pc + 1)
  | .eabsmax _ a =>
    if (x.fp a).isNan then some ({ x with flags := x.flags ||| if (x.fp a).isSnan then flInvalid else 0 }, x.pc + 1) else none
  | .eflag c a b =>
    some ({ x with
      ef := epiCond c (x.fp a) (x.fp b)
      flags := x.flags ||| if c.toNat ≤ 4 ∧ ((x.fp a).isSnan || (x.fp b).isSnan) then flInvalid else 0 }, x.pc + 1)
  | .estore a f =>
    some ({ x with
      stores := x.stores ++ [(x.rowBase + x.n * epiSize f, leBytes (epiSize f) (epiConv f (x.r a)).1)]
      flags := x.flags ||| (epiConv f (x.r a)).2 }, x.pc + 1)
  | .eskip i => some (x, x.pc + 1 + if x.ef then i.toNat else 0)
  | _ => none

end Sys2Proof.Machine

/-- R174, R175, R177, R171: a matrix word whose record is aligned, passes the check for reading and writing, and is read without a
refusal, with fewer than 16 commands outstanding and nothing posted, takes the timeline's next number and puts its command, with the record as it was read, behind
the others of the unit that the record names; a unit on another die first accepts the packet (`s1`). A command whose record names no
cluster completes its number at once, with status 0x0020 written to the record where that place is granted. With 16 outstanding the slot
waits, at `mxfmt` too. `mxfmt` sends its word with the core's tables, and traps on a cluster that does not exist.
The model's own in it: the agenda (log 1). -/
def Obligations.MatrixIssue : Prop :=
  (∀ (i : Instr) (via : BitVec 2) (tl5 : Bool) (dest : Option (BitVec 25)) (a : BitVec 5) (s s1 : State) (pl : Place) (u : Coord),
    matrixForm s i = some (via, tl5, dest, a) → Quiet s → (s.rg a).toNat % 64 = 0 →
    s.segCheck s.me.vf (s.me.segOf (s.rg a)) (fld (s.rg a) 0 60) 64 12 (s.rg a) = .ok () →
    (16 ≤ s.mxOutstanding s.cur → ∃ t, exec i s = .next t ∧ HeldBy .matrixFull s t)
    ∧ (s.mxOutstanding s.cur < 16 → s.enginePlace s.cur s.me.vf none (s.rptr (s.rg a)) 64 rightR = .ok pl → pl.peer = none →
      Accepted s pl → firstRefused s.mem s.cur.clusterKey pl.addrs = none → recordUnit (recordDword (pl.addrs.map s.mem.byte) 5) = some u →
      (s.tlNext s.cur (if tl5 then 5 else 4)).1.cross s.cur.die u.die false s.me.strand s.me.vf true = (s1, true) →
      ∃ t x, exec i s = .next t ∧ { t with slots := s1.slots, clusters := s1.clusters, agenda := s1.agenda } = s1
        ∧ (∀ e, e ≠ s.cur → t.slot e = s.slot e) ∧ PastBy 4 s.me t.me ∧ t.me.placedAs s.me = s.me
        ∧ (t.cluster u).cmds = (s.cluster u).cmds ++ [x]
        ∧ (∀ e : Coord, e.clusterKey ≠ u.clusterKey → t.cluster e = s.cluster e)
        ∧ t.agenda = s1.agenda ++ [.event .matrixCommandAccept (.cmd s u x)]
        ∧ x.num = (s.core s.cur).nextNum.getD (if tl5 then 5 else 4) 1 ∧ x.onTl5 = tl5 ∧ x.via = via ∧ x.sender = s.cur
        ∧ x.strand = s.me.strand ∧ x.cls = s.me.cls ∧ x.vf = s.me.vf ∧ x.phase = .sent ∧ x.recPtr = s.rptr (s.rg a)
        ∧ (∀ j : Fin 8, x.record.get j = recordDword (pl.addrs.map s.mem.byte) j)
        ∧ x.a.p = x.record.get 3 ∧ x.b.p = x.record.get 4 ∧ x.sync.p = x.record.get 7
        ∧ x.dest = dest.getD ((x.record.get 6).extractLsb' 39 25))
    ∧ (s.mxOutstanding s.cur < 16 → s.enginePlace s.cur s.me.vf none (s.rptr (s.rg a)) 64 rightR = .ok pl → pl.peer = none →
      Accepted s pl → firstRefused s.mem s.cur.clusterKey pl.addrs = none → recordUnit (recordDword (pl.addrs.map s.mem.byte) 5) = none →
      s.me.hold = none →
      let tl := if tl5 then 5 else 4
      let num := (s.core s.cur).nextNum.getD tl 1
      ∃ t, exec i s = .next t ∧ PastBy 4 s.me t.me ∧ t.me.placedAs s.me = s.me ∧ NumberDone t s.me.vf s.cur tl num
        ∧ (t.cluster s.cur).cmds = (s.cluster s.cur).cmds.filter (fun y => !y.same s.cur tl5 num)
        ∧ ∀ st : Place, s.mem.wf = true → s.engPlace s.cur s.me.vf none ((s.rptr (s.rg a)).add 2) 2 rightW = .ok st → st.peer = none →
            HomeHere s.cur.die st → firstRefused s.mem s.cur.clusterKey st.addrs = none →
            ∀ b, t.mem.byte b = byteAfter s.mem st.addrs [0x20, 0x00] b))
  ∧ ∀ (a b : BitVec 5) (s : State) (u : Coord), u = { die := (s.rg a).extractLsb' 13 3, cluster := (s.rg a).extractLsb' 7 6, core := 0, slot := 0 } →
      (u.ok = false → TrapsHere 0x05 s → ∃ t, exec (.mxfmt a b) s = .next t ∧ TookTrap 0x05 (s.rg a) s t)
      ∧ (u.ok = true → Quiet s → 16 ≤ s.mxOutstanding s.cur → ∃ t, exec (.mxfmt a b) s = .next t ∧ HeldBy .matrixFull s t)
      ∧ (u.ok = true → Quiet s → s.mxOutstanding s.cur < 16 →
        ∃ t r, exec (.mxfmt a b) s = .next t
          ∧ { t with slots := s.slots, cores := s.cores, clusters := s.clusters, agenda := s.agenda } = s
          ∧ (∀ e, e ≠ s.cur → t.slot e = s.slot e) ∧ PastBy 4 s.me t.me ∧ t.me.placedAs s.me = s.me
          ∧ (t.cluster u).fmts = (s.cluster u).fmts ++ [r] ∧ (∀ e : Coord, e.clusterKey ≠ u.clusterKey → t.cluster e = s.cluster e)
          ∧ r.num = (s.core s.cur).nextNum.getD 4 1 ∧ r.sender = s.cur ∧ r.word = s.rg b
          ∧ r.tabA = (s.core s.cur).tabA ∧ r.tabB = (s.core s.cur).tabB
          ∧ t.agenda = s.agenda ++ [.event .mxfmtApply (.num u r.num)])

/-- R160, R170, R171: a format request that need not wait writes its context and completes its number; a command is accepted, or is
over with the status of the first check of R170 that fails, in the order of the rule; a free array takes a runnable command of the
highest class. The order of the checks of operand B on a matrix die is the model's choice (log 88).
The model's own in it: the agenda (log 1), `State.arg` (log 14). -/
def Obligations.MatrixSchedule : Prop :=
  (∀ (s : State) (r : MxReq) (l1 l2 : List MxReq), (s.cluster s.arg.c).fmts = l1 ++ r :: l2 → (∀ q ∈ l1, q.num ≠ s.arg.n) →
    r.num = s.arg.n → (s.cluster s.arg.c).fmtWaits s.arg.c r = false →
    ∃ t, exec .mxfmtApply s = .next t ∧ t.mem = s.mem ∧ (t.cluster s.arg.c).fmts = l1 ++ l2 ∧ NumberDone t r.vf r.sender 4 r.num
      ∧ ∀ i : Fin 16, (r.ctx s.arg.c ≠ some i.val → (t.cluster s.arg.c).ctx.get i = (s.cluster s.arg.c).ctx.get i)
          ∧ (r.ctx s.arg.c = some i.val →
              let f := (t.cluster s.arg.c).ctx.get i
              let bad : Prop := 5 ≤ (fld r.word 4 4).toNat ∨ 5 ≤ (fld r.word 8 4).toNat ∨ r.word.toNat / 2 ^ 13 ≠ 0
              f.tabA = r.tabA ∧ f.tabB = r.tabB ∧ f.scale = r.word.getLsbD 12
                ∧ f.owner = some ((r.sender.at 0).bits s.dev.devno)
                ∧ (bad → f.atype = 15 ∧ f.btype = 15)
                ∧ (¬ bad → f.atype = fld r.word 4 4 ∧ f.btype = fld r.word 8 4)))
  ∧ (∀ (s : State) (x : MCmd), s.argCmd = some x → x.phase = .sent → (s.cluster s.arg.c).cmdWaits s.arg.c x = false →
    s.cmdLive s.arg.c x = true →
    AcceptOrder s s.arg.c x (s.acceptStatus s.arg.c x)
    ∧ ∃ t, exec .matrixCommandAccept s = .next t ∧ OnlyCluster s.arg.c s t
      ∧ { t.cluster s.arg.c with cmds := (s.cluster s.arg.c).cmds } = s.cluster s.arg.c
      ∧ (s.acceptStatus s.arg.c x = 0 →
          (t.cluster s.arg.c).cmds = (s.cluster s.arg.c).cmds.filter (fun z => !z.same x.sender x.onTl5 x.num)
              ++ [{ x with phase := .accepted, held := x.flag 5 }]
            ∧ t.agenda = s.agenda ++ [.event .matrixCommandStart (.at s.arg.c)])
      ∧ (s.acceptStatus s.arg.c x ≠ 0 → t.argCmd = some { x with
            phase := .finished, status := s.acceptStatus s.arg.c x, held := false, faultHeld := false
            flags := if s.acceptStatus s.arg.c x = 0x000F then flScale else 0 }))
  ∧ ∀ (s : State) (x : MCmd), (s.cluster s.arg.c).current = none → bestCmd (s.runnable s.arg.c) = some x →
    x ∈ s.runnable s.arg.c ∧ (∀ y ∈ s.runnable s.arg.c, y.cls.toNat ≤ x.cls.toNat)
      ∧ ∃ t, exec .matrixCommandStart s = .next t ∧ OnlyCluster s.arg.c s t
          ∧ (t.cluster s.arg.c).running = some (x.sender, x.onTl5, x.num) ∧ (t.cluster s.arg.c).acc = (s.cluster s.arg.c).acc
          ∧ t.agenda = s.agenda ++ [.event .matrixBlockStep (.at s.arg.c)]

/-- R162, R166, R167, R176: the step of `mzero` leaves +0 in every live output and every other element as it was; a step of `mma` or
`mmac` whose operands were read (`s1`, `ba`, `bb`) leaves in each live output of its block the K-step sum of the element (+0
before the first K-step of a command that does not accumulate) and the products, and every other element as it was. That sum is the one
that the rows of R167 give, the exact sum of the terms rounded once; and a product is exact, with its scales (R166).
The model's own in it: the agenda (log 1), `State.arg` (log 14). -/
def Obligations.MatrixBlockStep : Prop :=
  (∀ (c : Word) (ps : List (Option Fp)), KsumTable c ps (ksum c ps))
  ∧ (∀ (a b : Fp) (sa sb : Nat) (x y : ℚ), fpValue a = some x → fpValue b = some y → sa < 255 → sb < 255 →
      ∃ p, product a b sa sb = some p ∧ fpValue p = some (x * y * (2 : ℚ) ^ ((sa : Int) - 127) * (2 : ℚ) ^ ((sb : Int) - 127)))
  ∧ ∀ (s : State) (x : MCmd), (s.cluster s.arg.c).current = some x → x.phase = .running → x.faultHeld = false →
    s.paused x.vf = false → s.cmdLive s.arg.c x = true →
    (x.op = 4 →
      ∃ t, exec .matrixBlockStep s = .next t ∧ OnlyCluster s.arg.c s t
        ∧ ∀ e, (t.cluster s.arg.c).acc.get e 0 =
            if ∃ r ∈ x.segs s.arg.c.die, r.1 ≤ e ∧ e < r.1 + r.2 then 0 else (s.cluster s.arg.c).acc.get e 0)
    ∧ (x.op = 1 ∨ x.op = 2 → x.kbs ≠ 0 → ∀ (s1 : State) (ba bb : List (List Byte)),
      let f := (s.cluster s.arg.c).ctx.getD x.ctx FmtCtx.reset
      let rows := x.stepRows s.arg.c.die
      let cols := x.stepCols s.arg.c.die
      (∀ k, s.mxRead s.arg.c x (x.piecesA f rows) (x.piecesB f cols) k = k s1 ba bb) →
      ∃ t, exec .matrixBlockStep s = .next t
        ∧ (∀ e, (∀ m ∈ rows, ∀ n ∈ cols, x.rowon m = true → x.colon n = true → x.elem s.arg.c.die m n ≠ e) →
            (t.cluster s.arg.c).acc.get e 0 = (s1.cluster s.arg.c).acc.get e 0)
        ∧ ∀ i j m n, rows[i]? = some m → cols[j]? = some n → x.rowon m = true → x.colon n = true →
            (∀ m' ∈ rows, ∀ n' ∈ cols, x.rowon m' = true → x.colon n' = true →
              x.elem s.arg.c.die m' n' = x.elem s.arg.c.die m n → m' = m ∧ n' = n) →
            (t.cluster s.arg.c).acc.get (x.elem s.arg.c.die m n) 0 =
              BitVec.ofNat 32 (ksum (if x.kb = 0 ∧ x.accumulate = false then 0
                else (s1.cluster s.arg.c).acc.get (x.elem s.arg.c.die m n) 0) (x.stepTerms f rows cols ba bb i j)).1)

/-- R178 to R181, R172: one element of a drain on the unit's own die runs the epilogue program and leaves in the target core's
local memory what the program stored, and every other byte as before; then the drain stands at the next live output, or the command
is over; an illegal word ends it with status 0x0024, and leaves what the element's program had set as it was (the model's choice, log 98). The completion of a command whose writes lie on this device takes
it off, completes its number, and writes its status where the record's place grants it.
The model's own in it: `State.arg` (log 14). -/
def Obligations.MatrixDrain : Prop :=
  (∀ (s : State) (x : MCmd) (r : EpiRun), s.argCmd = some x → x.phase = .draining → s.paused x.vf = false →
    s.cmdLive s.arg.c x = true → r = x.elementRun s.arg.c (s.cluster s.arg.c) →
    (r.illegal = true → ∃ t, exec .drainElement s = .next t ∧ t.mem = s.mem
      ∧ t.argCmd = some { x with phase := .finished, status := 0x0024, held := false, faultHeld := false, flags := x.flags ||| r.flags })
    ∧ (r.illegal = false → s.mem.wf = true → x.elementTarget.die = s.arg.c.die →
      (∀ w ∈ r.stores, w.1 + w.2.length ≤ 65536
        ∧ firstRefused s.mem s.arg.c.clusterKey (writeAddrs x.elementTarget w) = none) →
      ∃ t y, exec .drainElement s = .next t ∧ (t.cluster s.arg.c).acc = (s.cluster s.arg.c).acc
        ∧ (∀ a, t.mem.byte a = byteAfter s.mem (r.stores.flatMap (writeAddrs x.elementTarget)) (r.stores.flatMap (·.2)) a)
        ∧ t.argCmd = some y ∧ y.status = x.status ∧ y.flags = x.flags ||| r.flags ∧ y.ran = true
        ∧ (∀ j : Fin 4, y.persist.get j = r.e.get (j.castLE (by decide : 4 ≤ 8) + 4))
        ∧ match x.nextLive x.dm (x.dn + 1) with
          | none => y.phase = .finished
          | some (m, n) => y.phase = .draining ∧ y.dm = m ∧ y.dn = n))
  ∧ ∀ (s : State) (x : MCmd), s.argCmd = some x → x.phase = .finished → x.asked = none → x.stage = 0 → s.arg.flag = false →
    sgKind x.sync.seg ≠ 5 → sgKind x.recPtr.seg ≠ 5 →
    ∃ t, exec .matrixCommandComplete s = .next t
      ∧ (t.cluster s.arg.c).cmds = (s.cluster s.arg.c).cmds.filter (fun y => !y.same x.sender x.onTl5 x.num)
      ∧ (t.cluster s.arg.c).acc = (s.cluster s.arg.c).acc ∧ NumberDone t x.vf x.sender x.tl x.num
      ∧ ∀ pl : Place, s.mem.wf = true → x.status ≠ 0x0023 → x.sync.p = 0 → x.statistic = false →
          (x.recPtr.add 2).p.toNat % 2 = 0 → s.engPlace x.sender x.vf none (x.recPtr.add 2) 2 rightW = .ok pl → pl.peer = none →
          HomeHere s.arg.c.die pl → firstRefused s.mem s.arg.c.clusterKey pl.addrs = none →
          ∀ a, t.mem.byte a = byteAfter s.mem pl.addrs [x.status.extractLsb' 0 8, x.status.extractLsb' 8 8] a

/-- R181 to R183: an epilogue instruction of the unit in `State.unit` writes its register, its flag or its store and ORs its
flags; every other register, the persistent ones among them, stays; the next word follows, and past address 255 the element
ends. The flags of `etab`'s comparison (none) and of `ecvt` and `estore` in their corners are the model's reading (log 44).
The model's own in it: the agenda (log 1). -/
def Obligations.EpilogueResult : Prop :=
  ∀ (i : Instr) (s : State) (x : EpiRun), x = (s.cluster s.unit).epi →
    (∀ (d : BitVec 3) (v : FRes), epilogueResult x (s.cluster s.unit).epiD i = some (d, v) →
      ∃ t y, exec i s = .next t ∧ OnlyCluster s.unit s t ∧ t.agenda = s.agenda ∧ t.cluster s.unit = { s.cluster s.unit with epi := y }
        ∧ (∀ r : BitVec 3, y.e.get r.toFin = if r = d then BitVec.ofNat 32 v.1 else x.e.get r.toFin)
        ∧ y.flags = x.flags ||| v.2 ∧ y.pc = x.pc + 1 ∧ (y.ended = true ↔ x.ended = true ∨ 255 < x.pc + 1)
        ∧ { y with e := x.e, flags := x.flags, pc := x.pc, ended := x.ended } = x)
    ∧ (∀ (y : EpiRun) (pc : Nat), epilogueOther x i = some (y, pc) →
      ∃ t, exec i s = .next t ∧ OnlyCluster s.unit s t ∧ t.agenda = s.agenda
        ∧ t.cluster s.unit = { s.cluster s.unit with epi := { y with pc := pc, ended := x.ended || 255 < pc } })
    ∧ (i = .eend → ∃ t, exec i s = .next t ∧ OnlyCluster s.unit s t ∧ t.agenda = s.agenda
        ∧ t.cluster s.unit = { s.cluster s.unit with epi := { x with ended := true } })

namespace Sys2Proof.Machine

/-! ## Copies -/

/-- The pointer of a chain entry as the origin slot resolves it (R191). -/
def chainPtr (s : State) (p : Dword) : RPtr := { p := p, seg := (s.slot s.origin).segOf p }

/-- `ptrs` are the entries that `capp` finds from a pointer on, with the places of their 64 bytes: each is aligned, passes the
checks, is on this device and is not refused, and names the next (R191, R193). -/
def IsChain (s : State) (p : Dword) (ptrs : List Dword) (pls : List Place) : Prop :=
  ptrs.length = pls.length ∧ ptrs.length ≤ 64 ∧ ptrs.headD 0 = p
    ∧ ∀ (j : Nat) (q : Dword) (pl : Place), ptrs[j]? = some q → pls[j]? = some pl →
        q ≠ 0 ∧ q.toNat % 64 = 0 ∧ s.extent s.cur (s.slot s.origin).vf (chainPtr s q) 1 64 0 12 = 0
          ∧ s.enginePlace s.cur (s.slot s.origin).vf none (chainPtr s q) 64 12 = .ok pl ∧ pl.peer = none
          ∧ Accepted s pl ∧ firstRefused s.mem s.cur.clusterKey pl.addrs = none
          ∧ (j < 63 → recordDword (pl.addrs.map s.mem.byte) 1 = ptrs.getD (j + 1) 0)

/-- The state after a packet's source bytes are read: what the caches hold, and the translations that the entry uses. -/
def sourceRead (s : State) (c : Coord) (ctx : Nat) (e : CopyEntry) (pl : Place) : State :=
  if e.packet.srcs = [] then s
  else
    State.pinPtr { s with mem := s.cohLoad c.clusterKey pl.policy pl.addrs } c e.vf (copyKey c ctx e.num)
      (e.src.add (e.packet.srcs.headD 0)) (e.packet.srcs.getLastD 0 + 1 - e.packet.srcs.headD 0) rightR

/-- The status with which an entry completes (R204, R205). -/
def finalStatus (s : State) (c : Coord) (e : CopyEntry) : BitVec 16 :=
  if (s.die c.die).strandLive e.strand then (if e.status = 0 ∧ e.truncated = true then 0x0026 else e.status) else 0x0023

end Sys2Proof.Machine

/-- R193, R194, R191: `capp` in slot 15 appends the entries of a chain to context n, in order, each with its number, the fields
of its 64 bytes and the status that the checks of R196 fix; the 64th is marked where the chain goes on, and an entry whose strand has
ended is to be completed (R207). `cadv` makes every number taken so far eligible. In another slot both trap with cause 0x02. No byte of memory changes.
The model's own in it: the agenda (log 1). -/
def Obligations.ChainAppendAndAdvance : Prop :=
  ∀ (n : BitVec 2) (a : BitVec 5) (s : State),
    (s.cur.slot ≠ 15 → TrapsHere 0x02 s →
      (∃ t, exec (.capp n a) s = .next t ∧ TookTrap 0x02 (instrWord (.capp n a)) s t)
        ∧ ∃ t, exec (.cadv n) s = .next t ∧ TookTrap 0x02 (instrWord (.cadv n)) s t)
    ∧ (s.cur.slot = 15 → ∃ t, exec (.cadv n) s = .next t ∧ PastBy 4 s.me t.me ∧ t.me.placedAs s.me = s.me
        ∧ { t with slots := s.slots, cores := s.cores, agenda := s.agenda } = s ∧ (∀ e, e ≠ s.cur → t.slot e = s.slot e)
        ∧ ((t.core s.cur).ctx n.toNat).advanced = (s.core s.cur).nextNum.getD n.toNat 1 - 1
        ∧ ((t.core s.cur).ctx n.toNat).entries = ((s.core s.cur).ctx n.toNat).entries
        ∧ t.agenda = s.agenda ++ [.event .chainEntryStart (.num s.cur n.toNat)])
    ∧ ∀ (ptrs : List Dword) (pls : List Place), s.cur.slot = 15 → Quiet s → s.me.cappPos = none →
        (s.core s.cur).inFlight + ptrs.length ≤ 1024 → IsChain s (s.rg a) ptrs pls →
        ∃ t es, exec (.capp n a) s = .next t ∧ { t with slots := s.slots, cores := s.cores, agenda := s.agenda } = s
          ∧ t.agenda = s.agenda ++ (if (s.die s.cur.die).strandLive (s.me.mbsrc.extractLsb' 32 24) then []
              else List.replicate ptrs.length (.event .chainEntryStart (.num s.cur n.toNat)))
          ∧ (∀ e, e ≠ s.cur → t.slot e = s.slot e) ∧ PastBy 4 s.me t.me ∧ t.me.placedAs s.me = s.me
          ∧ ((t.core s.cur).ctx n.toNat).entries = ((s.core s.cur).ctx n.toNat).entries ++ es ∧ es.length = ptrs.length
          ∧ ∀ (j : Nat) (e : CopyEntry) (pl : Place), es[j]? = some e → pls[j]? = some pl →
              let d := recordDword (pl.addrs.map s.mem.byte)
              e.num = (s.core s.cur).nextNum.getD n.toNat 1 + j ∧ e.entry = chainPtr s (ptrs.getD j 0) ∧ e.ctrl = d 0
                ∧ e.src = chainPtr s (d 2) ∧ e.dst = chainPtr s (d 3) ∧ e.shape = d 4 ∧ e.strides = d 5
                ∧ e.stamp = chainPtr s (d 6) ∧ e.opf = d 7 ∧ e.strand = s.me.mbsrc.extractLsb' 32 24
                ∧ e.status = s.entryStatus s.cur e ∧ e.phase = .queued ∧ e.row = 0 ∧ e.col = 0
                ∧ (e.truncated = true ↔ j = 63 ∧ d 1 ≠ 0)

/-- R195, R197 to R199, R204: an eligible entry starts; a packet on the entry's own die leaves at its destination what its
operation builds from the source bytes, and every other byte as before, and the entry goes on behind it; a finished entry whose
completion writes nothing to a peer leaves its context, completes its number and writes its status, unless a page fault on the write
of selacc's record holds it (R206; log 100 for a truncated one). A packet of copy takes the bytes of
its row at the same column, one of fill repeats the eight bytes of the op-specific field from the start of the row; each ends with its
row or at a destination offset that is a multiple of 256.
The model's own in it: the agenda (log 1), `State.arg` (log 14). -/
def Obligations.CopyEngine : Prop :=
  (∀ (s : State) (e : CopyEntry), ((s.core s.arg.c).ctx s.arg.n).entries.find? (·.phase == .queued) = some e →
    s.entry s.arg.c s.arg.n e.num = some e → e.num ≤ ((s.core s.arg.c).ctx s.arg.n).advanced → s.paused e.vf = false →
    (e.serial = true → ((s.core s.arg.c).ctx s.arg.n).entries.head? = some e) → (e.gate = true → e.opened = true) →
    s.startStatus s.arg.c e = 0 → (s.die s.arg.c.die).strandLive e.strand = true → e.op ≠ 6 →
    ∃ t, exec .chainEntryStart s = .next t ∧ { t with cores := s.cores, agenda := s.agenda } = s
      ∧ t.entry s.arg.c s.arg.n e.num = some { e with phase := .running }
      ∧ t.agenda = s.agenda ++ [.event .copyPacket (.entry s.arg.c s.arg.n e.num), .event .chainEntryStart (.num s.arg.c s.arg.n)])
  ∧ (∀ e : CopyEntry, e.op = 1 ∨ e.op = 2 →
      let k := e.packet
      let off := e.row * e.ds + e.col
      k.n = min (e.rowBytes - e.col) (256 - (fldN e.dst.p 0 60 + off) % 256) ∧ k.dst = some off
        ∧ (e.op = 1 → k.srcs = (List.range k.n).map (fun i => e.row * e.ss + e.col + i)
            ∧ ∀ data : List Byte, data.length = k.n → (e.build k data).1 = data)
        ∧ (e.op = 2 → k.srcs = []
            ∧ ∀ data, (e.build k data).1 = (List.range k.n).map fun i => e.opf.extractLsb' (8 * ((e.col + i) % 8)) 8))
  ∧ (∀ (s : State) (n : Nat) (e : CopyEntry) (pl : Place) (data : List Byte), s.arg.flag = false → s.mem.wf = true →
    s.nextPacket s.arg.c = some (n, e) → s.entry s.arg.c n e.num = some e →
    (s.die s.arg.c.die).strandLive e.strand = true → e.got = [] → e.data = none →
    s.engBytes s.arg.c e.vf (some (copyKey s.arg.c n e.num)) e.src e.packet.srcs rightR = .ok pl → pl.peer = none →
    HomeHere s.arg.c.die pl → firstRefused s.mem s.arg.c.clusterKey pl.addrs = none → data = pl.addrs.map s.mem.byte →
    (e.packet.dst = none →
      ∃ t, exec .copyPacket s = .next t ∧ (∀ a, t.mem.byte a = s.mem.byte a)
        ∧ t.entry s.arg.c n e.num = some ((e.fold e.packet data).after e.packet (e.build e.packet data).2))
    ∧ ∀ (off : Nat) (tgt : Place), e.packet.dst = some off →
        (sourceRead s s.arg.c n e pl).engPlace s.arg.c e.vf (some (copyKey s.arg.c n e.num)) (e.dst.add off)
          e.packet.n rightW = .ok tgt → tgt.peer = none → HomeHere s.arg.c.die tgt →
        firstRefused s.mem s.arg.c.clusterKey tgt.addrs = none →
        ∃ t, exec .copyPacket s = .next t
          ∧ (∀ a, t.mem.byte a = byteAfter s.mem tgt.addrs (e.build e.packet data).1 a)
          ∧ t.entry s.arg.c n e.num = some ((e.fold e.packet data).after e.packet (e.build e.packet data).2))
  ∧ ∀ (s : State) (e : CopyEntry) (rest : List CopyEntry), s.arg.n < 4 → s.arg.flag = false →
      ((s.core s.arg.c).ctx s.arg.n).entries = e :: rest → e.phase = .moved → s.paused e.vf = false → e.asked = none → e.stage = 0 →
      (e.held = true → (s.die s.arg.c.die).strandLive e.strand = false) → sgKind e.entry.seg ≠ 5 → sgKind e.stamp.seg ≠ 5 →
      let st := finalStatus s s.arg.c e
      let record := s.engPlace s.arg.c e.vf none e.stamp e.recordBytes.length rightW
      let records : Prop := e.op = 5 ∧ (st = 0 ∨ st = 0x0026)
      ((records → ∀ host va, record ≠ .error (.page host va)) →
        ∃ t, exec .chainEntryComplete s = .next t ∧ ((t.core s.arg.c).ctx s.arg.n).entries = rest
          ∧ NumberDone t e.vf s.arg.c s.arg.n e.num
          ∧ ∀ pl : Place, s.mem.wf = true → e.op ≠ 5 → e.stamp.p = 0 → (e.entry.add 2).p.toNat % 2 = 0 →
              s.engPlace s.arg.c e.vf none (e.entry.add 2) 2 rightW = .ok pl → pl.peer = none → HomeHere s.arg.c.die pl →
              firstRefused s.mem s.arg.c.clusterKey pl.addrs = none →
              ∀ a, t.mem.byte a = byteAfter s.mem pl.addrs [st.extractLsb' 0 8, st.extractLsb' 8 8] a)
      ∧ (∀ host va, records → record = .error (.page host va) → s.fqOn e.vf = true → e.pf < 2 →
        ∃ t, exec .chainEntryComplete s = .next t
          ∧ ((t.core s.arg.c).ctx s.arg.n).entries = { e with pf := e.pf + 1, held := true } :: rest)

namespace Sys2Proof.Machine

/-! ## Mailboxes, waits, knots, the loom, sync words and packets -/

/-- The instruction of `n` bytes that holds the slot at `c` is complete, and nothing else changed. -/
def CompletedAt (n : Nat) (c : Coord) (s t : State) : Prop :=
  OnlySlot c s t ∧ PastBy n (s.slot c) (t.slot c) ∧ (t.slot c).placedAs (s.slot c) = s.slot c

/-- Only the core at `c` and the slot of the current instruction differ. -/
def OnlyMeAndCore (s t : State) : Prop :=
  { t with slots := s.slots, cores := s.cores } = s ∧ (∀ e, e ≠ s.cur → t.slot e = s.slot e)
    ∧ ∀ e : Coord, e.coreKey ≠ s.cur.coreKey → t.core e = s.core e

/-- The pointer, the size and the operation of a sync word instruction (R217 to R221). -/
def syncForm (s : State) : Instr → Option (Dword × Nat × PacketOp)
  | .swadd a b => some (s.rg a, 16, .swadd ((s.rg b).setWidth 32))
  | .swexp a b =>
    if (s.rg b).getLsbD 32 then some (s.rg a, 128, .arm) else some (s.rg a, 16, .swexp ((s.rg b).setWidth 32))
  | .jadd c a b => some (s.rg a, 128, .jadd (s.rg b) ((s.rg c).setWidth 4) s.me.strand)
  | _ => none

/-- An update of the sync word at `a` to a target and a count, with `complete` (R216, R218): count and generation. -/
def SyncUpdated (a target count : Nat) (m n : Memory) : Prop :=
  let gen := m.readNat (a + 8) 2
  let full : Prop := 1 ≤ target ∧ target ≤ count
  (full → n.readNat a 4 = count % target ∧ n.readNat (a + 8) 2 = (gen + count / target) % 65536)
    ∧ (¬ full → n.readNat a 4 = count ∧ n.readNat (a + 8) 2 = gen) ∧ n.readNat (a + 4) 4 = target

/-- No byte outside `n` bytes at `a` changes. -/
def OnlyBytes (a n : Nat) (m m' : Memory) : Prop := ∀ b, b < a ∨ a + n ≤ b → m'.byte b = m.byte b

/-- The parties of the join record at `a`: bits 31:16 of its control dword (R219). -/
def joinParties (m : Memory) (a : Nat) : List Nat := (List.range 16).filter fun j => (m.dword (a + 0x18)).getLsbD (16 + j)

/-- What a packet for `a` does to memory at its home (R104, R106, R144, R155, R216, R218). -/
def Performed (p : Packet) (a : Nat) (m n : Memory) : Prop :=
  match p.op with
  | .store bytes tag => StoredAt (bytes.map (·.1)) (bytes.map (·.2)) tag m n
  | .flags f => n.dword (a + 8) = m.dword (a + 8) ||| (f.setWidth 64 <<< 16) ∧ OnlyBytes (a + 8) 8 m n
  | .swadd x => SyncUpdated a (m.readNat (a + 4) 4) ((m.readNat a 4 + x.toNat) % 2 ^ 32) m n ∧ OnlyBytes a 10 m n
  | .swexp x => SyncUpdated a x.toNat (m.readNat a 4) m n ∧ OnlyBytes a 10 m n
  | .vatomic ty fn els =>
    (∀ b, (∀ e ∈ els, b < e.1 ∨ e.1 + elemWidth ty / 8 ≤ b) → n.byte b = m.byte b)
      ∧ ∀ l1 e l2, els = l1 ++ e :: l2 →
          (∀ e' ∈ l1 ++ l2, e.1 + elemWidth ty / 8 ≤ e'.1 ∨ e'.1 + elemWidth ty / 8 ≤ e.1) →
          n.readNat e.1 (elemWidth ty / 8) =
            vatomicFn ty fn (elemWidth ty) (m.readNat e.1 (elemWidth ty / 8)) (e.2.toNat % 2 ^ elemWidth ty)
              % 256 ^ (elemWidth ty / 8)
  | .arm => OnlyBytes a 0x20 m n
  | .jadd .. => OnlyBytes a 0x20 m n
  | .arrival .. => OnlyBytes a 0x10 m n
  | .mail _ | .ship _ | .cut _ => m = n

/-- A packet without the note that it has left for its peer. -/
def Packet.unsent (p : Packet) : Packet := { p with sent := false }

end Sys2Proof.Machine

/-- R186 to R188: `mbsend` to an empty mailbox, with nothing posted, fills it and sets kK to ones, and to a full one, or to one whose
fill is on its way (log 3), clears kK; it never holds the slot; `mbtake` of a full mailbox writes its value, its sender to `c.mbsrc` and ones to kK, and empties it; of an empty one clears kK. -/
def Obligations.MailboxResult : Prop :=
  (∀ (n : BitVec 3) (a : BitVec 5) (k : BitVec 3) (s : State),
    (∃ t, exec (.mbsend n a k) s = .next t ∧ t.me.hold = none)
    ∧ (((s.core s.cur).mb.get n.toFin).full = true ∨ ((s.core s.cur).mb.get n.toFin).coming = true →
      ∃ t, exec (.mbsend n a k) s = .next t ∧ WroteK 4 k 0 s t)
    ∧ (((s.core s.cur).mb.get n.toFin).full = false → ((s.core s.cur).mb.get n.toFin).coming = false → Quiet s →
      ∃ t, exec (.mbsend n a k) s = .next t ∧ OnlyMeAndCore s t ∧ PastBy 4 s.me t.me
        ∧ { t.me.placedAs s.me with k := s.me.k } = s.me
        ∧ (∀ r, t.rk r = if r = k ∧ r ≠ 0 then 0xFFFFFFFFFFFFFFFF else s.rk r)
        ∧ { t.core s.cur with mb := (s.core s.cur).mb } = s.core s.cur
        ∧ ∀ j : BitVec 3, (t.core s.cur).mb.get j.toFin = if j = n then
            { value := s.rg a, full := true, coming := false, slot := s.cur.slot, strand := s.me.strand } else (s.core s.cur).mb.get j.toFin))
  ∧ ∀ (d : BitVec 5) (n k : BitVec 3) (s : State),
      (((s.core s.cur).mb.get n.toFin).full = false → ∃ t, exec (.mbtake d n k) s = .next t ∧ WroteK 4 k 0 s t)
      ∧ (((s.core s.cur).mb.get n.toFin).full = true →
        ∃ t, exec (.mbtake d n k) s = .next t ∧ OnlyMeAndCore s t ∧ PastBy 4 s.me t.me
          ∧ { t.me.placedAs s.me with g := s.me.g, k := s.me.k, mbsrc := s.me.mbsrc } = s.me
          ∧ (∀ r, t.rg r = if r = d ∧ r ≠ 0 then ((s.core s.cur).mb.get n.toFin).value else s.rg r)
          ∧ (∀ r, t.rk r = if r = k ∧ r ≠ 0 then 0xFFFFFFFFFFFFFFFF else s.rk r)
          ∧ t.me.mbsrc = (((s.core s.cur).mb.get n.toFin).strand.setWidth 64 <<< 32)
              ||| ((s.core s.cur).mb.get n.toFin).slot.setWidth 64
          ∧ { t.core s.cur with mb := (s.core s.cur).mb } = s.core s.cur
          ∧ ∀ j : BitVec 3, (t.core s.cur).mb.get j.toFin = if j = n then Mailbox.reset else (s.core s.cur).mb.get j.toFin)

/-- R209, R211, R212, R218: a wait whose condition holds passes, with the counter's subtraction or the new watch; one whose
condition does not hold leaves the rotation; its event completes it once the condition holds. That `waitm` holds the slot exactly while the line's count of writes is its watch's is the model's
choice (log 16).
The model's own in it: `State.arg` (log 14). -/
def Obligations.WaitResult : Prop :=
  (∀ (n : BitVec 3) (a : BitVec 5) (s : State),
    ((s.rg a).toNat ≤ (s.core s.cur).tl.get n.toFin → ∃ t, exec (.waittl n a) s = .next t ∧ Passed 4 s t)
    ∧ ((s.core s.cur).tl.get n.toFin < (s.rg a).toNat → ∃ t, exec (.waittl n a) s = .next t ∧ HeldBy (.waittl n (s.rg a)) s t))
  ∧ (∀ (n : BitVec 3) (v : Dword) (s : State), (s.slot s.arg.c).hold = some (.waittl n v) →
    (v.toNat ≤ (s.core s.arg.c).tl.get n.toFin → ∃ t, exec .waittlSatisfied s = .next t ∧ CompletedAt 4 s.arg.c s t)
    ∧ ((s.core s.arg.c).tl.get n.toFin < v.toNat → exec .waittlSatisfied s = .next s))
  ∧ (∀ (n : BitVec 4) (a : BitVec 5) (s : State) (e : Word), e = (s.rg a).setWidth 32 →
    (∀ w ∈ (s.core s.cur).lcWait, w.2.1 ≠ s.cur) →
    (e = 0 → ∃ t, exec (.waitlc n a) s = .next t ∧ Passed 4 s t)
    ∧ (e ≠ 0 → (∀ w ∈ (s.core s.cur).lcWait, w.1 ≠ n.toNat) → e.toNat ≤ ((s.core s.cur).lc.get n.toFin).toNat →
      ∃ t, exec (.waitlc n a) s = .next t ∧ OnlyMeAndCore s t ∧ PastBy 4 s.me t.me ∧ t.me.placedAs s.me = s.me
        ∧ { t.core s.cur with lc := (s.core s.cur).lc } = s.core s.cur
        ∧ ∀ j : BitVec 4, (t.core s.cur).lc.get j.toFin =
            (s.core s.cur).lc.get j.toFin - if j = n then e else 0)
    ∧ (e ≠ 0 → (s.core s.cur).lcReady n.toNat = none →
      ((∃ w ∈ (s.core s.cur).lcWait, w.1 = n.toNat) ∨ ((s.core s.cur).lc.get n.toFin).toNat < e.toNat) →
      ∃ t, exec (.waitlc n a) s = .next t ∧ HeldBy (.waitlc n e) s t
        ∧ t.core s.cur = { s.core s.cur with lcWait := (s.core s.cur).lcWait ++ [(n.toNat, s.cur, e)] }))
  ∧ (∀ (s : State) (n : BitVec 4) (w : Coord) (e : Word), s.arg.n = n.toNat → (s.core s.arg.c).lcReady n.toNat = some (w, e) →
    ∃ t, exec .waitlcServe s = .next t ∧ t.mem = s.mem ∧ PastBy 4 (s.slot w) (t.slot w)
      ∧ (∀ x, x ≠ w → t.slot x = s.slot x)
      ∧ ∀ j : BitVec 4, (t.core s.arg.c).lc.get j.toFin = (s.core s.arg.c).lc.get j.toFin - if j = n then e else 0)
  ∧ (∀ (a : BitVec 5) (s : State) (pl : Place), s.kindOf (s.rg a) ≠ 6 → s.dataPlace s.cur (s.rg a) 1 rightR = .ok pl →
    pl.peer = none → atHomes s pl = (s, true) →
    let now := (pl.addrs.headD 0 / 128, s.mem.vers.get (pl.addrs.headD 0 / 128) 0)
    (s.me.watch = some now → ∃ t, exec (.waitm a) s = .next t ∧ HeldBy .waitm s t)
    ∧ (s.me.watch ≠ some now → ∃ t, exec (.waitm a) s = .next t ∧ OnlySlot s.cur s t ∧ PastBy 4 s.me t.me
        ∧ t.me.placedAs s.me = { s.me with watch := some now }))
  ∧ (∀ (a : BitVec 5) (s : State) (pl : Place) (dev : BitVec 9) (va : BitVec 48), s.kindOf (s.rg a) ≠ 6 → Quiet s →
    s.dataPlace s.cur (s.rg a) 1 rightR = .ok pl → pl.peer = some (dev, va) →
    (s.me.watch.map (·.1) = some (peerLine dev va) → s.peerLost dev = false →
      ∃ t, exec (.waitm a) s = .next t ∧ HeldBy (.load (.waitm a) (s.rg a) dev) s t)
    ∧ (s.me.watch.map (·.1) ≠ some (peerLine dev va) →
      ∃ t, exec (.waitm a) s = .next t ∧ OnlySlot s.cur s t ∧ PastBy 4 s.me t.me
        ∧ t.me.watch.map (·.1) = some (peerLine dev va)))
  ∧ (∀ (s : State) (l v : Nat), (s.slot s.arg.c).hold = some .waitm → (s.slot s.arg.c).watch = some (l, v) →
    ∃ t, exec .waitmReturn s = .next t ∧ OnlySlot s.arg.c s t ∧ PastBy 4 (s.slot s.arg.c) (t.slot s.arg.c)
      ∧ (t.slot s.arg.c).watch = some (l, s.mem.vers.get l 0))
  ∧ (∀ (a b : BitVec 5) (s : State) (pl : Place), Quiet s → (s.rg a).toNat % 16 = 0 → s.kindOf (s.rg a) ≠ 6 →
    Granted s (s.rg a) 16 rightR pl →
    let behind := (BitVec.ofNat 16 (s.mem.readNat (pl.addrs.headD 0 + 8) 2) - (s.rg b).setWidth 16).toNat
    (behind < 0x8000 → ∃ t, exec (.swwait a b) s = .next t ∧ Passed 4 s t)
    ∧ (0x8000 ≤ behind → ∃ t, exec (.swwait a b) s = .next t
        ∧ HeldBy (.swwait (pl.addrs.headD 0) ((s.rg b).setWidth 16)) s t))
  ∧ ∀ (s : State) (a : Nat) (g : BitVec 16), (s.slot s.arg.c).hold = some (.swwait a g) →
      ((BitVec.ofNat 16 (s.mem.readNat (a + 8) 2) - g).toNat < 0x8000 →
        ∃ t, exec .swwaitReturn s = .next t ∧ CompletedAt 4 s.arg.c s t)
      ∧ (0x8000 ≤ (BitVec.ofNat 16 (s.mem.readNat (a + 8) 2) - g).toNat → exec .swwaitReturn s = .next s)

/-- R213 to R215, R224: `karr` and `karrw` of a member send an arrival, `kwait` passes once the phase is over, and a non-member
traps; an arrival that reaches its knot counts, and gives the slot that sent it the parity it counted in; the last one flips the
phase; a write of the knot word flips it too; a loom term with its counters high takes thr from each of them. That a[n] is written
where the arrival is counted, and that a flip of a device knot clears the counts of all dies, is the model's reading (log 39).
The model's own in it: the agenda (log 1), `State.arg` (log 14). -/
def Obligations.KnotAndLoomResult : Prop :=
  (∀ (n : BitVec 6) (s : State),
    (s.knotMember s.cur n.toNat = false → TrapsHere 0x06 s →
      (∃ t, exec (.karr n) s = .next t ∧ TookTrap 0x06 (n.setWidth 64) s t)
        ∧ ∃ t, exec (.karrw n) s = .next t ∧ TookTrap 0x06 (n.setWidth 64) s t)
    ∧ (s.knotMember s.cur n.toNat = true → s.phaseOpen s.cur n.toNat = true →
      (∃ t, exec (.karr n) s = .next t ∧ HeldBy (.knot n false) s t)
        ∧ ∃ t, exec (.karrw n) s = .next t ∧ HeldBy (.knot n false) s t)
    ∧ (s.knotMember s.cur n.toNat = true → n.toNat < 40 → s.phaseOpen s.cur n.toNat = false → Quiet s →
      (∃ t, exec (.karr n) s = .next t ∧ PastBy 4 s.me t.me
        ∧ { t with slots := s.slots, dies := s.dies, agenda := s.agenda } = s ∧ (∀ e, e ≠ s.cur → t.slot e = s.slot e)
        ∧ t.agenda = s.agenda ++ [.event .knotArrival (.num s.cur n.toNat)]
        ∧ (t.knot s.cur.die n.toNat).inFlight = (s.knot s.cur.die n.toNat).inFlight ++ [s.cur]
        ∧ { t.me.placedAs s.me with knotArrived := s.me.knotArrived, knotFly := s.me.knotFly } = s.me
        ∧ (∀ j, j < 40 → t.me.knotArrived.getLsbD j = (s.me.knotArrived.getLsbD j || j == n.toNat))
        ∧ ∀ j, j < 40 → t.me.knotFly.getLsbD j = (s.me.knotFly.getLsbD j || j == n.toNat))
      ∧ ∃ t, exec (.karrw n) s = .next t ∧ t.me.hold = some (.knot n true) ∧ t.me.pc = s.me.pc
          ∧ t.agenda = s.agenda ++ [.event .knotArrival (.num s.cur n.toNat)]
          ∧ (t.knot s.cur.die n.toNat).inFlight = (s.knot s.cur.die n.toNat).inFlight ++ [s.cur])
    ∧ (s.me.knotArrived.getLsbD n.toNat = false → ∃ t, exec (.kwait n) s = .next t ∧ Passed 4 s t)
    ∧ (s.phaseOpen s.cur n.toNat = true → ∃ t, exec (.kwait n) s = .next t ∧ HeldBy (.knot n true) s t)
    ∧ (s.me.knotArrived.getLsbD n.toNat = true → s.phaseOpen s.cur n.toNat = false →
      ∃ t, exec (.kwait n) s = .next t ∧ OnlySlot s.cur s t ∧ PastBy 4 s.me t.me
        ∧ { t.me.placedAs s.me with knotArrived := s.me.knotArrived } = s.me
        ∧ ∀ j, j < 40 → t.me.knotArrived.getLsbD j = (s.me.knotArrived.getLsbD j && j != n.toNat)))
  ∧ (∀ (s : State) (n : BitVec 6), (s.slot s.arg.c).hold = some (.knot n true) → s.phaseOpen s.arg.c n.toNat = false →
    ∃ t, exec .kwaitRelease s = .next t ∧ OnlySlot s.arg.c s t ∧ PastBy 4 (s.slot s.arg.c) (t.slot s.arg.c)
      ∧ (t.slot s.arg.c).knotArrived.getLsbD n.toNat = false)
  ∧ (∀ s : State, (s.knot s.arg.c.die s.arg.n).inFlight.contains s.arg.c = true → (s.knot s.arg.c.die s.arg.n).enabled = true →
    ∃ t, exec .knotArrival s = .next t ∧ t.mem = s.mem ∧ (t.knot s.arg.c.die s.arg.n).word = (s.knot s.arg.c.die s.arg.n).word
      ∧ ((s.knot s.arg.c.die s.arg.n).count + 1 < (s.knot s.arg.c.die s.arg.n).need ∨ 32 ≤ s.arg.n →
          (t.knot s.arg.c.die s.arg.n).count = (s.knot s.arg.c.die s.arg.n).count + 1
            ∧ (t.knot s.arg.c.die s.arg.n).parity = (s.knot s.arg.c.die s.arg.n).parity)
      ∧ (s.arg.n < 32 → (s.knot s.arg.c.die s.arg.n).need ≤ (s.knot s.arg.c.die s.arg.n).count + 1 →
          (t.knot s.arg.c.die s.arg.n).count = 0 ∧ (t.knot s.arg.c.die s.arg.n).parity = !(s.knot s.arg.c.die s.arg.n).parity)
      ∧ (s.arg.n < 40 → (s.slot s.arg.c).knotFly.getLsbD s.arg.n = true → (∀ v ∈ s.vfs, ∀ w, Sparse.find? (v.2.records w) s.arg.c.key = none) →
          (t.slot s.arg.c).knotFly.getLsbD s.arg.n = false
            ∧ (t.slot s.arg.c).knotA.getLsbD s.arg.n = (s.knot s.arg.c.die s.arg.n).parity))
  ∧ (∀ s : State, s.deviceReady s.arg.c.die s.arg.n = true →
    ∃ t, exec .deviceKnotComplete s = .next t ∧ t.mem = s.mem
      ∧ ∀ d, (t.knot d s.arg.n).parity = (!(s.knot d s.arg.n).parity) ∧ (t.knot d s.arg.n).count = 0
          ∧ (t.knot d s.arg.n).word = (s.knot d s.arg.n).word)
  ∧ (∀ s : State, s.arg.n ≤ 39 →
    ∃ t, exec .knotWordWrite s = .next t ∧ t.mem = s.mem
      ∧ (t.knot s.arg.c.die s.arg.n).word = s.arg.v &&& 0xFFC0FF0000001FFF ∧ (t.knot s.arg.c.die s.arg.n).count = 0
      ∧ (t.knot s.arg.c.die s.arg.n).parity = !(s.knot s.arg.c.die s.arg.n).parity)
  ∧ ∀ (s : State) (i : Fin 16) (w : Dword), w = (s.cluster s.arg.c).term.get i → (s.cluster s.arg.c).termHigh w = true →
      (∀ j : Fin 16, j ≠ i → ((s.cluster s.arg.c).term.get j).getLsbD 63 = false) →
      ∃ t, exec .loomTermFire s = .next t
        ∧ ∀ j : Fin 16,
            fld ((t.cluster s.arg.c).ct.get j) 0 32 = fld ((s.cluster s.arg.c).ct.get j) 0 32
              - (if w.getLsbD j.val then fld ((s.cluster s.arg.c).ct.get j) 32 16 else 0#16).setWidth 32
            ∧ fld ((t.cluster s.arg.c).ct.get j) 32 32 = fld ((s.cluster s.arg.c).ct.get j) 32 32

/-- R217 to R221: a sync word instruction whose record is aligned, of a kind that may hold it, on this device and not waited for
puts its packet behind the others of the port and passes; no byte of memory changes. (No packet of the slot to a peer is about to
leave.) Under policy 11 it performs at once, which is the model's reading (log 38), and a record of xcluster kind is updated as one of another
kind (log 94). A host record traps with cause 0x06.
The model's own in it: the port and its order (log 3), the agenda (log 1). -/
def Obligations.SyncOperationIsPosted : Prop :=
  ∀ (i : Instr) (s : State) (p : Dword) (n : Nat) (op : PacketOp), syncForm s i = some (p, n, op) → p.toNat % n = 0 →
    (s.kindOf p = 6 → TrapsHere 0x06 s → ∃ t, exec i s = .next t ∧ TookTrap 0x06 p s t)
    ∧ ∀ pl : Place, s.kindOf p ≠ 6 → (op = .arm → s.kindOf p = 4 ∨ s.kindOf p = 7) → s.dataPlace s.cur p n 13 = .ok pl →
        pl.peer = none → pl.addrs ≠ [] →
        (pl.waited = false → s.pump s.cur = s →
          ∃ t, exec i s = .next t ∧ { t with slots := s.slots, port := s.port, agenda := s.agenda } = s
            ∧ (∀ e, e ≠ s.cur → t.slot e = s.slot e) ∧ PastBy 4 s.me t.me ∧ t.me.placedAs s.me = s.me
            ∧ ∃ k, t.port = s.port ++ [k] ∧ k.coord = s.cur ∧ k.strand = s.me.strand ∧ k.vf = s.me.vf ∧ k.ptr = p
                ∧ k.op = op ∧ k.held = false ∧ k.task = .present ∧ k.route = .here (pl.addrs.headD 0)
                ∧ t.agenda = s.agenda ++ [.event (op.event pl.xcl) (.at s.cur)])
        ∧ (pl.waited = true → Quiet s → s.mem.wf = true →
          s.crossAll s.cur s.me.strand s.me.vf (pl.xcl || op matches .arm) pl.addrs = (s, true) → firstRefused s.mem s.cur.clusterKey pl.addrs = none →
          ∃ t, exec i s = .next t ∧ t.port = s.port ∧ PastBy 4 s.me t.me ∧ t.me.placedAs s.me = s.me
            ∧ (∀ x, op = .swadd x →
                SyncUpdated (pl.addrs.headD 0) (s.mem.readNat (pl.addrs.headD 0 + 4) 4)
                  ((s.mem.readNat (pl.addrs.headD 0) 4 + x.toNat) % 2 ^ 32) s.mem t.mem ∧ OnlyBytes (pl.addrs.headD 0) 10 s.mem t.mem)
            ∧ (∀ x, op = .swexp x →
                SyncUpdated (pl.addrs.headD 0) x.toNat (s.mem.readNat (pl.addrs.headD 0) 4) s.mem t.mem
                  ∧ OnlyBytes (pl.addrs.headD 0) 10 s.mem t.mem))

/-- R144, R146, R293, R299: the event of a slot's first packet, where its home is on the slot's own die
(`storePerform`, `atomicPacketPerform`, `swaddPerform`, `swexpPerform`, `joinArm`, `jaddPerform` or `xclusterAccess`), takes it from the
port and does what the packet does there; a refused packet changes no byte and is recorded for the slot, for poison under a store
with the pointer of the lowest poisoned word (R152), and for what is no store with the packet's own pointer, which is the model's choice
(log 81). A packet that stands for the fill of a mailbox, the release of a send or a cut does it (R186, R284, R259).
The model's own in it: the port and its order (log 3), the agenda (log 1), `State.arg` (log 14). -/
def Obligations.PacketPerforms : Prop :=
  ∀ (e : Instr) (s : State) (p : Packet) (l1 l2 : List Packet) (a : Nat), s.arg.flag = false → s.port = l1 ++ p :: l2 →
    (∀ q ∈ l1, q.coord ≠ s.arg.c) → p.coord = s.arg.c → p.route = .here a →
    p.held = false → p.task = .present →
    p.op.event p.xcluster = e → p.completes = none → (∀ d, homeDie a = some d → d = s.arg.c.die.toNat) → s.mem.wf = true →
    (homeRefused s.mem s.arg.c.clusterKey p.policy p.addrs p.op.escapeOf.1 p.op.escapeOf.2 = none →
      ∃ t, exec e s = .next t ∧ t.port.map Packet.unsent = (l1 ++ l2).map Packet.unsent ∧ Performed p a s.mem t.mem
        ∧ (∀ n : BitVec 3, p.op = .mail n → (s.vf p.vf).savedCores.find? s.arg.c.coreKey = none →
            (t.core s.arg.c).mb.get n.toFin = { (s.core s.arg.c).mb.get n.toFin with full := true, coming := false })
        ∧ (∀ n : Nat, p.op = .ship n →
            ∀ x ∈ (t.cluster s.arg.c).sends, x.core = s.arg.c.core → x.num = n → x.waits = false)
        ∧ (∀ id : BitVec 24, p.op = .cut id →
            ∀ d ∈ (if ((s.die s.arg.c.die).strandOf id).isSome = true then [s.arg.c.die] else allDies),
              .event .cutArrival { EvArg.dieVf d p.vf with n := id.toNat } ∈ t.agenda)
        ∧ (p.op = .arm → (s.die (joinDie a)).joins.length < 1024 → joinParties s.mem a ≠ [] →
            (∀ j ∈ joinParties s.mem a, (s.mem.dword (a + 0x20 + 4 * j)).getLsbD 31 = false) →
            t.mem.readNat a 4 = 0 ∧ t.mem.readNat (a + 4) 4 = (joinParties s.mem a).length ∧ t.mem.dword (a + 0x10) = 0
              ∧ fld (t.mem.dword (a + 8)) 32 16 = 0#16 ∧ fld (t.mem.dword (a + 0x18)) 0 16 = 0#16
              ∧ fld (t.mem.dword (a + 0x18)) 16 48 = fld (s.mem.dword (a + 0x18)) 16 48 ∧ (t.joinOf a).isSome = true)
        ∧ ∀ (x : Dword) (j : BitVec 4) (id : BitVec 24), p.op = .jadd x j id → fld (s.mem.dword (a + 0x18)) 32 2 = 0#2 →
            ((s.joinOf a).isSome = true → (s.mem.dword (a + 8)).getLsbD (32 + j.toNat) = false
              ∧ j.toNat ∈ joinParties s.mem a ∧ (s.mem.dword (a + 0x18)).getLsbD j.toNat = false) →
            t.mem.dword (a + 0x10) = s.mem.dword (a + 0x10) + x
              ∧ SyncUpdated a (s.mem.readNat (a + 4) 4) ((s.mem.readNat a 4 + 1) % 2 ^ 32) s.mem t.mem
              ∧ ((s.joinOf a).isSome = true → (t.mem.dword (a + 0x18)).getLsbD j.toNat = true))
    ∧ ∀ (cause : BitVec 8) (j : Nat),
        homeRefused s.mem s.arg.c.clusterKey p.policy p.addrs p.op.escapeOf.1 p.op.escapeOf.2 = some (cause, j) →
        ∃ t, exec e s = .next t ∧ t.port.map Packet.unsent = (l1 ++ l2).map Packet.unsent ∧ t.mem = s.mem
          ∧ ((s.slot s.arg.c).rfault.getLsbD 63 = false →
              (∀ bytes tag, p.op = .store bytes tag → (t.slot s.arg.c).rfptr =
                if cause = 0x09 then pcPlus p.ptr (BitVec.ofNat 60 (j / 8 * 8)) else p.ptr)
              ∧ ((∀ bytes tag, p.op ≠ .store bytes tag) → (t.slot s.arg.c).rfptr = p.ptr)
              ∧ (t.slot s.arg.c).rfault.getLsbD 63 = true ∧ fld (t.slot s.arg.c).rfault 48 8 = cause)
          ∧ ((s.slot s.arg.c).rfault.getLsbD 63 = true →
              (t.slot s.arg.c).rfptr = (s.slot s.arg.c).rfptr ∧ (t.slot s.arg.c).rfault.getLsbD 62 = true)

namespace Sys2Proof.Machine

/-! ## Events of slots, registers, the host and power -/

/-- Nothing that a page fault holds waits for a wake at the coordinate, besides its slot (R334). -/
def NothingHeld (s : State) (c : Coord) (vf : Nat) : Prop :=
  s.heldCopies c vf = [] ∧ s.heldCommands c vf = [] ∧ s.heldWalk c vf = none
    ∧ ∀ p ∈ s.port, p.held = true → p.coord = c → p.vf ≠ vf

/-- An instruction behind its prefix, if it has one (R42). -/
def withPrefix (x : Option (BitVec 26 × Word)) (i : Instr) : Instr :=
  match x with
  | none => i
  | some (x, f) => .ximm x f

/-- The instruction of a slot is one whose answers have no rule of their own: no movement firmware, start of a task, `enq` or `tspawn`
(R26, R232, R235). -/
def plainAccess : Instr → Prop
  | .nop | .enq .. | .tspawn .. => False
  | _ => True

/-- The pointer of a refusal that met the word of byte `j` of an access at `p`: the word's own for `dtload` (R123), and for poison under
a vector load or store (R152); else the access's. -/
def refusedPointer (i : Instr) (cause : Byte) (p : Dword) (j : Nat) : Dword :=
  let word := pcPlus p (BitVec.ofNat 60 (j / 8 * 8))
  match i with
  | .dtload .. => word
  | .vld .. | .vst .. => if cause = 0x09 then word else p
  | .ximm _ f =>
    (match decodeWord f with
     | some (.vld ..) | some (.vst ..) => if cause = 0x09 then word else p
     | _ => p)
  | _ => p

/-- No word among `n` bytes at `a` is poisoned. -/
def Unpoisoned (m : Memory) (a n : Nat) : Prop := ∀ j, j < n → m.tag (a + j) ≠ 3

/-- What a request from outside leaves on the agenda: a device in a wake depth wakes (R372). -/
def woken (s : State) : List Turn := if s.dev.depth = .w0 then [] else [.event .wakeFromIdle (.at Coord.zero)]

/-- The bytes of a list of dwords (R2). -/
def dwordBytes (l : List Dword) : List Byte := l.flatMap fun d => (List.range 8).map fun j => d.extractLsb' (8 * j) 8

end Sys2Proof.Machine

/-- R63, R89 to R91, R329, R331, R334, R336: the events that bring slots back or end their tasks. A block's delivery frees the
slots of its cluster that wait for it; a due `yield` or `ralign`, and an `invt` whose translations have no user, complete; a wake
frees a slot held by a page fault, and else sets its latch, which ends `halt`; a slot in `exit` with nothing posted retires with
DONE; the lowest queued slot is served in slot 13. Which cached translations and posted packets an `invt` waits for is the model's choice
(log 20).
The model's own in it: the port and its order (log 3), the agenda (log 1), `State.arg` (log 14). -/
def Obligations.SlotEvents : Prop :=
  (∀ s : State, ∃ t, exec .fetchBlockDelivery s = .next t ∧ { t with slots := s.slots, clusters := s.clusters } = s
    ∧ (t.cluster s.arg.c).icache.head? = some (s.arg.n, s.arg.bytes)
    ∧ ∀ e : Coord, { t.slot e with hold := (s.slot e).hold } = s.slot e
        ∧ (e.clusterKey = s.arg.c.clusterKey → (s.slot e).hold = some (.fetch s.arg.n) → (t.slot e).hold = none))
  ∧ (∀ (s : State) (since : Nat) (others : BitVec 16), (s.slot s.arg.c).hold = some (.yield since others) →
    (since + 16 ≤ (s.core s.arg.c).cycle ∨ (∀ i : BitVec 4, others.getLsbD i.toNat = true →
      ∃ l, (s.slot (s.arg.c.at i)).lastIssue = some l ∧ since < l)) →
    ∃ t, exec .yieldReturn s = .next t ∧ CompletedAt 4 s.arg.c s t)
  ∧ (∀ (s : State) (n : BitVec 15) (since : Nat), (s.slot s.arg.c).hold = some (.ralign n since) →
    (s.alignedAll s.arg.c = false → since + n.toNat ≤ (s.core s.arg.c).cycle →
      ∃ t, exec .ralignRelease s = .next t ∧ CompletedAt 4 s.arg.c s t)
    ∧ (s.alignedAll s.arg.c = true →
      ∃ t, exec .ralignRelease s = .next t ∧ { t with slots := s.slots } = s
        ∧ (∀ w, w = s.arg.c ∨ (w ∈ s.peers s.arg.c ∧ s.alignedAll w = true) → PastBy 4 (s.slot w) (t.slot w))
        ∧ (∀ w, w ∉ s.inStep s.arg.c → t.slot w = s.slot w)
        ∧ ((∀ w ∈ s.inStep s.arg.c, (s.slot w).lastIssue.isSome) →
            ∃ k, ∀ w ∈ s.inStep s.arg.c, s.spacing w ≤ k ∧ t.spacing w = k)))
  ∧ (∀ s : State, (s.slot s.arg.c).hold = some .halt → (s.slot s.arg.c).wakeLatch = true →
    ∃ t, exec .haltReturn s = .next t ∧ OnlySlot s.arg.c s t ∧ PastBy 4 (s.slot s.arg.c) (t.slot s.arg.c)
      ∧ (t.slot s.arg.c).wakeLatch = false)
  ∧ (∀ s : State, s.arg.peer = none → NothingHeld s s.arg.c s.arg.vf →
    ((s.slot s.arg.c).live = true → (s.slot s.arg.c).vf = s.arg.vf → (s.slot s.arg.c).hold = some .pageFault →
      ∃ t, exec .wakeDelivery s = .next t ∧ OnlySlot s.arg.c s t ∧ t.slot s.arg.c = { s.slot s.arg.c with hold := none })
    ∧ ((s.slot s.arg.c).hold ≠ some .pageFault → ((s.slot s.arg.c).live = true → (s.slot s.arg.c).vf = s.arg.vf) →
      ∃ t, exec .wakeDelivery s = .next t ∧ OnlySlotAgenda s.arg.c s t
        ∧ t.slot s.arg.c = { s.slot s.arg.c with wakeLatch := true }))
  ∧ (∀ (s : State) (q : PeerReq), s.arg.peer = some q → s.staleRequest q = true →
    ∃ t, exec .wakeDelivery s = .next t ∧ t.slots = s.slots ∧ t.mem = s.mem
      ∧ t.out = s.out ++ [.peerAnswer q.source q.sourceInc .lost])
  ∧ (∀ s : State, (s.slot s.arg.c).hold = some .exiting → (∀ p ∈ s.port, p.coord ≠ s.arg.c) →
    ∃ t, exec .slotRetire s = .next t ∧ (t.slot s.arg.c).live = false ∧ (t.slot s.arg.c).retired = some .done
      ∧ (t.slot s.arg.c).hold = none ∧ (t.slot s.arg.c).frame = none ∧ (t.slot s.arg.c).g = (s.slot s.arg.c).g)
  ∧ (∀ (s : State) (k : BitVec 4) (cause : BitVec 8) (block : BitVec 52), (s.core s.arg.c).serving = none →
    (s.slot (s.arg.c.at k)).hold = some (.service cause block) →
    (∀ j : BitVec 4, j.toNat < k.toNat → ∀ x y, (s.slot (s.arg.c.at j)).hold ≠ some (.service x y)) →
    ∃ t, exec .shadowServiceStart s = .next t ∧ { t with slots := s.slots, cores := s.cores } = s
      ∧ (∀ e, e ≠ s.arg.c.at 13 → t.slot e = s.slot e) ∧ (t.core s.arg.c).serving = some k
      ∧ (t.core s.arg.c).pmiss = k ++ (0#8 ++ block)
      ∧ (t.slot (s.arg.c.at 13)).live = true ∧ (t.slot (s.arg.c.at 13)).pc = (s.slot (s.arg.c.at 13)).tvec
      ∧ (t.slot (s.arg.c.at 13)).status = 1 ∧ (t.slot (s.arg.c.at 13)).cause = cause
      ∧ (t.slot (s.arg.c.at 13)).tval = (s.slot (s.arg.c.at k)).tval ∧ (t.slot (s.arg.c.at 13)).g = (s.slot (s.arg.c.at 13)).g)
  ∧ ∀ s : State, (s.slot s.arg.c).hold = some .invt → (∀ e ∈ s.tcache, e.vf = (s.slot s.arg.c).vf → e.stale = false) →
      (∀ p ∈ s.port, p.vf = (s.slot s.arg.c).vf → p.stale = false) →
      ∃ t, exec .invtComplete s = .next t ∧ CompletedAt 4 s.arg.c s t

/-- R141, R144, R149, R290, R293, R342, R369: replies and records. The answer to a waited access goes to what waits for it: a loaded
value to its register, an atomic's old value to gD, a table to its core, a block to the instruction cache, an acknowledgement past the
store; a `waitm` returns and a `swwait` returns or asks again. A refusal traps with cause 0x0A and leaves rcause, a peer lost marks the
device lost and traps with cause 0x0B, and a page fault there holds the slot. A full/empty waiter is served in the order of arrival; a
refusal of a posted access at a peer is recorded; the oldest fault record goes into the queue while it has room, and a poisoned word of
it stays as it is (log 80: the bytes are shown where none is poisoned); the answer to a saved slot completes its access in the record,
or that of a displaced task, the oldest that waits first, or leaves the trap that the slot takes when it is restored. A reply for another incarnation changes nothing. That a block of code is
asked for and answered as a load is (log 76), and that the answer of a page fault there holds the slot as a fault here does (log 61), are
the model's readings.
The model's own in it: the port and its order (log 3), `State.arg` (log 14). -/
def Obligations.ReplyEvents : Prop :=
  (∀ s : State, s.arg.inc ≠ s.dev.incarn → exec .loadReply s = .next s ∧ exec .postedFaultRecord s = .next s
    ∧ exec .replyPendingWrite s = .next s)
  ∧ (∀ (s : State) (p : Dword) (dev : BitVec 9) (b : List Byte) (x : Option (BitVec 26 × Word)), s.arg.inc = s.dev.incarn →
    s.arg.flag = false → s.arg.reply = .data b →
    let waits (i : Instr) : Prop := (s.slot s.arg.c).hold = some (.load i p dev)
    let kept (t : State) : Prop := { t with slots := s.slots, cur := s.cur } = s ∧ ∀ e, e ≠ s.arg.c → t.slot e = s.slot e
    (∀ (d a : BitVec 5) (z : BitVec 3) (q : BitVec 1) (f : BitVec 11), prefixFits x (.ld d a z q f) →
      waits (withPrefix x (.ld d a z q f)) →
      ∃ t, exec .loadReply s = .next t ∧ kept t ∧ PastBy (lengthWith x) (s.slot s.arg.c) (t.slot s.arg.c)
        ∧ ∀ r, (t.slot s.arg.c).rg r = if r = d ∧ r ≠ 0 then loadedValue z b else (s.slot s.arg.c).rg r)
    ∧ (∀ (d : BitVec 3) (a : BitVec 5) (q : BitVec 1) (f : BitVec 11), prefixFits x (.ldk d a q f) →
      waits (withPrefix x (.ldk d a q f)) →
      ∃ t, exec .loadReply s = .next t ∧ kept t ∧ PastBy (lengthWith x) (s.slot s.arg.c) (t.slot s.arg.c)
        ∧ ∀ r, (t.slot s.arg.c).rk r = if r = d ∧ r ≠ 0 then loadedValue 6 b else (s.slot s.arg.c).rk r)
    ∧ (∀ (d a : BitVec 5) (q : BitVec 1) (f : BitVec 11), prefixFits x (.vld d a q f) → waits (withPrefix x (.vld d a q f)) →
      ∃ t, exec .loadReply s = .next t ∧ kept t ∧ PastBy (lengthWith x) (s.slot s.arg.c) (t.slot s.arg.c)
        ∧ ∀ r, (t.slot s.arg.c).rv r = if r = d then BitVec.ofNat 512 (leNat b) else (s.slot s.arg.c).rv r)
    ∧ (∀ (i : Instr) (a : BitVec 5) (f : BitVec 11) (size : Nat) (rel : Bool) (bytes : List Byte) (tag : BitVec 2) (disarms : Bool),
      storeForm s x i = some (a, f, size, rel, bytes, tag, disarms) → prefixFits x i → waits (withPrefix x i) →
      ∃ t, exec .loadReply s = .next t ∧ kept t ∧ StorePassed (lengthWith x) disarms (s.slot s.arg.c) (t.slot s.arg.c))
    ∧ (∀ i : Instr, ((∃ a, i = .zline a) ∨ (∃ a b, i = .swadd a b) ∨ (∃ a b, i = .swexp a b) ∨ ∃ c a b, i = .jadd c a b) →
      waits i → ∃ t, exec .loadReply s = .next t ∧ kept t ∧ PastBy 4 (s.slot s.arg.c) (t.slot s.arg.c)
        ∧ (t.slot s.arg.c).placedAs (s.slot s.arg.c) = s.slot s.arg.c)
    ∧ (∀ (i : Instr) (d : BitVec 5) (ty : BitVec 2), atomicDest i = some (d, ty) → ty ≠ 3 → waits i →
      ∃ t, exec .loadReply s = .next t ∧ kept t ∧ PastBy 4 (s.slot s.arg.c) (t.slot s.arg.c)
        ∧ ∀ r, (t.slot s.arg.c).rg r = if r = d ∧ r ≠ 0 then
            (if ty = 1 then (BitVec.ofNat 32 (leNat b)).signExtend 64 else if ty = 0 then (BitVec.ofNat 32 (leNat b)).setWidth 64
              else BitVec.ofNat 64 (leNat b)) else (s.slot s.arg.c).rg r)
    ∧ (∀ (y : BitVec 1) (a : BitVec 5), waits (.dtload y a) →
      ∃ t, exec .loadReply s = .next t ∧ PastBy 4 (s.slot s.arg.c) (t.slot s.arg.c) ∧ t.mem = s.mem
        ∧ ∀ n : Byte, (if y = 0 then (t.core s.arg.c).tabA else (t.core s.arg.c).tabB).get n
            = (BitVec.ofNat 32 (leNat ((b.drop (4 * n.toNat)).take 4))).setWidth 19)
    ∧ (∀ (pl : Place) (dev' : BitVec 9) (va : BitVec 48), waits .fetchBlockDelivery →
      let s1 := State.modMe { s with cur := s.arg.c } fun y => { y with hold := none }
      s1.resolve s1.cur s1.me.vf none (s1.me.segOf p) [(fld p 0 60, 4)] rightX p = .ok pl → pl.peer = some (dev', va) →
      ∃ t, exec .loadReply s = .next t ∧ t.mem = s.mem ∧ (t.slot s.arg.c).hold = none ∧ (t.slot s.arg.c).pc = (s.slot s.arg.c).pc
        ∧ (t.cluster s.arg.c).icache.head? = some (2 ^ 60 + dev'.toNat * 2 ^ 43 + va.toNat / 32, b))
    ∧ (∀ (a : BitVec 5) (pl : Place) (dev' : BitVec 9) (va : BitVec 48), waits (.waitm a) →
      State.dataPlace { s with cur := s.arg.c } s.arg.c p 1 rightR = .ok pl → pl.peer = some (dev', va) →
      ∃ t, exec .loadReply s = .next t ∧ kept t ∧ PastBy 4 (s.slot s.arg.c) (t.slot s.arg.c)
        ∧ (t.slot s.arg.c).watch.map (·.1) = some (peerLine dev' va))
    ∧ (∀ a c : BitVec 5, waits (.swwait a c) →
      let behind := (BitVec.ofNat 16 (leNat ((b.drop 8).take 2)) - ((s.slot s.arg.c).rg c).setWidth 16).toNat
      (behind < 0x8000 → ∃ t, exec .loadReply s = .next t ∧ kept t ∧ PastBy 4 (s.slot s.arg.c) (t.slot s.arg.c)
        ∧ (t.slot s.arg.c).placedAs (s.slot s.arg.c) = s.slot s.arg.c)
      ∧ (0x8000 ≤ behind → ∀ (pl : Place) (va : BitVec 48),
          State.dataPlace { s with cur := s.arg.c } s.arg.c p 16 rightR = .ok pl → pl.peer = some (dev, va) → s.peerLost dev = false →
          (∀ q ∈ s.port, q.coord ≠ s.arg.c) →
          ∃ t, exec .loadReply s = .next t ∧ t.slot s.arg.c = s.slot s.arg.c ∧ t.out.length = s.out.length + 1)))
  ∧ (∀ (s : State) (i : Instr) (p : Dword) (dev : BitVec 9), s.arg.inc = s.dev.incarn → s.arg.flag = false →
    plainAccess i → (s.slot s.arg.c).hold = some (.load i p dev) →
    (∀ cause j, s.arg.reply = .refused cause j → s.routed s.arg.c 0x0A = false → (s.slot s.arg.c).status.getLsbD 2 = false →
        ∃ t, exec .loadReply s = .next t ∧ (t.slot s.arg.c).cause = 0x0A
          ∧ (t.slot s.arg.c).tval = refusedPointer i cause p j
          ∧ (t.slot s.arg.c).epc = (s.slot s.arg.c).pc ∧ (t.slot s.arg.c).pc = (s.slot s.arg.c).tvec
          ∧ fld (t.slot s.arg.c).rfault 48 8 = cause
          ∧ (t.slot s.arg.c).rfault.getLsbD 63 = (s.slot s.arg.c).rfault.getLsbD 63)
    ∧ (s.arg.reply = .lost → s.waitingFor dev = [s.arg.c] → s.savedFor dev = [] → (∀ q ∈ s.port, q.goesTo dev = false) →
        s.copiesFor dev = [] → s.commandsFor dev = [] → s.routed s.arg.c 0x0B = false → (s.slot s.arg.c).status.getLsbD 2 = false →
        ∃ t, exec .loadReply s = .next t ∧ t.peerEntry dev = s.peerEntry dev ||| 0x4000000000000000
          ∧ (t.slot s.arg.c).cause = 0x0B ∧ (t.slot s.arg.c).tval = p ∧ (t.slot s.arg.c).pc = (s.slot s.arg.c).tvec
          ∧ fld (t.slot s.arg.c).rfault 48 8 = 0x0B#8)
    ∧ (s.arg.reply = .faulted → ∃ t, exec .loadReply s = .next t ∧ { t with slots := s.slots, cur := s.cur } = s
        ∧ (t.slot s.arg.c).hold = some .pageFault ∧ (t.slot s.arg.c).pfCount = (s.slot s.arg.c).pfCount + 1
        ∧ { t.slot s.arg.c with
            hold := (s.slot s.arg.c).hold, pfCount := (s.slot s.arg.c).pfCount, elems := (s.slot s.arg.c).elems } = s.slot s.arg.c))
  ∧ (∀ (s : State) (w : FeWaiter) (l1 l2 : List FeWaiter) (d a : BitVec 5) (z : BitVec 2) (f : BitVec 11) (n : Nat),
    s.feq = l1 ++ w :: l2 → (∀ x ∈ l1, x.word ≠ s.arg.n ∨ x.isLdf = false) → w.word = s.arg.n → w.isLdf = true →
    z.toNat ≤ 2 → s.mem.isFull (s.arg.n * 8) = true → n / 8 = s.arg.n → (s.slot w.coord).hold = some (.fullEmpty (.ldf d a z f) n) →
    firstRefused s.mem w.coord.clusterKey ((List.range (if z = 2 then 8 else 4)).map (n + ·)) = none →
    ∃ t, exec .feWordServe s = .next t ∧ t.feq = l1 ++ l2 ∧ (∀ b, t.mem.byte b = s.mem.byte b)
      ∧ (∀ b, t.mem.isFull b = if b / 8 = s.arg.n then false else s.mem.isFull b)
      ∧ PastBy 4 (s.slot w.coord) (t.slot w.coord)
      ∧ ∀ r, (t.slot w.coord).rg r = if r = d ∧ r ≠ 0 then
          loadedValue ((1#1) ++ z) (s.mem.read n (if z = 2 then 8 else 4)) else (s.slot w.coord).rg r)
  ∧ (∀ (s : State) (p : Packet) (l1 l2 : List Packet) (va : BitVec 48), s.arg.inc = s.dev.incarn →
    s.port = l1 ++ p :: l2 → (∀ q ∈ l1, q.coord = s.arg.c → q.sent = true → q.goesTo (fld s.arg.v 0 9) = false) →
    p.coord = s.arg.c → p.route = .peer (fld s.arg.v 0 9) va → p.sent = true → p.task = .present → p.completes = none →
    ∃ t, exec .postedFaultRecord s = .next t ∧ t.port.map Packet.unsent = (l1 ++ l2).map Packet.unsent ∧ t.mem = s.mem
      ∧ ((s.slot s.arg.c).rfault.getLsbD 63 = false →
          (t.slot s.arg.c).rfptr = p.ptr ∧ (t.slot s.arg.c).rfault.getLsbD 63 = true
            ∧ fld (t.slot s.arg.c).rfault 48 8 = BitVec.ofNat 8 s.arg.n)
      ∧ ((s.slot s.arg.c).rfault.getLsbD 63 = true →
          (t.slot s.arg.c).rfptr = (s.slot s.arg.c).rfptr ∧ (t.slot s.arg.c).rfault.getLsbD 62 = true))
  ∧ (∀ (s : State) (r : FaultRec) (rest : List FaultRec) (base tail n : Nat), s.mem.wf = true →
    (s.vf s.arg.vf).faults = r :: rest → s.fqOn s.arg.vf = true → n = (s.vf s.arg.vf).fqsize.toNat →
    base = physBase (s.vf s.arg.vf).fqbase → tail = s.mem.readNat base 8 → tail - s.mem.readNat (base + 8) 8 < n →
    Unpoisoned s.mem base 8 → Unpoisoned s.mem (base + 128 + 32 * (tail % n)) (8 * r.dwords.length) →
    ∃ t, exec .faultRecordAppend s = .next t ∧ (t.vf s.arg.vf).faults = rest
      ∧ t.mem.readNat base 8 = (tail + 1) % 2 ^ 64
      ∧ t.mem.read (base + 128 + 32 * (tail % n)) (8 * r.dwords.length) = dwordBytes r.dwords
      ∧ (r.dwords.length = 4 → ∀ b, b < base ∨ (base + 8 ≤ b ∧ b < base + 128 + 32 * (tail % n))
          ∨ base + 160 + 32 * (tail % n) ≤ b → t.mem.byte b = s.mem.byte b))
  ∧ ∀ (s : State) (vf : Nat) (w : Standing) (older newer : List Standing) (r : Saved) (i : Instr) (p : Dword) (dev : BitVec 9),
      s.arg.inc = s.dev.incarn → s.arg.vf = vf →
      Sparse.find? ((s.vf vf).records w) s.arg.c.key = some r → r.slot.hold = some (.load i p dev) →
      (s.vf vf).standings = older ++ w :: newer →
      (∀ o ∈ older, ∀ y, Sparse.find? ((s.vf vf).records o) s.arg.c.key = some y → s.awaits y.slot = none) →
      let written (t : State) (x : Slot) : Prop := ∃ k, (r.kept = none → k = none)
        ∧ Sparse.find? ((t.vf vf).records w) s.arg.c.key = some { r with slot := x, kept := k }
      (∀ (b : List Byte) (d : BitVec 5) (ty : BitVec 2), s.arg.reply = .data b → atomicDest i = some (d, ty) → ty ≠ 3 →
        ∃ t x, exec .replyPendingWrite s = .next t ∧ written t x ∧ PastBy 4 r.slot x
          ∧ ∀ j, x.rg j = if j = d ∧ j ≠ 0 then
              (if ty = 1 then (BitVec.ofNat 32 (leNat b)).signExtend 64 else if ty = 0 then (BitVec.ofNat 32 (leNat b)).setWidth 64
                else BitVec.ofNat 64 (leNat b)) else r.slot.rg j)
      ∧ (∀ (b : List Byte) (d a : BitVec 5) (z : BitVec 3) (q : BitVec 1) (f : BitVec 11), s.arg.reply = .data b → i = .st d a z q f →
        ∃ t x, exec .replyPendingWrite s = .next t ∧ written t x
          ∧ StorePassed 4 (z.toNat / 2 == 3) r.slot x)
      ∧ ∀ cause j, s.arg.reply = .refused cause j →
          ∃ t x, exec .replyPendingWrite s = .next t ∧ written t x
            ∧ x.pend = some (0x0A, refusedPointer i cause p j) ∧ x.hold = none ∧ fld x.rfault 48 8 = cause

/-- R105, R131, R138, R140, R277, R278, R288, R333, R336, R366: the events that are writes of registers. A write of `c.nfsw`
empties the posted set, of `c.ptbcfg` the buffer, of `c.vmroot` makes the VF's translations stale; `c.region`, `c.shrx` and `c.shtx`
take their fields and an unreachable ring stays off; `c.prdat` clears lost; the host block's fqbase and ltol are taken; a bank
whose mode changes reads zero afterwards, and one written with 11 keeps its mode. What a write of `c.vmroot` marks stale is the model's
choice (log 20), and that one of `c.shrx` forgets the packets being taken its reading (log 58).
The model's own in it: the port and its order (log 3), the agenda (log 1), `State.arg` (log 14). -/
def Obligations.RegisterWriteEvents : Prop :=
  ∀ s : State,
    (∃ t, exec .nfswWrite s = .next t ∧ OnlySlot s.arg.c s t
      ∧ t.slot s.arg.c = { s.slot s.arg.c with nfsw := s.arg.v, posted := 0 })
    ∧ (∃ t, exec .ptbcfgWrite s = .next t ∧ { t with cores := s.cores } = s
        ∧ (∀ e : Coord, e.coreKey ≠ s.arg.c.coreKey → t.core e = s.core e)
        ∧ (t.core s.arg.c).ptbcfg = s.arg.v &&& 0xFF00000000000000 ∧ (t.core s.arg.c).victim = 0
        ∧ ∀ i : Fin 64, ((t.core s.arg.c).ptb.get i).valid = false)
    ∧ (∃ t, exec .vmrootWrite s = .next t ∧ { t with vfs := s.vfs, tcache := s.tcache, port := s.port } = s
        ∧ t.port.map (fun k => { k with stale := false }) = s.port.map (fun k => { k with stale := false })
        ∧ (∀ k ∈ t.port, k.vf = s.arg.vf → k.held = false → k.pages ≠ [] → k.stale = true)
        ∧ t.vf s.arg.vf = { s.vf s.arg.vf with vmroot := s.arg.v &&& 0x000FFFFFFFFFF000 }
        ∧ (∀ e ∈ t.tcache, e.vf = s.arg.vf → e.stale = true) ∧ ∀ v, v ≠ s.arg.vf → t.vf v = s.vf v)
    ∧ (s.arg.n < 4 → ∃ t, exec .regionWrite s = .next t ∧ { t with vfs := s.vfs } = s
        ∧ { t.vf s.arg.vf with region := (s.vf s.arg.vf).region } = s.vf s.arg.vf ∧ (∀ v, v ≠ s.arg.vf → t.vf v = s.vf v)
        ∧ ∀ i : Fin 4, (t.vf s.arg.vf).region.get i =
            if i.val = s.arg.n then s.arg.v &&& 0x83FFFFFFFFE00000 else (s.vf s.arg.vf).region.get i)
    ∧ (s.receiving s.arg.c = false → ∃ t x, exec .shrxWrite s = .next t ∧ OnlyCluster s.arg.c s t ∧ t.agenda = s.agenda
        ∧ t.cluster s.arg.c = { s.cluster s.arg.c with shrx := x, rd := 0, wr := 0, full := 0, resv := 0, taking := [] }
        ∧ fld x 0 63 = fld (s.arg.v &&& 0xFFFFFFFFFC000000) 0 63
        ∧ (x.getLsbD 63 = true ↔ s.arg.v.getLsbD 63 = true ∧ s.rxLegal s.arg.c (s.arg.v &&& 0xFFFFFFFFFC000000) = true))
    ∧ ((s.cluster s.arg.c).sending = false → ∃ t, exec .shtxWrite s = .next t ∧ OnlyCluster s.arg.c s t ∧ t.agenda = s.agenda
        ∧ t.cluster s.arg.c = { s.cluster s.arg.c with
            shtxEn := s.arg.v.getLsbD 63, shtxVf := fld s.arg.v 54 9, shtxTarget := fld s.arg.v 48 6, permits := 0, seq := 0 })
    ∧ ((fld (s.peerEntry (BitVec.ofNat 9 s.arg.n)) 42 12 = 0#12
          ∨ fld (s.peerEntry (BitVec.ofNat 9 s.arg.n)) 42 12 &&& ~~~s.dev.portsDown ≠ 0#12) →
        ∃ t, exec .prdatLostAck s = .next t ∧ { t with dev := { t.dev with peers := s.dev.peers } } = s
        ∧ ∀ v : BitVec 9, t.peerEntry v = if v = BitVec.ofNat 9 s.arg.n then s.peerEntry v &&& 0xBFFFFFFE00000000 else s.peerEntry v)
    ∧ (s.dev.recovery = false → (s.vfSlots s.arg.vf).isEmpty = true → s.ringEmpty s.arg.vf 0 = true → s.ringEmpty s.arg.vf 1 = true → s.arg.n = 0x30 →
        ∃ t, exec .vfRegisterWrite s = .next t ∧ t.vf s.arg.vf = { s.vf s.arg.vf with fqbase := s.arg.v })
    ∧ (s.dev.recovery = false → s.arg.n = 0x48 → ∃ t, exec .vfRegisterWrite s = .next t
        ∧ t.vf s.arg.vf = { s.vf s.arg.vf with ltol := s.arg.v.setWidth 32 })
    ∧ (s.port = [] → ∃ t, exec .bankmodeWrite s = .next t
        ∧ (∀ b : BitVec 4, fld (t.cluster s.arg.c).bankmode (2 * b.toNat) 2 =
            if fld s.arg.v (2 * b.toNat) 2 = 3#2 then fld (s.cluster s.arg.c).bankmode (2 * b.toNat) 2
            else fld s.arg.v (2 * b.toNat) 2)
        ∧ ∀ (b : BitVec 4) (a : Nat), fld (t.cluster s.arg.c).bankmode (2 * b.toNat) 2 ≠ fld (s.cluster s.arg.c).bankmode (2 * b.toNat) 2 →
            bankAddr s.arg.c.clusterKey (b.toNat * 2 ^ 17) ≤ a → a < bankAddr s.arg.c.clusterKey (b.toNat * 2 ^ 17) + 2 ^ 17 →
            t.mem.byte a = 0 ∧ t.mem.tag a = 0 ∧ t.mem.isFull a = false)

/-- R22, R136, R137, R338, R342, R364 to R366, R370 to R375: host, power and error events. A pre-emption without a context area is
refused, another begins the saving of the VF, and either wakes the device; with nothing to save it is saved at once, and a resume of an empty record set clears its
bits; a doorbell wakes the device and has the rings read; a request that the device ignores, and a doorbell that rings nothing, only wake it; a
device held for recovery does none of that; a bias flip and a retried
back-invalidation change no byte, and leave no copy where they invalidate; a host read, write and AtomicOp act on memory, at any device
physical address (log 71); a read of the register block answers the register; an attestation is answered with the report and a
signature; an idle device takes the depth of its tolerance, the deepest where no ring is enabled (log 72); the clock is lowered and
restored; a start that succeeds counts the incarnation, takes the device number that firmware assigns (log 73, whose event value also
holds the steps' outcomes), and finds memory at its values after reset (logs 5, 6); a start for recovery counts it too; an uncorrectable
word is poisoned, and so is what a dead cluster with a cache-mode bank alone held; a clean PRIVATE line of it has its home's bytes (log
74: the spec speaks of modified lines).
The model's own in it: the port and its order (log 3), the agenda (log 1), `State.arg` (log 14). -/
def Obligations.HostAndPowerEvents : Prop :=
  (∀ s : State, (s.vf s.arg.vf).ctxarea.getLsbD 63 = false → s.paused s.arg.vf = false → s.dev.recovery = false →
    ∃ t, exec .preemptRequest s = .next t ∧ { t with vfs := s.vfs, agenda := s.agenda } = s ∧ t.agenda = s.agenda ++ woken s
      ∧ t.vf s.arg.vf = { s.vf s.arg.vf with preempt := 4 })
  ∧ (∀ s : State, (s.vf s.arg.vf).ctxarea.getLsbD 63 = true → s.paused s.arg.vf = false → s.dev.recovery = false →
    ∃ t, exec .preemptRequest s = .next t ∧ t.vf s.arg.vf = { s.vf s.arg.vf with preempt := 1 }
      ∧ { t with vfs := s.vfs, agenda := s.agenda } = s
      ∧ t.agenda = s.agenda ++ .event .vfSaveComplete (.ofVf s.arg.vf) :: woken s)
  ∧ (∀ s : State, (s.vf s.arg.vf).preempt.getLsbD 0 = true → s.enginesAsk s.arg.vf = false → s.vfSlots s.arg.vf = [] →
    s.coresOf s.arg.vf = [] → s.clustersOf s.arg.vf = [] →
    ∃ t, exec .vfSaveComplete s = .next t ∧ { t with vfs := s.vfs } = s
      ∧ t.vf s.arg.vf = { s.vf s.arg.vf with preempt := 2 })
  ∧ (∀ s : State, s.arg.flag = false → (s.vf s.arg.vf).preempt.getLsbD 1 = true → s.dev.recovery = false →
    (s.vf s.arg.vf).saved = [] → (s.vf s.arg.vf).savedCores = [] → (s.vf s.arg.vf).savedClusters = [] →
    ∃ t, exec .resume s = .next t ∧ t.slots = s.slots ∧ t.mem = s.mem
      ∧ t.vf s.arg.vf = { s.vf s.arg.vf with preempt := (s.vf s.arg.vf).preempt &&& 4 })
  ∧ (∀ s : State, fld s.arg.v 0 2 ≠ 0#2 → s.dev.recovery = false → ∃ t, exec .doorbell s = .next t
      ∧ t = { s with agenda := s.agenda ++ [.event .wakeFromIdle (.ofVf s.arg.vf), .event .launchPortTake (.ofVf s.arg.vf)] })
  ∧ (∀ s : State, fld s.arg.v 0 2 = 0#2 → s.dev.recovery = false →
      exec .doorbell s = .next { s with agenda := s.agenda ++ [.event .wakeFromIdle (.ofVf s.arg.vf)] })
  ∧ (∀ s : State, s.dev.recovery = true → exec .doorbell s = .next s ∧ exec .preemptRequest s = .next s
      ∧ exec .vfRegisterWrite s = .next s ∧ (s.arg.flag = false → exec .resume s = .next s) ∧ exec .inboundHostRequest s = .next s)
  ∧ (∀ s : State, s.port = [] → s.mem.wf = true →
    let page := s.arg.v.toNat / 4096
    ∃ t, exec .biasFlip s = .next t ∧ { t with mem := s.mem, agenda := s.agenda } = s ∧ t.agenda = s.agenda ++ woken s ∧ (∀ a, t.mem.byte a = s.mem.byte a)
      ∧ (s.mem.hostBias.Nodup → ∀ q, q ∈ t.mem.hostBias ↔ (if q = page then q ∉ s.mem.hostBias else q ∈ s.mem.hostBias))
      ∧ (page ∉ s.mem.hostBias → ∀ l, l / 32 = page →
          Sparse.find? t.mem.owner l = none ∧ Sparse.find? t.mem.dirty l = none ∧ Sparse.find? t.mem.copies l = none))
  ∧ (∀ s : State, s.arg.n ∈ s.dev.backInv → s.mem.wf = true →
    ∃ t, exec .backInvalidationRetry s = .next t ∧ (∀ a, t.mem.byte a = s.mem.byte a) ∧ Sparse.find? t.mem.owner s.arg.n = none
      ∧ t.dev.backInv = s.dev.backInv.erase s.arg.n ∧ t.slots = s.slots)
  ∧ (∀ (s : State) (q : HostOp) (a n : Nat), s.arg.host = some q → s.arg.flag = false → s.mem.wf = true → s.dev.recovery = false →
    q.extent = some (a, n) → n ≠ 0 → physOk a = true → physOk (a + n - 1) = true →
    let addrs := (List.range n).map (a + ·)
    let m := if a / 4096 ∈ s.mem.hostBias then s.mem else (addrs.map (· / 128)).eraseDups.foldl (fun m l => m.invalidate l) s.mem
    firstRefused m 513 addrs = none →
    (∀ pa b, q = .write pa b →
      ∃ t, exec .inboundHostRequest s = .next t ∧ t.slots = s.slots ∧ ∀ c, t.mem.byte c = byteAfter s.mem addrs b c)
    ∧ (∀ pa k, q = .read pa k →
      ∃ t, exec .inboundHostRequest s = .next t ∧ (∀ c, t.mem.byte c = s.mem.byte c)
        ∧ t.out = s.out ++ [.hostAnswer (addrs.map s.mem.byte)])
    ∧ ∀ pa fn w x expect, q = .atomic pa fn w x expect → fn = 0 ∨ fn = 1 ∨ fn = 9 → w = 32 ∨ w = 64 → a % (w / 8) = 0 →
      ∃ t, exec .inboundHostRequest s = .next t ∧ t.out = s.out ++ [.hostAnswer (addrs.map s.mem.byte)]
        ∧ t.mem.readNat a n = (
            let old := s.mem.readNat a n
            if fn = 0 then x.toNat % 2 ^ w else if fn = 1 then (old + x.toNat) % 2 ^ w
            else if old = expect.toNat % 2 ^ w then x.toNat % 2 ^ w else old)
        ∧ ∀ c, c < a ∨ a + n ≤ c → t.mem.byte c = s.mem.byte c)
  ∧ (∀ (s : State) (q : HostOp), s.arg.host = some q → (∀ vf off n, q ≠ .readReg vf off n) → s.dev.recovery = false →
    (∀ a n, q.extent = some (a, n) → n = 0 ∨ physOk a = false ∨ physOk (a + n - 1) = false ∨ q.supported = false) →
    exec .inboundHostRequest s = .next { s with agenda := s.agenda ++ woken s })
  ∧ (∀ (s : State) (vf off n : Nat), s.arg.host = some (.readReg vf off n) → s.dev.recovery = false →
    ∃ t b, exec .inboundHostRequest s = .next t ∧ t.slots = s.slots ∧ t.mem = s.mem ∧ t.out = s.out ++ [.hostAnswer b]
      ∧ (n ≠ 8 ∨ off % 8 ≠ 0 → b = List.replicate n 0xFF)
      ∧ (n = 8 → (off = 0x020 → b = dwordBytes [(s.vf vf).lqbase]) ∧ (off = 0x048 → b = dwordBytes [(s.vf vf).ltol.setWidth 64])
          ∧ (off = 0x050 → b = dwordBytes [(s.vf vf).preempt.setWidth 64])
          ∧ (off = 0x040 ∨ off = 0x058 → b = List.replicate 8 0)))
  ∧ (∀ s : State, ∃ t sig, exec .spdmRequest s = .next t ∧ t.slots = s.slots ∧ t.mem = s.mem ∧ sig.length = 384
      ∧ t.dev.attested = s.dev.attested ++ [s.dev.report ++ sig])
  ∧ (∀ s : State, s.idle = true →
    ∃ t, exec .idleEntry s = .next t ∧ { t with dev := { t.dev with depth := s.dev.depth } } = s
      ∧ (s.tolerance < 1000 → t.dev.depth = .w0)
      ∧ (500000 ≤ s.tolerance → (∀ e ∈ s.dev.peers, e.2.getLsbD 63 = false) → t.dev.depth = .w3))
  ∧ (∀ s : State, ∃ t, exec .wakeFromIdle s = .next t ∧ t = { s with dev := { s.dev with depth := .w0 } })
  ∧ (∀ s : State, s.dev.m14 = true → ∃ t, exec .powerCapThrottle s = .next t
      ∧ t = { s with dev := { s.dev with throttled := s.dev.throttled ||| s.arg.v.setWidth 8 } })
  ∧ (∀ s : State, ∃ t, exec .throttlingEnd s = .next t ∧ t = { s with dev := { s.dev with throttled := 0 } })
  ∧ (∀ s : State, s.dev.failed ≠ 3 → s.dev.bootLog = [] → fld s.arg.v 1 8 = 0xFF#8 → fld s.arg.v 16 4 = 0#4 →
    ∃ t, exec .powerOnBoot s = .next t ∧ t.dev.booted = true ∧ t.dev.incarn = s.dev.flashIncarn + 1
      ∧ t.dev.flashIncarn = s.dev.flashIncarn + 1 ∧ t.dev.devno = BitVec.ofNat 9 s.arg.n ∧ t.mem.owner = [] ∧ t.mem.tags = [])
  ∧ (∀ s : State, s.dev.failed = 3 →
    ∃ t, exec .powerOnBoot s = .next t ∧ t.dev.recovery = true ∧ t.dev.incarn = s.dev.flashIncarn + 1 ∧ t.dev.booted = false)
  ∧ (∀ s : State,
      (∀ a, s.arg.ecc = some (.word a) → a < hostBase →
        ∃ t, exec .eccUncorrectable s = .next t ∧ t.mem.tag a = 3 ∧ (∀ b, t.mem.byte b = s.mem.byte b) ∧ t.slots = s.slots)
      ∧ (∀ c b, s.arg.ecc = some (.instructionBlock c b) →
        ∃ t, exec .eccUncorrectable s = .next t ∧ t.mem = s.mem ∧ ∀ e ∈ (t.cluster c).icache, e.1 ≠ b))
  ∧ (∀ s : State, s.caches s.arg.c.clusterKey = true → ∃ t, exec .agentDeathPoison s = .next t ∧ t.slots = s.slots
      ∧ (∀ l, l * 128 < hostBase → Sparse.find? s.mem.owner l = none ∨ Sparse.find? s.mem.owner l = some s.arg.c.clusterKey →
          Sparse.find? s.mem.dirty l = some s.arg.c.clusterKey →
          ∀ j, j < 128 → t.mem.tag (l * 128 + j) = 3)
      ∧ ∀ l, Sparse.find? s.mem.owner l = some s.arg.c.clusterKey → Sparse.find? s.mem.dirty l = none →
          ∀ j, j < 128 → t.mem.byte (l * 128 + j) = cellGet s.mem.cells (l * 128 + j))
  ∧ (∀ s : State, s.caches s.arg.c.clusterKey = false → s.mem.wf = true →
      ∃ t, exec .agentDeathPoison s = .next t ∧ { t with mem := s.mem } = s ∧ ∀ a, t.mem.byte a = s.mem.byte a)
  ∧ ∀ s : State, Sparse.find? s.mem.dirty s.arg.n ≠ some s.arg.c.clusterKey →
      ∃ t, exec .sharedLineDrop s = .next t ∧ SameBytes s.mem t.mem ∧ t.mem.sharers = s.mem.sharers ∧ t.slots = s.slots
        ∧ s.arg.c.clusterKey ∉ Sparse.get t.mem.copies s.arg.n []

namespace Sys2Proof.Machine

/-! ## Tasks, strands, skeins and launches -/

/-- Dword `i` of a 16-byte entry of a descriptor (R231). -/
def descDword (s : State) (pl : Place) (i : Nat) : Dword := recordDword (pl.addrs.map s.mem.byte) i

/-- The state after a load of the current slot: only what the caches hold differs. -/
def afterLoad (s : State) (pl : Place) : State := { s with mem := s.cohLoad s.cur.clusterKey pl.policy pl.addrs }

/-- The allowance that an enqueue writes, and the expiry that its entry takes (R232). -/
def enqueueAllowance (s : State) (id : BitVec 24) : Nat × Option Nat :=
  if id = 0 then (2 ^ 32 - 1, none)
  else (min ((s.die s.cur.die).expiryAt id - s.now s.cur.die) (2 ^ 32 - 2), some ((s.die s.cur.die).expiryAt id))

/-- The queue's entries on a die. -/
def queueEntries (s : State) (d : BitVec 3) (q : Nat) : List QEntry := ((s.die d).queue q).entries

/-- The moves of the leveller: ready entries of the cluster, last first, with their new hints (R237). -/
def levelMoves (s : State) (c : Coord) (y : BitVec 6) (p : Nat) : List (QEntry × QEntry) :=
  (((s.hinted c.die c.cluster).reverse.filterMap fun e => (s.rehint c.die y e).map fun e' => (e, e'))).take
    (((s.hinted c.die c.cluster).length - p) / 2)

/-- The displaced tasks that wait for a slot, with their queues (R236). -/
def displacedFrom (s : State) (c : Coord) : List (Nat × Nat) := (s.die c.die).displaced.filter (·.1 == c.key)

/-- The landing slots of a cluster that no crew reserves, ascending (R234). -/
def landingSlots (s : State) (c : Coord) : List Coord :=
  c.cores.flatMap fun k => (landing k).filter fun w => (s.reserved w).isNone

/-- The owners of those slots by the shares of the queues (R234). -/
def landingOwners (s : State) (c : Coord) : List Nat :=
  (shares (landingSlots s c).length ((s.readyQueues c).map fun q => (q, ((s.die c.die).queue q).weight))).flatMap fun x =>
    List.replicate x.2 x.1

/-- No index of a die's strand table is listed twice. -/
def StrandsListed (x : Die) : Prop := (x.strands.map (·.1)).Nodup

/-- The strand entry at an index of a die. -/
def strandAt (s : State) (d : BitVec 3) (i : Nat) : StrandEntry := Sparse.get (s.die d).strands i StrandEntry.reset

end Sys2Proof.Machine

/-- R230: `hstart` in slot 0 starts the lowest free helper slot with gB in g1 and writes its number; with none free it writes 0;
`hjoin` passes once no joined helper is live, or saved with its VF. In another slot both trap with cause 0x02. -/
def Obligations.HelperResult : Prop :=
  (∀ (d a b : BitVec 5) (s : State),
    (s.cur.slot ≠ 0 → TrapsHere 0x02 s → ∃ t, exec (.hstart d a b) s = .next t ∧ TookTrap 0x02 (wordOfInstr (.hstart d a b)) s t)
    ∧ (s.cur.slot = 0 → s.freeHelper = none → ∃ t, exec (.hstart d a b) s = .next t ∧ WroteG 4 d 0 s t)
    ∧ ∀ i : Nat, s.cur.slot = 0 → s.freeHelper = some i → Quiet s →
        let w := s.cur.at (BitVec.ofNat 4 i)
        ∃ t, exec (.hstart d a b) s = .next t ∧ { t with slots := s.slots } = s
          ∧ (∀ e, e ≠ s.cur → e ≠ w → t.slot e = s.slot e) ∧ PastBy 4 s.me t.me
          ∧ { t.me.placedAs s.me with g := s.me.g } = s.me
          ∧ (∀ r, t.rg r = if r = d ∧ r ≠ 0 then BitVec.ofNat 64 i else s.rg r)
          ∧ (t.slot w).live = true ∧ (t.slot w).pc = s.rg a
          ∧ (∀ r, (t.slot w).rg r = if r = 1 then s.rg b else 0) ∧ (∀ r, (t.slot w).rv r = 0)
          ∧ (∀ r, (t.slot w).rk r = if r = 0 then 0xFFFFFFFFFFFFFFFF else 0) ∧ (t.slot w).sg = s.me.sg
          ∧ (t.slot w).strand = s.me.strand ∧ (t.slot w).cls = s.me.cls ∧ (t.slot w).crew = s.me.crew
          ∧ (t.slot w).qown = fld s.me.crew 0 6 ∧ (t.slot w).vf = s.me.vf ∧ (t.slot w).frame = none ∧ (t.slot w).hold = none)
  ∧ ∀ (a : BitVec 5) (s : State),
      (s.cur.slot ≠ 0 → TrapsHere 0x02 s → ∃ t, exec (.hjoin a) s = .next t ∧ TookTrap 0x02 (wordOfInstr (.hjoin a)) s t)
      ∧ (s.cur.slot = 0 → Quiet s →
        ((∀ i : BitVec 4, 1 ≤ i.toNat → i.toNat ≤ 10 → (s.rg a).getLsbD i.toNat = true →
            (s.slot (s.cur.at i)).live = false ∧ Sparse.find? (s.vf s.me.vf).saved (s.cur.at i).key = none) →
          ∃ t, exec (.hjoin a) s = .next t ∧ Passed 4 s t)
        ∧ ((∃ i : BitVec 4, 1 ≤ i.toNat ∧ i.toNat ≤ 10 ∧ (s.rg a).getLsbD i.toNat = true
            ∧ ((s.slot (s.cur.at i)).live = true ∨ Sparse.find? (s.vf s.me.vf).saved (s.cur.at i).key ≠ none)) →
          ∃ t, exec (.hjoin a) s = .next t ∧ HeldBy (.hjoin (fld (s.rg a) 1 10)) s t))

/-- R231 to R237: `enq` and `tspawn` append the descriptor to an enabled queue of the slot's VF with room, with the allowance
stored, for `tspawn` strand, class, stage and hint as well, and kK set to ones, and `tspawn` to a full one clears kK; `deq` takes the entry that is first by class and expiry, and from an
empty queue clears kK; a prefetch takes the best entry; a dispatch starts it in the landing slot with its descriptor's entry and
argument; an apportioning gives the unreserved landing slots their owners; a class pre-emption saves a slot of lower class and starts
the entry there, where the entry may run (which slots those are, and that of several displaced tasks of a slot the last resumes first, is
the model's reading, log 50; logs 29, 47 and 49 say how the landing slots of an entry and the crew of a task are found, and log 48 their
order); a displaced task resumes from its record, with the trap of an access that was refused meanwhile; a levelling moves half the difference to the neighbour. Which
entries make a queue one with ready entries (log 96), and which crew a levelled entry's new hint names (log 97), are the model's choices.
The model's own in it: the agenda (log 1), `State.arg` (log 14). -/
def Obligations.TaskQueueResult : Prop :=
  (∀ (a b : BitVec 5) (k : BitVec 3) (s : State) (q : Nat) (pl w : Place), q = fldN (s.rg a) 0 6 → s.mem.wf = true → Quiet s →
    (((s.die s.cur.die).queue q).enabled = false ∨ ((s.die s.cur.die).queue q).vf ≠ s.me.vf → TrapsHere 0x06 s →
      ∃ t, exec (.enq a b k) s = .next t ∧ TookTrap 0x06 (BitVec.ofNat 64 q) s t)
    ∧ (((s.die s.cur.die).queue q).enabled = true → ((s.die s.cur.die).queue q).vf = s.me.vf → (s.rg b).toNat % 32 = 0 →
      Granted s (s.rg b) 32 rightR pl → fldN (descDword s pl 3) 48 16 ≤ 15 → s.queueFull s.cur.die q = false → s.me.elems = [] →
      (afterLoad s pl).dataPlace s.cur (pcPlus (s.rg b) 16) 4 rightW = .ok w → w.peer = none → w.addrs ≠ [] →
      w.waited = false → w.xcl = false → HomeHere s.cur.die w → homeRefused s.mem s.cur.clusterKey w.policy w.addrs 0 0 = none →
      ∃ t e, exec (.enq a b k) s = .next t ∧ PastBy 4 s.me t.me
        ∧ (∀ r, t.rk r = if r = k ∧ r ≠ 0 then 0xFFFFFFFFFFFFFFFF else s.rk r) ∧ (∀ r, t.rg r = s.rg r)
        ∧ queueEntries t s.cur.die q = queueEntries s s.cur.die q ++ [e] ∧ e.ptr = s.rg b
        ∧ e.strand = fld (descDword s pl 2) 40 24 ∧ e.cls = fld (descDword s pl 2) 32 2
        ∧ e.hint = fld (descDword s pl 3) 32 16 ∧ e.expiry = (enqueueAllowance s e.strand).2
        ∧ ∀ x, t.mem.byte x = byteAfter s.mem w.addrs
            ((List.range 4).map fun j => (BitVec.ofNat 32 (enqueueAllowance s e.strand).1).extractLsb' (8 * j) 8) x))
  ∧ (∀ (a : BitVec 5) (k : BitVec 3) (s : State) (q : Nat), q = fldN s.me.crew 0 6 → s.mem.wf = true → Quiet s →
    ((s.die s.cur.die).queue q).enabled = true → ((s.die s.cur.die).queue q).vf = s.me.vf →
    (s.queueFull s.cur.die q = true → ∃ t, exec (.tspawn a k) s = .next t ∧ WroteK 4 k 0 s t)
    ∧ ∀ pl w : Place, s.queueFull s.cur.die q = false → s.me.elems = [] → (s.rg a).toNat % 32 = 0 → Granted s (s.rg a) 32 rightR pl →
        (afterLoad s pl).dataPlace s.cur (pcPlus (s.rg a) 16) 16 rightW = .ok w → w.peer = none → w.addrs ≠ [] →
        w.waited = false → w.xcl = false → HomeHere s.cur.die w → homeRefused s.mem s.cur.clusterKey w.policy w.addrs 0 0 = none →
        ∃ t e, exec (.tspawn a k) s = .next t ∧ PastBy 4 s.me t.me
          ∧ (∀ r, t.rk r = if r = k ∧ r ≠ 0 then 0xFFFFFFFFFFFFFFFF else s.rk r) ∧ (∀ r, t.rg r = s.rg r)
          ∧ queueEntries t s.cur.die q = queueEntries s s.cur.die q ++ [e] ∧ e.ptr = s.rg a ∧ e.strand = s.me.strand
          ∧ e.cls = s.me.cls ∧ e.hint = fld s.me.crew 48 16 ∧ e.stage = fldN s.me.crew 28 4
          ∧ e.expiry = (enqueueAllowance s s.me.strand).2
          ∧ ∃ d2 d3 : Dword, fld d2 0 32 = BitVec.ofNat 32 (enqueueAllowance s s.me.strand).1 ∧ fld d2 32 2 = s.me.cls
            ∧ fld d2 34 6 = fld (descDword s pl 2) 34 6 ∧ fld d2 40 24 = s.me.strand
            ∧ fld d3 0 32 = fld (descDword s pl 3) 0 32 ∧ fld d3 32 16 = fld s.me.crew 48 16
            ∧ fld d3 48 16 = BitVec.ofNat 16 (fldN s.me.crew 28 4)
            ∧ ∀ x, t.mem.byte x = byteAfter s.mem w.addrs (dwordBytes [d2, d3]) x)
  ∧ (∀ (d a : BitVec 5) (k : BitVec 3) (s : State) (q : Nat), q = fldN (s.rg a) 0 6 →
    ((s.die s.cur.die).queue q).enabled = true → ((s.die s.cur.die).queue q).vf = s.me.vf →
    (queueEntries s s.cur.die q = [] → ∃ t, exec (.deq d a k) s = .next t ∧ WroteK 4 k 0 s t)
    ∧ ∀ (l1 l2 : List QEntry) (e : QEntry), queueEntries s s.cur.die q = l1 ++ e :: l2 → (∀ x ∈ l1, e.rank < x.rank) →
        (∀ x ∈ l2, e.rank ≤ x.rank) → (s.die s.cur.die).strandLive e.strand = true →
        ∃ t, exec (.deq d a k) s = .next t ∧ { t with slots := s.slots, dies := s.dies, agenda := s.agenda } = s ∧ PastBy 4 s.me t.me
          ∧ (∀ r, t.rk r = if r = k ∧ r ≠ 0 then 0xFFFFFFFFFFFFFFFF else s.rk r)
          ∧ (∀ r, t.rg r = if r = d ∧ r ≠ 0 then e.ptr else s.rg r) ∧ queueEntries t s.cur.die q = l1 ++ l2)
  ∧ (∀ (s : State) (e : QEntry), (s.core s.arg.c).prefetch = [] → s.bestFor s.arg.c = (s, some e) →
    ∃ t, exec .queuePrefetch s = .next t ∧ t.mem = s.mem ∧ t.slots = s.slots
      ∧ (t.core s.arg.c).prefetch.head? = some e ∧ (t.core s.arg.c).prefetch.length ≤ 2)
  ∧ (∀ (s s1 : State) (e : QEntry) (l : Launch) (k : Crew), (s.slot s.arg.c).live = false →
    (s.arg.c.slot = 11 ∨ s.arg.c.slot = 12) → s.nextPrefetched s.arg.c = (s1, some e) → s1.fit s.arg.c e = some (l, k) →
    ∃ t, exec .taskDispatch s = .next t ∧ (t.slot s.arg.c).live = true ∧ (t.slot s.arg.c).strand = e.strand
      ∧ (t.slot s.arg.c).cls = e.cls ∧ (t.slot s.arg.c).sg = l.segs ∧ (t.slot s.arg.c).launch = some l.id
      ∧ (t.slot s.arg.c).vf = l.vf
      ∧ ∀ pl : Place, (s1.startTask s.arg.c e l k).dataPlace s.arg.c e.ptr 16 rightR = .ok pl → pl.peer = none →
          (s1.startTask s.arg.c e l k).crossAll s.arg.c e.strand l.vf pl.xcl pl.addrs = (s1.startTask s.arg.c e l k, true) →
          firstRefused s1.mem s.arg.c.clusterKey pl.addrs = none →
          (t.slot s.arg.c).pc = descDword s1 pl 0 ∧ (t.slot s.arg.c).hold = none
            ∧ ∀ r, (t.slot s.arg.c).rg r = if r = 1 then leDword ((pl.addrs.map s1.mem.byte).drop 8) else 0)
  ∧ (∀ s : State, s.readyQueues s.arg.c ≠ [] →
    ∃ t, exec .apportionRecompute s = .next t ∧ t.mem = s.mem
      ∧ ∀ (j : Nat) (w : Coord) (q : Nat), (landingSlots s s.arg.c)[j]? = some w → (landingOwners s s.arg.c)[j]? = some q →
          ((s.die s.arg.c.die).displaced.any fun x => x.1 == w.key) = false →
          ((s.slot w).live = true → (t.slot w).nextOwn = some (BitVec.ofNat 6 q) ∧ (t.slot w).qown = (s.slot w).qown)
            ∧ ((s.slot w).live = false → (t.slot w).qown = BitVec.ofNat 6 q))
  ∧ (∀ (s : State) (e : QEntry) (w : Coord) (l : Launch) (k : Crew) (own : List Coord),
    ((s.die s.arg.c.die).queue s.arg.n).enabled = true → (s.firstEntry s.arg.c.die s.arg.n fun _ => true) = (s, some e) →
    own = s.ownedBy s.arg.c.die s.arg.n → own ≠ [] →
    (∀ x ∈ own, (s.slot x).live = true ∧ (s.slot x).cls.toNat < e.cls.toNat) →
    s.giveWay (own.filter fun w => s.takes w e && (s.vf (s.slot w).vf).ctxarea.getLsbD 63) = some w →
    ((s.saveSlot w false).modDie s.arg.c.die fun x => { x with displaced := x.displaced ++ [(w.key, s.arg.n)] }).fit w e = some (l, k) →
    w.die = s.arg.c.die →
    ∃ t, exec .classPreempt s = .next t ∧ (w.key, s.arg.n) ∈ (t.die s.arg.c.die).displaced
      ∧ (t.slot w).strand = e.strand ∧ (t.slot w).cls = e.cls ∧ (t.slot w).launch = some l.id
      ∧ (Sparse.find? ((t.vf (s.slot w).vf).records (.displaced (displacedFrom s w).length)) w.key).isSome = true)
  ∧ (∀ (s : State) (q vf : Nat) (w : Standing) (r : Saved),
    (s.die s.arg.c.die).displaced.reverse.find? (·.1 == s.arg.c.key) = some (s.arg.c.key, q) →
    (s.slot s.arg.c).live = false → s.owns q s.arg.c = true → w = .displaced ((displacedFrom s s.arg.c).length - 1) →
    s.displacedLast s.arg.c = some (vf, w, r) → Sparse.find? ((s.vf vf).records w) s.arg.c.key = some r →
    r.slot.incomplete = false → s.paused vf = false → r.kept = none →
    (∀ o ∈ (s.vf vf).standings, o ≠ w → Sparse.find? ((s.vf vf).records o) s.arg.c.key = none) →
    let b := s.mem.read (recordAddr (s.vf vf).ctxarea s.arg.c) 2688
    b.drop 0xA00 = r.held → (s.die s.arg.c.die).strandLive (r.slot.ofRecord b).strand = true →
    ∃ t, exec .displacedTaskResume s = .next t ∧ t.mem = s.mem
      ∧ (r.slot.pend = none → t.slot s.arg.c = { r.slot.ofRecord b with
          live := true, qown := (s.slot s.arg.c).qown, nextOwn := (s.slot s.arg.c).nextOwn
          lastIssue := (s.slot s.arg.c).lastIssue })
      ∧ (∀ cause tval, r.slot.pend = some (cause, tval) → s.routed s.arg.c cause = false →
          (r.slot.ofRecord b).status.getLsbD 2 = false →
          (t.slot s.arg.c).cause = cause ∧ (t.slot s.arg.c).tval = tval ∧ (t.slot s.arg.c).epc = (r.slot.ofRecord b).pc
            ∧ (t.slot s.arg.c).pc = (r.slot.ofRecord b).tvec ∧ (t.slot s.arg.c).pend = none)
      ∧ (displacedFrom t s.arg.c).length + 1 = (displacedFrom s s.arg.c).length
      ∧ (t.die s.arg.c.die).displaced.filter (·.1 != s.arg.c.key) = (s.die s.arg.c.die).displaced.filter (·.1 != s.arg.c.key))
  ∧ ∀ (s : State) (y : BitVec 6) (p : Nat), s.neighbour s.arg.c = some (y, p) →
      (p + 1 < (s.hinted s.arg.c.die s.arg.c.cluster).length →
        ∃ t, exec .loadLevel s = .next t ∧ t.mem = s.mem ∧ t.slots = s.slots
          ∧ t.die s.arg.c.die = (levelMoves s s.arg.c y p).foldl (fun x m => x.setQueue m.1.queue { x.queue m.1.queue with
              entries := updFirst (· == m.1) (fun _ => m.2) (x.queue m.1.queue).entries }) (s.die s.arg.c.die)
          ∧ ∀ m ∈ levelMoves s s.arg.c y p, m.2 = { m.1 with hint := m.2.hint })
      ∧ ((s.hinted s.arg.c.die s.arg.c.cluster).length ≤ p + 1 → exec .loadLevel s = .next s)

namespace Sys2Proof.Machine

/-- An access of the current slot has still to leave the port: it waits behind one that a wake or a peer has to finish. -/
def AccessWaitsHere (s : State) : Prop := ∃ p ∈ s.port, p.coord = s.cur ∧ p.held = false ∧ p.sent = false

end Sys2Proof.Machine

/-- R243 to R261: `cut` ends a live strand of the slot's VF on the die, with every slot that runs it, and else sends the cut to
every die, also while an earlier access is on its way to a peer; it never holds the slot, and where an earlier access has still to leave
the port the cut leaves behind it; `ply` makes a ply of the live members; `alw` reads the remaining allowance; an expiry and a cut that arrives end the
entry; an ended entry is freed; a packet without time left is counted, and one that registers makes or shortens its entry; a held packet
whose carried expiry has passed is dropped, and counted by the die whose port holds it. A peer's
cut of another incarnation is answered with peer lost (R290). That a cut on the agenda counts as arriving in the cycle of an expiry, and
by which clock a held packet's carried expiry passes, is the model's reading (log 57), and so is that an access on its way to a peer or held by
a page fault has left the port (log 119).
The model's own in it: the port and its order (log 3), the agenda (log 1), `State.arg` (log 14). -/
def Obligations.StrandResult : Prop :=
  (∀ (a : BitVec 5) (s : State) (id : BitVec 24), id = (s.rg a).setWidth 24 →
    (id = 0 → TrapsHere 0x06 s → ∃ t, exec (.cut a) s = .next t ∧ TookTrap 0x06 (s.rg a) s t)
    ∧ (id ≠ 0 → s.drain s.cur = s → ¬ AccessWaitsHere s → (s.die s.cur.die).strandOf id = none →
      ∃ t, exec (.cut a) s = .next t ∧ OnlySlotAgenda s.cur s t ∧ PastBy 4 s.me t.me ∧ t.me.placedAs s.me = s.me
        ∧ t.agenda = s.agenda ++ allDies.map fun d => .event .cutArrival { EvArg.dieVf d s.me.vf with n := id.toNat })
    ∧ (id ≠ 0 → s.drain s.cur = s → s.pump s.cur = s → AccessWaitsHere s →
      ∃ t p, exec (.cut a) s = .next t ∧ { t with slots := s.slots, port := s.port, agenda := s.agenda } = s
        ∧ (∀ e, e ≠ s.cur → t.slot e = s.slot e) ∧ PastBy 4 s.me t.me ∧ t.me.placedAs s.me = s.me
        ∧ t.port = s.port ++ [p] ∧ p.op = .cut id ∧ p.coord = s.cur ∧ p.vf = s.me.vf ∧ p.task = .present)
    ∧ ∀ (i : Nat) (e : StrandEntry), id ≠ 0 → s.drain s.cur = s → ¬ AccessWaitsHere s → (s.die s.cur.die).strandOf id = some (i, e) → e.isLive = true →
        e.vf = s.me.vf → strandAt s s.cur.die i = e → StrandsListed (s.die s.cur.die) →
        ∃ t, exec (.cut a) s = .next t ∧ (strandAt t s.cur.die i).state = .ended true
          ∧ ∀ w : Coord, w.die = s.cur.die → (s.slot w).live = true → (s.slot w).fw = false → (s.slot w).strand = id →
              (t.slot w).live = false ∧ (t.slot w).retired = some .cut)
  ∧ (∀ (d a : BitVec 5) (s : State) (pl : Place) (ws : List Word), Quiet s → (s.rg a).toNat % 16 = 0 →
    Granted s (s.rg a) 16 rightR pl → ws = plyWords (pl.addrs.map s.mem.byte) →
    (plyBad ws = true → ∃ t, exec (.ply d a) s = .next t ∧ OnlyMeAndCaches s t ∧ PastBy 4 s.me t.me
        ∧ ∀ r, t.rg r = if r = d ∧ r ≠ 0 then 0xFFFFFFFFFFFFFF02 else s.rg r)
    ∧ ∀ (ms : List (BitVec 24)) (i : Nat) (id : BitVec 24), plyBad ws = false →
        ms = (ws.map fun w => fld w 0 24).filter (fun m => match (s.die s.cur.die).strandOf m with
          | some (_, e) => e.isLive && e.vf == s.me.vf | none => false) →
        (ms = [] → ∃ t, exec (.ply d a) s = .next t ∧ OnlyMeAndCaches s t
          ∧ ∀ r, t.rg r = if r = d ∧ r ≠ 0 then 0xFFFFFFFFFFFFFF01 else s.rg r)
        ∧ (ms ≠ [] → (s.die s.cur.die).freeStrand 8192 = some i → s.freePly s.cur.die = some id →
          ∃ t, exec (.ply d a) s = .next t ∧ { t with slots := s.slots, mem := s.mem, dies := s.dies } = s
            ∧ SameBytes s.mem t.mem ∧ PastBy 4 s.me t.me
            ∧ (∀ r, t.rg r = if r = d ∧ r ≠ 0 then id.setWidth 64 else s.rg r)
            ∧ strandAt t s.cur.die i = { StrandEntry.reset with
                state := .live, isPly := true, vf := s.me.vf, id := id, members := ms
                expiry := (s.die s.cur.die).plyExpiry ms }))
  ∧ (∀ (d : BitVec 5) (s : State), ∃ t, exec (.alw d) s = .next t
    ∧ WroteG 4 d (if s.me.strand = 0 then 0xFFFFFFFF
        else BitVec.ofNat 64 (min ((s.die s.cur.die).expiryAt s.me.strand - s.now s.cur.die) (2 ^ 32 - 2))) s t)
  ∧ (∀ (s : State) (e : StrandEntry), e = strandAt s s.arg.c.die s.arg.n → e.isLive = true → StrandsListed (s.die s.arg.c.die) →
    (s.die s.arg.c.die).expiryOf e ≤ s.now s.arg.c.die →
    (s.cutPending s.arg.c.die e = false → ∃ t, exec .strandExpiry s = .next t ∧ (strandAt t s.arg.c.die s.arg.n).state = .ended false)
    ∧ (s.cutPending s.arg.c.die e = true → (s.die s.arg.c.die).strandOf e.id = some (s.arg.n, e) →
        ∃ t, exec .strandExpiry s = .next t ∧ (strandAt t s.arg.c.die s.arg.n).state = .ended true))
  ∧ (∀ (s : State) (b : Bool), (strandAt s s.arg.c.die s.arg.n).state = .ended b →
    (strandAt s s.arg.c.die s.arg.n).expiry + 1000000 ≤ s.now s.arg.c.die →
    ∃ t, exec .strandEntryFree s = .next t ∧ { t with dies := s.dies } = s ∧ strandAt t s.arg.c.die s.arg.n = StrandEntry.reset)
  ∧ (∀ (s : State) (q : PeerReq), s.arg.peer = some q → s.staleRequest q = true →
    exec .cutArrival s = .next { s with out := s.out ++ [.peerAnswer q.source q.sourceInc .lost], agenda := s.agenda ++ woken s })
  ∧ (∀ (s : State) (i : Nat) (e : StrandEntry), s.arg.peer = none → StrandsListed (s.die s.arg.c.die) →
    (s.die s.arg.c.die).strandOf (BitVec.ofNat 24 s.arg.n) = some (i, e) →
    strandAt s s.arg.c.die i = e → e.isLive = true →
    (e.vf = s.arg.vf → ∃ t, exec .cutArrival s = .next t ∧ (strandAt t s.arg.c.die i).state = .ended true)
    ∧ (e.vf ≠ s.arg.vf → ∃ t, exec .cutArrival s = .next t ∧ { t with dies := s.dies } = s ∧ strandAt t s.arg.c.die i = e))
  ∧ (∀ s : State, s.arg.hdr.members = [] → s.arg.hdr.id ≠ 0 →
    (s.arg.hdr.carried = 0 → ∃ t, exec .packetIngress s = .next t ∧ { t with dies := s.dies } = s
        ∧ (t.die s.arg.c.die).strands = (s.die s.arg.c.die).strands
        ∧ ((Sparse.get (s.die s.arg.c.die).ann (s.arg.hdr.vf * 16 + 6) 0).toNat < 2 ^ 64 - 1 →
            Sparse.get (t.die s.arg.c.die).ann (s.arg.hdr.vf * 16 + 6) 0
              = Sparse.get (s.die s.arg.c.die).ann (s.arg.hdr.vf * 16 + 6) 0 + 1))
    ∧ (s.arg.hdr.carried ≠ 0 → s.arg.hdr.registers = true → ∀ i,
        (s.die s.arg.c.die).strandOf s.arg.hdr.id = none → (s.die s.arg.c.die).freeStrand 8192 = some i →
        ∃ t, exec .packetIngress s = .next t ∧ { t with dies := s.dies } = s
          ∧ strandAt t s.arg.c.die i = { StrandEntry.reset with
              state := .live, vf := s.arg.hdr.vf, id := s.arg.hdr.id, expiry := s.now s.arg.c.die + min s.arg.hdr.carried 0xFFFFFFFE })
    ∧ (s.arg.hdr.carried ≠ 0 → s.arg.hdr.registers = true → ∀ i e,
        (s.die s.arg.c.die).strandOf s.arg.hdr.id = some (i, e) → e.isLive = true →
        ∃ t, exec .packetIngress s = .next t ∧ { t with dies := s.dies } = s
          ∧ strandAt t s.arg.c.die i = { e with expiry := min e.expiry (s.now s.arg.c.die + min s.arg.hdr.carried 0xFFFFFFFE) }))
  ∧ (∀ (s : State) (p : Packet) (l1 l2 : List Packet) (x : Nat), s.arg.flag = false → s.port = l1 ++ p :: l2 →
      (∀ q ∈ l1, q.coord = s.arg.c → s.overdue q = false) → p.coord = s.arg.c → p.held = true → p.expires = some x →
      x ≤ s.now s.arg.c.die → p.completes = none →
      ∃ t, exec .carriedExpiryDrop s = .next t ∧ t.port.map Packet.unsent = (l1 ++ l2).map Packet.unsent ∧ t.mem = s.mem
        ∧ (∀ e, { t.slot e with hold := (s.slot e).hold } = s.slot e)
        ∧ (∀ a, p.route = .here a → (Sparse.get (s.die s.arg.c.die).ann (p.vf * 16 + 6) 0).toNat < 2 ^ 64 - 1 →
            Sparse.get (t.die s.arg.c.die).ann (p.vf * 16 + 6) 0 = Sparse.get (s.die s.arg.c.die).ann (p.vf * 16 + 6) 0 + 1)
        ∧ (∀ dev va, p.route = .peer dev va → t.dies = s.dies))
  ∧ ∀ (s : State) (h : HeldPeer) (l1 l2 : List HeldPeer), s.arg.flag = true → s.heldPeers = l1 ++ h :: l2 →
      (∀ q ∈ l1, q.die = s.arg.c.die → s.overdueHere q = false) → h.die = s.arg.c.die → s.overdueHere h = true →
      ∃ t, exec .carriedExpiryDrop s = .next t ∧ { t with heldPeers := s.heldPeers, dies := s.dies } = s
        ∧ t.heldPeers = l1 ++ l2 ++ [{ h with dropped := true }]
        ∧ ((Sparse.get (s.die s.arg.c.die).ann (h.vf * 16 + 6) 0).toNat < 2 ^ 64 - 1 →
            Sparse.get (t.die s.arg.c.die).ann (h.vf * 16 + 6) 0 = Sparse.get (s.die s.arg.c.die).ann (h.vf * 16 + 6) 0 + 1)

/-- R225 to R228, R238, R266 to R269, R273 to R275, R366 to R368: `skfind` writes the segment of a resident
skein or 0, `skflush` waits for its write-backs, `skrel` and `skpin` append a directory packet or wait for room; an eviction and a
restore change the skein's state and copy its bytes between the shares and the backing copies, word by word; a directory packet and a stage map apply; the launch port takes a waiting packet or a ring's packet
with the next id; a distribution places the crews by the hash; a crew starts in free cores at the packet's entry; a retirement notice
takes its die off the launch. That `skrel` and `skpin` wait also while the launch queue is disabled is the model's reading (log 55), and
that the first die to evict or restore a placement copies the bytes of every share is its own (logs 17 and 54); so is the source that a ring packet's
queue record names, by the last write of the ring's line (log 53).
The model's own in it: the port and its order (log 3), the agenda (log 1), `State.arg` (log 14). -/
def Obligations.SkeinAndLaunchResult : Prop :=
  (∀ (d a : BitVec 5) (s : State),
    (s.skeinIndex (s.rg a) = none → TrapsHere 0x06 s →
      (∃ t, exec (.skfind d a) s = .next t ∧ TookTrap 0x06 (s.rg a) s t)
        ∧ ∃ t, exec (.skflush a) s = .next t ∧ TookTrap 0x06 (s.rg a) s t)
    ∧ ∀ (j : Nat) (acc : Dword), s.skeinIndex (s.rg a) = some (j, acc) →
        (∃ t, exec (.skflush a) s = .next t ∧ OnlySlotAgenda s.cur s t ∧ HeldBy (.skflush (s.rg a)) s t
          ∧ t.agenda = s.agenda ++ [.event .skflushComplete (.at s.cur)])
        ∧ ((s.die s.cur.die).skein? s.me.vf (s.rg a) = none → ∃ t, exec (.skfind d a) s = .next t ∧ WroteG 4 d 0 s t)
        ∧ ∀ (k : Skein) (sh : BitVec 3 × BitVec 6 × Nat), (s.die s.cur.die).skein? s.me.vf (s.rg a) = some k →
            k.reachable s.cur = some sh → j ≤ 7 →
            (s.restoring s.me.vf k = true → TrapsHere 0x10 s → ∃ t, exec (.skfind d a) s = .next t ∧ TookTrap 0x10 (s.rg a) s t)
            ∧ (s.restoring s.me.vf k = false →
            ∃ t, exec (.skfind d a) s = .next t ∧ OnlySlot s.cur s t ∧ PastBy 4 s.me t.me
              ∧ { t.me.placedAs s.me with g := s.me.g, sg := s.me.sg } = s.me
              ∧ (∀ r, t.rg r = if r = d ∧ r ≠ 0 then BitVec.ofNat 64 (7 - j) <<< 61 else s.rg r)
              ∧ ∀ m : BitVec 3, t.me.rsg m = if m.toNat = 7 - j then k.segment acc sh else s.me.rsg m))
  ∧ (∀ (a : BitVec 5) (s : State) (i : Instr) (op : Nat), (i = .skrel a ∧ op = 1) ∨ (i = .skpin a ∧ op = 2) → Quiet s →
    (s.lqFull s.me.vf = true → ∃ t, exec i s = .next t ∧ HeldBy .dirQueue s t)
    ∧ (s.lqFull s.me.vf = false → (s.vf s.me.vf).portQ = [] → s.mem.wf = true →
      Unpoisoned s.mem (s.lqEntry s.me.vf (s.lqTail s.me.vf)) 256 → Unpoisoned s.mem (physBase (s.vf s.me.vf).lqbase) 8 →
      ∃ t, exec i s = .next t ∧ PastBy 4 s.me t.me ∧ t.me.placedAs s.me = s.me
        ∧ t.lqTail s.me.vf = (s.lqTail s.me.vf + 1) % 2 ^ 64
        ∧ (t.packetAt (s.lqEntry s.me.vf (s.lqTail s.me.vf))).get 2 = (s.vf s.me.vf).lastId + 1
        ∧ (t.packetAt (s.lqEntry s.me.vf (s.lqTail s.me.vf))).get 3 = 0x8000
        ∧ (t.packetAt (s.lqEntry s.me.vf (s.lqTail s.me.vf))).get 8 = BitVec.ofNat 64 op <<< 60
        ∧ (t.packetAt (s.lqEntry s.me.vf (s.lqTail s.me.vf))).get 9 = s.rg a))
  ∧ (∀ (s : State) (name : Dword), (s.slot s.arg.c).hold = some (.skflush name) →
    ((∀ k, (s.die s.arg.c.die).skein? (s.slot s.arg.c).vf name = some k → k.state = .evicted) →
      ∃ t, exec .skflushComplete s = .next t ∧ CompletedAt 4 s.arg.c s t)
    ∧ ∀ k, (s.die s.arg.c.die).skein? (s.slot s.arg.c).vf name = some k → k.state ≠ .evicted →
        (s.restoring (s.slot s.arg.c).vf k = false → (∀ p ∈ s.port, p.coord ≠ s.arg.c) →
          ∃ t, exec .skflushComplete s = .next t ∧ PastBy 4 (s.slot s.arg.c) (t.slot s.arg.c)
            ∧ t.mem = (s.writeBackShares (s.slot s.arg.c).vf k).mem)
        ∧ (s.restoring (s.slot s.arg.c).vf k = true → exec .skflushComplete s = .next s))
  ∧ (∀ (s : State) (k : Skein), (s.die s.arg.c.die).skein? s.arg.vf s.arg.v = some k →
    (k.state = .resident → s.restoring s.arg.vf k = false → k.pinned = false → k.attached = [] →
      ∃ t, exec .skeinEviction s = .next t ∧ t.slots = s.slots
        ∧ (t.die s.arg.c.die).skein? s.arg.vf s.arg.v = some { k with state := .evicted }
        ∧ t.mem = (if s.evictedElsewhere s.arg.vf k then s else s.writeBackShares s.arg.vf k).mem)
    ∧ (k.state ≠ .evicted → s.restoring s.arg.vf k = true →
      ∃ t, exec .skeinRestoreComplete s = .next t ∧ t.slots = s.slots ∧ t.dies = s.dies
        ∧ t.restoring s.arg.vf k = false ∧ t.mem = (s.restoreShares s.arg.vf k).mem))
  ∧ (∀ (s : State) (c : Coord) (vf share va : Nat), s.mem.wf = true → share % 1024 = 0 → share + 1024 ≤ hostBase →
    (∀ b : Nat, s.backingAddr c vf va rightW = some b → b % 1024 = 0 →
      ∀ x, (s.backKb c vf share va).mem.byte x =
        if b ≤ x ∧ x < b + 1024 ∧ wordRefused s.mem c.clusterKey (share + (x - b) / 8 * 8) = false
            ∧ wordRefused s.mem c.clusterKey (b + (x - b) / 8 * 8) = false then s.mem.byte (share + (x - b)) else s.mem.byte x)
    ∧ (s.backingAddr c vf va rightW = none → s.backKb c vf share va = s)
    ∧ (∀ b : Nat, s.backingAddr c vf va rightR = some b → b % 1024 = 0 →
      ∀ x, let bad := wordRefused s.mem c.clusterKey (b + (x - share) / 8 * 8)
        (s.restoreKb c vf share va).mem.byte x =
            (if share ≤ x ∧ x < share + 1024 ∧ bad = false then s.mem.byte (b + (x - share)) else s.mem.byte x)
          ∧ (s.restoreKb c vf share va).mem.tag x =
            if share ≤ x ∧ x < share + 1024 then (if bad then 3 else 0) else s.mem.tag x)
    ∧ (s.backingAddr c vf va rightR = none →
      ∀ x, (s.restoreKb c vf share va).mem.byte x = s.mem.byte x
        ∧ (s.restoreKb c vf share va).mem.tag x = if share ≤ x ∧ x < share + 1024 then 3 else s.mem.tag x))
  ∧ (∀ (s : State) (n : Nat) (p : Vector Dword 16), s.mem.wf = true → s.nextMap s.arg.c.die s.arg.vf = some (n, p) →
    Unpoisoned s.mem (physBase (s.vf s.arg.vf).lqbase + 16 + 8 * s.arg.c.die.toNat) 8 →
    (fldN (p.get 8) 60 4 = 2 → ∀ k, (s.die s.arg.c.die).skein? s.arg.vf (p.get 9) = some k →
      ∃ t, exec .directoryPacketApply s = .next t ∧ t.lqPassed s.arg.vf s.arg.c.die = (n + 1) % 2 ^ 64
        ∧ (t.die s.arg.c.die).skein? s.arg.vf (p.get 9) = some { k with pinned := true })
    ∧ (fldN (p.get 8) 60 4 = 1 → ∀ k, (s.die s.arg.c.die).skein? s.arg.vf (p.get 9) = some k → k.attached ≠ [] → k.state ≠ .evicted →
      ∃ t, exec .directoryPacketApply s = .next t ∧ t.lqPassed s.arg.vf s.arg.c.die = (n + 1) % 2 ^ 64
        ∧ (t.die s.arg.c.die).skein? s.arg.vf (p.get 9) = some { k with state := .released })
    ∧ (fldN (p.get 8) 60 4 = 0 →
      ∃ t, exec .stageMapApply s = .next t ∧ t.lqPassed s.arg.vf s.arg.c.die = (n + 1) % 2 ^ 64
        ∧ Sparse.find? (t.die s.arg.c.die).maps (s.arg.vf * 8 + fldN (p.get 8) 0 3)
            = some ((List.range 48).map fun c => fldN (p.getD (9 + c / 16) 0) (4 * (c % 16)) 4)))
  ∧ (∀ (s : State) (p : Vector Dword 16) (rest : List (Vector Dword 16)), s.mem.wf = true → s.lqFull s.arg.vf = false →
    s.paused s.arg.vf = false → (s.vf s.arg.vf).portQ = p :: rest →
    Unpoisoned s.mem (s.lqEntry s.arg.vf (s.lqTail s.arg.vf)) 256 → Unpoisoned s.mem (physBase (s.vf s.arg.vf).lqbase) 8 →
    ∃ t, exec .launchPortTake s = .next t ∧ (t.vf s.arg.vf).portQ = rest
      ∧ (t.vf s.arg.vf).lastId = (s.vf s.arg.vf).lastId + 1 ∧ t.lqTail s.arg.vf = (s.lqTail s.arg.vf + 1) % 2 ^ 64
      ∧ ∀ j : Fin 16, (t.packetAt (s.lqEntry s.arg.vf (s.lqTail s.arg.vf))).get j =
          if j = 2 then (s.vf s.arg.vf).lastId + 1 else p.get j)
  ∧ (∀ (s : State) (r a b x : Nat), s.mem.wf = true → s.lqFull s.arg.vf = false → s.paused s.arg.vf = false →
    (s.vf s.arg.vf).portQ = [] → s.readyRing s.arg.vf = some (r, a) →
    b = physBase ((s.vf s.arg.vf).sqbase.getD r 0) + 8 → x = s.lqEntry s.arg.vf (s.lqTail s.arg.vf) →
    Unpoisoned s.mem b 8 → Unpoisoned s.mem x 256 →
    ∃ t, exec .launchPortTake s = .next t ∧ (t.vf s.arg.vf).lastId = (s.vf s.arg.vf).lastId + 1
      ∧ t.ringConsumed ((s.vf s.arg.vf).sqbase.getD r 0) = (s.ringConsumed ((s.vf s.arg.vf).sqbase.getD r 0) + 1) % 2 ^ 64
      ∧ (b + 8 ≤ x ∨ x + 256 ≤ b → physBase (s.vf s.arg.vf).lqbase + 8 ≤ x →
          fldN (t.mem.dword (x + 0x80)) 0 3 = (if r = 1 then 4 else 0) + if a / 128 ∈ s.mem.hostLines then 0 else 1))
  ∧ (∀ (s s1 s2 : State) (n : Nat) (p : Vector Dword 16) (segs : Vector (BitVec 128) 8) (sk : List (Dword × Dword))
      (l : List (BitVec 3 × BitVec 6)), ringSizeOk (s.vf s.arg.vf).lqsize = true → n = s.lqPassed s.arg.vf s.arg.c.die →
    n < s.lqTail s.arg.vf → p = s.packetAt (s.lqEntry s.arg.vf n) → pkFlag p 7 = false → pkFieldsOk p = true →
    s.readTables s.arg.c.die s.arg.vf p = some (segs, sk) → s.packetStrand s.arg.c.die s.arg.vf p = (s1, true) →
    s1.skeinList s.arg.c.die s.arg.vf (p.get 2) (sk.map (·.1)) sk = .go s2 →
    (pkFlag p 0 = true ∨ s2.allRestored s.arg.c.die s.arg.vf sk = true) →
    l = s2.candidates s.arg.c.die s.arg.vf p sk → l ≠ [] →
    ∃ t x, exec .launchDistribute s = .next t ∧ (t.die s.arg.c.die).launches = (s2.die s.arg.c.die).launches ++ [x]
      ∧ x.id = p.get 2 ∧ x.vf = s.arg.vf ∧ x.packet = p ∧ x.segs = segs ∧ x.skeins = sk
      ∧ x.crews.map (fun k => (k.index, k.cluster)) =
          (List.range (pkCrews p)).filterMap fun i =>
            let c := l.getD ((launchHash (p.get 2) l.length + i) % l.length) (0, 0)
            if c.1 = s.arg.c.die then some (i, c.2) else none)
  ∧ (∀ (s : State) (l : Launch) (k : Crew) (free : List (BitVec 3)), (s.die s.arg.c.die).nextCrew s.arg.c.cluster = some (l, k) →
    (s.die s.arg.c.die).strandLive l.strandOf = true → s.paused l.vf = false →
    free = ((List.range 8).map (BitVec.ofNat 3)).filter (fun core => s.coreFree { s.arg.c with core := core } l.slotsOf) →
    l.coresOf ≤ free.length → k.cluster = s.arg.c.cluster →
    ∃ t, exec .crewStart s = .next t ∧ t.mem = s.mem
      ∧ ∀ (j : Nat) (core : BitVec 3), j < l.coresOf → free[j]? = some core →
          let x := t.slot { die := s.arg.c.die, cluster := s.arg.c.cluster, core := core, slot := 0 }
          x.live = true ∧ x.pc = l.packet.get 0 ∧ (∀ r, x.rg r = if r = 1 then l.packet.get 1 else 0) ∧ x.sg = l.segs
            ∧ x.strand = l.strandOf ∧ x.cls = l.clsOf ∧ x.vf = l.vf ∧ x.launch = some l.id ∧ x.hold = none ∧ x.frame = none)
  ∧ ∀ (s : State) (d : BitVec 3) (l : Launch), (s.die d).launch? s.arg.vf s.arg.v = some l →
      ((∀ p ∈ s.port, p.launch = some s.arg.v → p.vf = s.arg.vf → p.coord.die ≠ s.arg.c.die) →
        (∀ x ∈ s.loose, x.stores = true → x.launch = some s.arg.v → x.vf = s.arg.vf → x.coord.die ≠ s.arg.c.die) →
        ∃ t, exec .retirementNotice s = .next t ∧ t.mem = s.mem ∧ t.slots = s.slots
          ∧ (t.die d).launch? s.arg.vf s.arg.v = some { l with pending := l.pending.filter (· != s.arg.c.die) })
      ∧ ((∃ p ∈ s.port, p.launch = some s.arg.v ∧ p.vf = s.arg.vf ∧ p.coord.die = s.arg.c.die)
          ∨ (∃ x ∈ s.loose, x.stores = true ∧ x.launch = some s.arg.v ∧ x.vf = s.arg.vf ∧ x.coord.die = s.arg.c.die) →
        exec .retirementNotice s = .next s)

namespace Sys2Proof.Machine

/-! ## Shuttle rings, active messages and peers -/

/-- The cluster that the sends of cluster `u` go to (R10, R278). -/
def sendTarget (s : State) (u : Coord) : Coord := pairOf u (s.cluster u).shtxTarget

/-- The first byte of landing slot `n` of cluster `u`, and of its trailer (R277, R279). -/
def landingAddr (s : State) (u : Coord) (n : Nat) : Nat := slotAddr u (s.cluster u).shrx n
def trailerAddr (s : State) (u : Coord) (n : Nat) : Nat := landingAddr s u n + rxSize (s.cluster u).shrx - 16

/-- `n` addresses from `a` on. -/
def addrsFrom (a n : Nat) : List Nat := (List.range n).map (a + ·)

/-- Device `dev` is marked lost (R291). -/
def MarkedLost (s : State) (dev : BitVec 9) : Prop := (s.peerEntry dev).getLsbD 62 = true

/-- The slot at `c` took a trap of a cause at its own handler (R325). -/
def Trapped (c : Coord) (cause : BitVec 8) (tval : Dword) (s t : State) : Prop :=
  (t.slot c).cause = cause ∧ (t.slot c).tval = tval ∧ (t.slot c).epc = (s.slot c).pc ∧ (t.slot c).pc = (s.slot c).tvec
    ∧ (t.slot c).hold = none

end Sys2Proof.Machine

/-- R280 to R286: `shsend` queues a send with a permit and clears kK without one; `shpermit` grants free landing slots;
`shrecv` clears kK where no landing slot is full, and else waits for the copy; a grant counts at its target or goes back; a send
is accepted or dropped whole, its payload is copied, its trailer fills the landing slot, and its number completes. An annulled send, held or not, is stopped there. That it gets a trailer of status 0x23, that a taken landing slot counts as full until its copy is done, and that a send waits for
the slot's accesses at peers in the queue is the model's reading (log 58).
The model's own in it: the agenda (log 1), `State.arg` (log 14). -/
def Obligations.ShuttleResult : Prop :=
  (∀ (a b : BitVec 5) (k : BitVec 3) (s : State) (cl : Cluster) (n : Nat), cl = s.cluster s.cur → n = fldN (s.rg b) 0 17 →
    ((cl.shtxEn = false ∨ cl.shtxVf.toNat ≠ s.me.vf) → TrapsHere 0x06 s →
      ∃ t, exec (.shsend a b k) s = .next t ∧ TookTrap 0x06 (s.rg a) s t)
    ∧ (cl.shtxEn = true → cl.shtxVf.toNat = s.me.vf →
      ((fld (s.rg b) 17 14 ≠ 0#14 ∨ n = 0 ∨ 256 * (cl.shtxSize.toNat + 1) - 16 < n) → TrapsHere 0x05 s →
        ∃ t, exec (.shsend a b k) s = .next t ∧ TookTrap 0x05 (s.rg b) s t)
      ∧ ∀ pl : Place, fld (s.rg b) 17 14 = 0#14 → n ≠ 0 → n ≤ 256 * (cl.shtxSize.toNat + 1) - 16 → (s.rg a).toNat % 64 = 0 →
          (s.kindOf (s.rg a) = 1 ∨ s.kindOf (s.rg a) = 2 ∨ s.kindOf (s.rg a) = 7) →
          s.enginePlace s.cur s.me.vf none (s.rptr (s.rg a)) n rightR = .ok pl →
          (cl.permits = 0 → ∃ t, exec (.shsend a b k) s = .next t ∧ WroteK 4 k 0 s t)
          ∧ (cl.permits ≠ 0 → Quiet s →
            ∃ t x, exec (.shsend a b k) s = .next t ∧ PastBy 4 s.me t.me
              ∧ (∀ r, t.rk r = if r = k ∧ r ≠ 0 then 0xFFFFFFFFFFFFFFFF else s.rk r) ∧ (∀ r, t.rg r = s.rg r)
              ∧ { t with slots := s.slots, cores := s.cores, clusters := s.clusters, agenda := s.agenda } = s
              ∧ t.cluster s.cur = { cl with permits := cl.permits - 1, seq := cl.seq + 1, sends := cl.sends ++ [x] }
              ∧ x.srcAddr = pl.addrs.headD 0 ∧ x.count = n ∧ x.head = fld (s.rg b) 32 32 ∧ x.held = (s.rg b).getLsbD 31
              ∧ x.strand = s.me.strand ∧ x.core = s.cur.core ∧ x.seq = cl.seq ∧ x.vf = s.me.vf ∧ x.started = false
              ∧ x.num = (s.core s.cur).nextNum.get 6 ∧ x.moved = 0 ∧ x.status = 0 ∧ x.trailed = false ∧ x.waits = false ∧ x.cut = false
              ∧ t.agenda = s.agenda ++ [.event .shuttleSendTransmit (.at s.cur)])
          ∧ (cl.permits ≠ 0 → (s.drain s.cur).outstanding s.cur = true →
            ∃ t x l, exec (.shsend a b k) s = .next t ∧ (t.cluster s.cur).sends = l ++ [x] ∧ x.waits = true
              ∧ x.head = fld (s.rg b) 32 32 ∧ x.count = n)))
  ∧ (∀ (a : BitVec 5) (s : State) (cl : Cluster) (g : Nat) (p : Coord), cl = s.cluster s.cur →
    g = min (fldN (s.rg a) 0 7) (rxSlots cl.shrx - cl.full - cl.resv) → p = pairOf s.cur (rxPeer cl.shrx) →
    ((rxEn cl.shrx = false ∨ rxVf cl.shrx ≠ s.me.vf) → TrapsHere 0x06 s →
      ∃ t, exec (.shpermit a) s = .next t ∧ TookTrap 0x06 (s.rg a) s t)
    ∧ (rxEn cl.shrx = true → rxVf cl.shrx = s.me.vf →
      (g = 0 → ∃ t, exec (.shpermit a) s = .next t ∧ Passed 4 s t)
      ∧ (g ≠ 0 → ∃ t, exec (.shpermit a) s = .next t ∧ PastBy 4 s.me t.me ∧ t.me.placedAs s.me = s.me
          ∧ { t with slots := s.slots, clusters := s.clusters, agenda := s.agenda } = s
          ∧ t.cluster s.cur = { cl with resv := cl.resv + g }
          ∧ t.cluster p = { s.cluster p with
              grants := (s.cluster p).grants ++ [{ permits := g, size := fld cl.shrx 26 8, source := s.cur.cluster }] }
          ∧ t.agenda = s.agenda ++ [.event .permitArrival (.at p)])))
  ∧ (∀ (d : BitVec 5) (k : BitVec 3) (s : State) (cl : Cluster) (pl : Place), cl = s.cluster s.cur → rxEn cl.shrx = true →
    rxVf cl.shrx = s.me.vf → (s.rg d).toNat % 64 = 0 →
    (s.kindOf (s.rg d) ≠ 1 → TrapsHere 0x06 s → ∃ t, exec (.shrecv d k) s = .next t ∧ TookTrap 0x06 (s.rg d) s t)
    ∧ (s.kindOf (s.rg d) = 1 → s.dataPlace s.cur (s.rg d) (rxSize cl.shrx - 16) rightW = .ok pl →
      (cl.full ≤ cl.taking.length → ∃ t, exec (.shrecv d k) s = .next t ∧ WroteK 4 k 0 s t)
      ∧ (cl.taking.length < cl.full → ∃ t, exec (.shrecv d k) s = .next t ∧ HeldBy (.shrecv k d cl.rd pl.addrs) s t
          ∧ { t with slots := s.slots, clusters := s.clusters, agenda := s.agenda } = s
          ∧ t.cluster s.cur = { cl with rd := (cl.rd + 1) % rxSlots cl.shrx, taking := cl.taking ++ [s.cur] }
          ∧ t.agenda = s.agenda ++ [.event .shrecvCopyDone (.at s.cur)])))
  ∧ (∀ (s : State) (u : Coord) (g : Grant) (rest : List Grant), u = s.arg.c → (s.cluster u).grants = g :: rest →
    ((s.cluster u).shtxEn = true → g.source = (s.cluster u).shtxTarget →
      ∃ t, exec .permitArrival s = .next t ∧ { t with clusters := s.clusters } = s
        ∧ t.cluster u = { s.cluster u with
            grants := rest, permits := (s.cluster u).permits + g.permits, shtxSize := g.size })
    ∧ (((s.cluster u).shtxEn = false ∨ g.source ≠ (s.cluster u).shtxTarget) →
      ∃ t, exec .permitArrival s = .next t ∧ { t with clusters := s.clusters } = s
        ∧ t.cluster u = { s.cluster u with grants := rest }
        ∧ t.cluster (pairOf u g.source) = { s.cluster (pairOf u g.source) with
            resv := (s.cluster (pairOf u g.source)).resv - g.permits }))
  ∧ (∀ (s : State) (u : Coord) (x : Send) (rest : List Send) (rx : Dword), u = s.arg.c → (s.cluster u).sends = x :: rest →
    rx = (s.cluster (sendTarget s u)).shrx → x.started = false →
    (x.cut = true ∨ (s.die u.die).strandLive x.strand = false) → rxEn rx = true → rxVf rx = x.vf → rxPeer rx = u.cluster →
    ∃ t, exec .shuttleSendTransmit s = .next t ∧ { t with clusters := s.clusters, agenda := s.agenda } = s
      ∧ t.cluster u = { s.cluster u with sends := { x with started := true, status := 0x23 } :: rest }
      ∧ t.agenda = s.agenda ++ [.event .shuttleTrailerWrite (.at u)])
  ∧ (∀ (s : State) (u : Coord) (x : Send) (rest : List Send) (rx : Dword), u = s.arg.c → (s.cluster u).sends = x :: rest →
    rx = (s.cluster (sendTarget s u)).shrx → x.held = false → x.started = false → x.waits = false →
    ((rxEn rx = false ∨ rxVf rx ≠ x.vf ∨ rxPeer rx ≠ u.cluster) →
      ∃ t, exec .shuttleSendTransmit s = .next t ∧ t.mem = s.mem ∧ (t.cluster u).sends = rest
        ∧ NumberDone t x.vf { u with core := x.core } 6 x.num)
    ∧ (x.cut = false → rxEn rx = true → rxVf rx = x.vf → rxPeer rx = u.cluster → (s.die u.die).strandLive x.strand = true →
      (s.cross u.die (sendTarget s u).die true x.strand x.vf true).2 = true →
      ∃ t, exec .shuttleSendTransmit s = .next t ∧ { t with clusters := s.clusters, dies := s.dies, agenda := s.agenda } = s
        ∧ t.cluster u = { s.cluster u with sends := { x with started := true } :: rest }
        ∧ t.agenda = s.agenda ++ [.event .shuttlePayloadPacket (.at u)]))
  ∧ (∀ (s : State) (u r : Coord) (x : Send) (rest : List Send) (n : Nat) (src dst : List Nat), u = s.arg.c →
    (s.cluster u).sends = x :: rest → r = sendTarget s u → x.started = true → x.trailed = false → x.status = 0 →
    x.moved < x.count → x.cut = false → (s.die u.die).strandLive x.strand = true → (s.cross u.die r.die true x.strand x.vf false).2 = true →
    n = min 256 (x.count - x.moved) → src = addrsFrom (x.srcAddr + x.moved) n →
    dst = addrsFrom (landingAddr s r (s.cluster r).wr + x.moved) n → s.mem.wf = true →
    firstRefused s.mem u.clusterKey src = none → firstRefused s.mem r.clusterKey dst = none →
    ∃ t, exec .shuttlePayloadPacket s = .next t ∧ t.slots = s.slots
      ∧ t.cluster u = { s.cluster u with sends := { x with moved := x.moved + n } :: rest }
      ∧ ∀ y, t.mem.byte y = byteAfter s.mem dst (src.map s.mem.byte) y)
  ∧ (∀ (s : State) (u r : Coord) (x : Send) (rest : List Send) (a : Nat), u = s.arg.c → (s.cluster u).sends = x :: rest →
    r = sendTarget s u → a = trailerAddr s r (s.cluster r).wr → x.started = true → x.trailed = false → x.count < 2 ^ 17 →
    s.mem.wf = true →
    (x.status ≠ 0 ∨ (x.count ≤ x.moved ∧ x.cut = false ∧ (s.die u.die).strandLive x.strand = true
      ∧ (s.cross u.die r.die true x.strand x.vf false).2 = true)) →
    ∃ t, exec .shuttleTrailerWrite s = .next t ∧ t.slots = s.slots
      ∧ t.cluster r = { s.cluster r with
          full := (s.cluster r).full + 1, resv := (s.cluster r).resv - 1
          wr := ((s.cluster r).wr + 1) % rxSlots (s.cluster r).shrx }
      ∧ t.cluster u = { s.cluster u with sends := { x with trailed := true } :: rest }
      ∧ OnlyBytes a 16 s.mem t.mem
      ∧ t.mem.dword a = (x.head.setWidth 64 <<< 32) ||| (x.status.setWidth 64 <<< 24)
          ||| (if x.status = 0 then BitVec.ofNat 64 x.count else 0)
      ∧ t.mem.dword (a + 8) = (x.seq.setWidth 64 <<< 32) ||| (x.core.setWidth 64 <<< 24) ||| x.strand.setWidth 64)
  ∧ (∀ (s : State) (u : Coord) (x : Send) (rest : List Send), u = s.arg.c → (s.cluster u).sends = x :: rest →
    x.trailed = true →
    ∃ t, exec .shuttleSendComplete s = .next t ∧ t.mem = s.mem ∧ (t.cluster u).sends = rest
      ∧ NumberDone t x.vf { u with core := x.core } 6 x.num)
  ∧ ∀ (s : State) (c : Coord) (k : BitVec 3) (d : BitVec 5) (n m : Nat) (dest : List Nat), c = s.arg.c →
      (s.cluster c).taking.contains c = true → (s.slot c).hold = some (.shrecv k d n dest) →
      m = min (fldN (s.mem.dword (trailerAddr s c n)) 0 17) (rxSize (s.cluster c).shrx - 16) → s.mem.wf = true →
      firstRefused s.mem c.clusterKey (addrsFrom (landingAddr s c n) m) = none →
      firstRefused s.mem c.clusterKey (dest.take m) = none →
      ∃ t, exec .shrecvCopyDone s = .next t ∧ PastBy 4 (s.slot c) (t.slot c)
        ∧ (∀ y, t.mem.byte y = byteAfter s.mem (dest.take m) ((addrsFrom (landingAddr s c n) m).map s.mem.byte) y)
        ∧ (∀ r, (t.slot c).rg r = if r = d ∧ r ≠ 0 then s.mem.dword (trailerAddr s c n) else (s.slot c).rg r)
        ∧ (∀ r, (t.slot c).rk r = if r = k ∧ r ≠ 0 then 0xFFFFFFFFFFFFFFFF else (s.slot c).rk r)
        ∧ (t.slot c).shsrc = s.mem.dword (trailerAddr s c n + 8) &&& 0xFFFFFFFF07FFFFFF ∧ (t.cluster c).full = (s.cluster c).full - 1

/-- R290 to R295: `amsg` reads its message and waits; the target's queue takes it and the sender goes on, or a core of another
VF refuses it; slot 14 starts the handler. A request of a stale incarnation is answered with peer lost, and a read with its
bytes, once its port and then its home dies accept the packet (that order, and that a peer's access counts as that of no cluster, is log 62, and
which held packet it takes the place of log 61). A device that is lost is marked, and who waits for it traps with cause 0x0B; one all of whose ports are down is lost. That a core's
VF is that of its lowest live slot below 13 is the model's reading (log 59).
The model's own in it: the port and its order (log 3), the agenda (log 1), `State.arg` (log 14). -/
def Obligations.MessageAndPeerResult : Prop :=
  (∀ (a b : BitVec 5) (s : State) (w : Coord), w = Coord.ofBits (s.rg a) →
    (s.cur.slot = 14 → TrapsHere 0x06 s → ∃ t, exec (.amsg a b) s = .next t ∧ TookTrap 0x06 (s.rg a) s t)
    ∧ (s.cur.slot ≠ 14 → w.ok = false → TrapsHere 0x05 s →
      ∃ t, exec (.amsg a b) s = .next t ∧ TookTrap 0x05 (s.rg a) s t)
    ∧ ∀ pl : Place, s.cur.slot ≠ 14 → w.ok = true → fld (s.rg a) 16 9 = s.dev.devno → w.die = s.cur.die →
        (s.rg b).toNat % 64 = 0 → Quiet s → Granted s (s.rg b) 64 rightR pl →
        fld (recordDword (pl.addrs.map s.mem.byte) 0) 8 56 = 0#56 →
        ∃ t, exec (.amsg a b) s = .next t ∧ HeldBy (.message (s.rg a) s.msgNum) s t ∧ SameBytes s.mem t.mem
          ∧ { t with slots := s.slots, mem := s.mem, msgs := s.msgs, msgNum := s.msgNum, agenda := s.agenda } = s
          ∧ t.msgNum = s.msgNum + 1
          ∧ t.msgs = s.msgs ++ [(w.at 14, {
              dwords := (List.range 8).map (recordDword (pl.addrs.map s.mem.byte)), sender := s.cur.bits s.dev.devno
              inc := s.dev.incarn, strand := s.me.strand, vf := s.me.vf, num := s.msgNum })]
          ∧ t.agenda = s.agenda ++ [.event .amsgAccept (.at (w.at 14))])
  ∧ (∀ (s : State) (l1 l2 : List (Coord × Message)) (w c : Coord) (m : Message) (x : Dword), s.arg.flag = false →
    s.msgs = l1 ++ (w, m) :: l2 → (∀ y ∈ l1, y.1.coreKey ≠ s.arg.c.coreKey) → w.coreKey = s.arg.c.coreKey →
    fld m.sender 16 9 = s.dev.devno → c = Coord.ofBits m.sender → (s.slot c).hold = some (.message x m.num) →
    ((s.coreVf w = none ∨ s.coreVf w = some m.vf) → (s.core w).amq.length < 16 →
      ∃ t, exec .amsgAccept s = .next t ∧ t.msgs = l1 ++ l2 ∧ t.mem = s.mem ∧ PastBy 4 (s.slot c) (t.slot c)
        ∧ t.core w = { s.core w with amq := (s.core w).amq ++ [m] } ∧ ∀ e, e ≠ c → t.slot e = s.slot e)
    ∧ ∀ v, s.coreVf w = some v → v ≠ m.vf → bit (s.slot c).status 2 = false → s.routed c 0x0A = false →
        ∃ t, exec .amsgAccept s = .next t ∧ t.msgs = l1 ++ l2 ∧ t.mem = s.mem ∧ t.cores = s.cores
          ∧ Trapped c 0x0A x s t ∧ fld (t.slot c).rfault 48 8 = 0x06#8)
  ∧ (∀ (s : State) (c : Coord) (m : Message) (rest : List Message), c = s.arg.c.at 14 → (s.core c).amq = m :: rest →
    (s.slot c).live = false → s.paused m.vf = false → (s.die c.die).strandLive m.strand = true → m.dwords.length = 8 →
    ∃ t, exec .activeMessageStart s = .next t ∧ t.mem = s.mem ∧ (t.core c).amq = rest ∧ (t.slot c).live = true
      ∧ (t.slot c).vf = m.vf ∧ (t.slot c).strand = m.strand ∧ (t.slot c).cls = 0 ∧ (t.slot c).hold = none
      ∧ (t.slot c).pc = pcPlus (s.core c).amvec (64 * (fld (m.dwords.headD 0) 0 8).setWidth 60)
      ∧ ∀ r : BitVec 5, r ≠ 0 → (t.slot c).rg r =
          if r.toNat ≤ 7 then m.dwords.getD r.toNat 0 else if r = 8 then m.sender else 0)
  ∧ (∀ (s : State) (q : PeerReq), s.arg.peer = some q →
    ((q.targetInc ≠ s.dev.incarn ∨ (s.peerEntry q.source).getLsbD 63 = false ∨ MarkedLost s q.source
        ∨ fld (s.peerEntry q.source) 54 8 ≠ q.sourceInc) →
      ∃ t, exec .peerRequestArrival s = .next t ∧ { t with out := s.out, agenda := s.agenda } = s
        ∧ t.out = s.out ++ [.peerAnswer q.source q.sourceInc .lost])
    ∧ ∀ (n : Nat) (pl : Place) (s1 : State), q.targetInc = s.dev.incarn → (s.peerEntry q.source).getLsbD 63 = true →
        ¬ MarkedLost s q.source → fld (s.peerEntry q.source) 54 8 = q.sourceInc → q.op = .read n →
        (∀ h ∈ s.heldPeers, h.from q = true → h.dropped = false) → s.ingress s.arg.c.die q.hdr = (s1, true) →
        s1.peerPlace s.arg.c q rightR (0, n) = .ok pl → (s1.ingressAll s.arg.c q.hdr pl.addrs).2 = true →
        homeRefused s.mem peerAgent q.policy pl.addrs 0 0 = none →
        ∃ t, exec .peerRequestArrival s = .next t
          ∧ { t with out := s.out, dies := s.dies, agenda := s.agenda, heldPeers := s.heldPeers } = s
          ∧ t.heldPeers = s.heldPeers.filter (fun h => !h.from q)
          ∧ t.out = s.out ++ [.peerAnswer q.source q.sourceInc (.data (pl.addrs.map s.mem.byte))])
  ∧ (∀ (s : State) (dev : BitVec 9) (e : Instr), dev = BitVec.ofNat 9 s.arg.n →
    ((e = .peerLostAnswer ∧ s.arg.inc = s.dev.incarn) ∨ (e = .peerTimeout ∧ s.waitsFor dev = true)) →
    ∃ t, exec e s = .next t ∧ MarkedLost t dev
      ∧ ∀ (c : Coord) (i : Instr) (p : Dword), s.waitingFor dev = [c] → s.savedFor dev = [] →
          (∀ k ∈ s.port, k.goesTo dev = false) → s.copiesFor dev = [] → s.commandsFor dev = [] → (s.slot c).hold = some (.load i p dev) → plainAccess i →
          bit (s.slot c).status 2 = false → s.routed c 0x0B = false →
          Trapped c 0x0B p s t ∧ fld (t.slot c).rfault 48 8 = 0x0B#8 ∧ ∀ e, e ≠ c → t.slot e = s.slot e)
  ∧ (∀ s : State, s.waitsFor (BitVec.ofNat 9 s.arg.n) = false → exec .peerTimeout s = .next s)
  ∧ ∀ (s : State) (down : BitVec 12), s.arg.n < 12 → down = s.dev.portsDown ||| (1#12 <<< s.arg.n) →
      ∃ t, exec .peerPortDown s = .next t ∧ t.dev.portsDown = down
        ∧ ∀ dev : BitVec 9, (s.peerEntry dev).getLsbD (42 + s.arg.n) = true →
            fld (s.peerEntry dev) 42 12 &&& ~~~down = 0#12 → MarkedLost t dev

namespace Sys2Proof.Machine

/-! ## Publication -/

/-- The walk has nothing left to visit. -/
def Walk.over (w : Walk) : Prop := w.stack = [] ∧ w.spilled = 0 ∧ w.todo = [] ∧ w.waits = []

end Sys2Proof.Machine

/-- R311 to R313: `pub` starts a walk and waits for it; a visit publishes an object: its header takes state 01 and its lines are no longer
PRIVATE; a field that names another object takes bit 60, and an object in state 00 that it names takes state 10 and goes on the stack; the
other fields stay; an object whose arena has been killed since it was pushed is passed by as if its reference were null (R256); a walk with
nothing left stores the root, and its `pub` completes.
The model's own in it: the port and its order (log 3), the agenda (log 1), `State.arg` (log 14). -/
def Obligations.PublicationResult : Prop :=
  (∀ (a b : BitVec 5) (s : State),
    ((s.rg b).toNat % 8 ≠ 0 → TrapsHere 0x04 s → ∃ t, exec (.pub a b) s = .next t ∧ TookTrap 0x04 (s.rg b) s t)
    ∧ ∀ pl : Place, (s.rg b).toNat % 8 = 0 → s.dataPlace s.cur (s.rg b) 8 rightW = .ok pl → pl.peer = none → Quiet s →
        (s.cluster s.cur).walk = none → (s.cluster s.cur).walkQ = [] →
        ∃ t w, exec (.pub a b) s = .next t ∧ HeldBy .walk s t ∧ t.mem = s.mem ∧ (t.cluster s.cur).walk = some w
          ∧ w.coord = s.cur ∧ w.root = s.rg a ∧ w.slotPtr = s.rg b ∧ w.num = (s.core s.cur).nextNum.get 7
          ∧ w.vf = s.me.vf ∧ w.suspended = false ∧ w.visits = 0 ∧ w.stack = []
          ∧ (w.walked = true ↔ sgPolicy (s.me.segOf (s.rg a)) = 3 ∧ fld (s.rg a) 0 60 ≠ 0#60)
          ∧ w.todo = (if w.walked then [s.rg a] else []))
  ∧ (∀ (s : State) (w : Walk) (r : Dword) (rest : List Dword) (a : Nat) (h : Dword) (addrs : List Nat),
    (s.cluster s.arg.c).walk = some w → w.coord.clusterKey = s.arg.c.clusterKey → w.suspended = false →
    w.held = false → (s.slot w.coord).hold = some .walk →
    w.todo = [] → w.stack = r :: rest → (∀ m ∈ w.marked, m.1 = a → (s.die w.coord.die).killed.contains m.2 = false) →
    w.visits < 2 ^ 20 → s.mem.wf = true → s.walkCheck w r = .ok (a, h) →
    collect (fun i => s.walkAddr w r (ptrAdd r (BitVec.ofNat 60 (8 * i)))) (List.range (2 * headerSize h)) = .ok addrs →
    s.visitCross w r = (s, true) → addrs = a :: addrs.tail → addrs.Nodup → (∀ x ∈ addrs, x % 8 = 0 ∧ s.mem.tag x ≠ 3) →
    let names (x : Nat) : Prop := s.mem.tag x = 1 ∧ sgPolicy ((s.slot w.coord).segOf (s.mem.dword x)) = 3
      ∧ fld (s.mem.dword x) 0 60 ≠ 0#60
    let shared (t : State) : Prop := t.slots = s.slots ∧ fld (t.mem.dword a) 38 2 = 1#2 ∧ ∀ x ∈ addrs, ∀ c, (x / 128, c) ∉ t.mem.owner
    ((∀ x ∈ addrs.tail, ¬ names x) →
      ∃ t, exec .walkVisit s = .next t ∧ shared t ∧ (∀ x ∈ addrs.tail, t.mem.dword x = s.mem.dword x)
        ∧ (t.cluster s.arg.c).walk = some { w with
            stack := rest, todo := [], visits := w.visits + 1, marked := w.marked.filter (·.1 != a), pf := 0, pfAt := none })
    ∧ ∀ (x0 : Nat) (v : Dword) (s1 : State) (a1 a2 : Nat) (h1 h2 : Dword), x0 ∈ addrs.tail → names x0 →
        (∀ x ∈ addrs.tail, x ≠ x0 → ¬ names x) → v = s.mem.dword x0 ||| (1#64 <<< 60) →
        s.walkCheck w (s.mem.dword x0) = .ok (a1, h1) → s.arenaKilled w.coord h1 = false →
        s.visit w r = .ok (s1, a, [v]) → s1.headerCross w v = (s1, true) → s1.walkCheck w v = .ok (a2, h2) →
        s1.arenaKilled w.coord h2 = false → headerState h2 = 0#2 → a2 % 8 = 0 → a2 ∉ addrs → rest.length < 4096 →
        ∃ t, exec .walkVisit s = .next t ∧ shared t ∧ t.mem.dword x0 = v ∧ t.mem.tag x0 = 1
          ∧ (∀ x ∈ addrs.tail, x ≠ x0 → t.mem.dword x = s.mem.dword x) ∧ fld (t.mem.dword a2) 38 2 = 2#2
          ∧ (t.cluster s.arg.c).walk = some { w with
              stack := v :: rest, todo := [], visits := w.visits + 1, marked := (a2, fld h2 12 20) :: w.marked.filter (·.1 != a)
              pf := 0, pfAt := none })
  ∧ (∀ (s : State) (w : Walk) (r : Dword) (rest : List Dword) (a : Nat) (m : Nat × BitVec 20),
    (s.cluster s.arg.c).walk = some w → w.coord.clusterKey = s.arg.c.clusterKey → w.suspended = false → w.held = false →
    (s.slot w.coord).hold = some .walk → w.todo = [] → w.stack = r :: rest → s.walkAddr w r r = .ok a → m ∈ w.marked → m.1 = a →
    (s.die w.coord.die).killed.contains m.2 = true →
    ∃ t, exec .walkVisit s = .next t ∧ t.mem = s.mem ∧ t.slots = s.slots ∧ t.dies = s.dies
      ∧ (t.cluster s.arg.c).walk = some { w with
          stack := rest, walked := w.walked && r != w.root, marked := w.marked.filter (·.1 != a), pf := 0, pfAt := none })
  ∧ ∀ (s : State) (w : Walk) (v : Dword) (a : Nat) (pl : Place), (s.cluster s.arg.c).walk = some w → w.suspended = false → w.held = false →
      w.over → (s.slot w.coord).hold = some .walk → s.dataPlace w.coord w.slotPtr 8 rightW = .ok pl → pl.peer = none →
      a = pl.addrs.headD 0 → s.pump w.coord = s → (s.cluster w.coord).walkQ = [] →
      v = (if w.walked then w.root ||| (1#64 <<< 60) else w.root) →
      ∃ t p, exec .walkRootStore s = .next t ∧ t.port = s.port ++ [p] ∧ t.mem = s.mem
        ∧ (t.cluster w.coord).walk = none
        ∧ p.coord = w.coord ∧ p.completes = some w.num ∧ p.route = .here a ∧ p.ptr = w.slotPtr
        ∧ (∃ tag, p.op = .store ((List.range 8).map fun j => (a + j, v.extractLsb' (8 * j) 8)) tag)
        ∧ PastBy 4 (s.slot w.coord) (t.slot w.coord) ∧ t.agenda = s.agenda ++ [.event .storePerform (.at w.coord)]

namespace Sys2Proof.Machine

/-! ## The machine as a whole -/

/-- The bytes at the pointer `p` are fetched by the current slot: the access is granted, the block is in the instruction cache and
no home refuses it (R63, R64). -/
def FetchedBytes (s : State) (p : Dword) (bytes : List Byte) : Prop :=
  ∃ pl : Place, s.resolve s.cur s.me.vf none (s.me.segOf p) [(fld p 0 60, 4)] rightX p = .ok pl ∧ pl.peer = none
    ∧ ((s.cluster s.cur).icache.find? fun e => e.1 == pl.addrs.headD 0 / 32).isSome = true
    ∧ firstRefused s.mem s.cur.clusterKey pl.addrs = none ∧ pl.addrs.map s.mem.byte = bytes ∧ bytes.length = 4

/-- Nothing is due and nothing waits, and slot `n` of the core in focus issues (R60): `u` is the state in which it does. -/
def Issues (s : State) (n : BitVec 4) (u : State) : Prop :=
  s.ticked.due = [] ∧ s.agenda = [] ∧ s.dev.recovery = false ∧ s.ticked.pick s.focus = some n
    ∧ (s.slot (s.focus.at n)).fw = false ∧ (s.slot (s.focus.at n)).starting = none ∧ u = s.ticked.issued s.focus n

/-- The step around an instruction that gave `r`: the core's cycle counter advances, and events may join the agenda. -/
def StepAround (c : Coord) (r : Res) (out : Host.Outcome State Fault Refusal) : Prop :=
  match r with
  | .next t => ∃ v l, out = .next v ∧ { v with cores := t.cores, agenda := t.agenda } = t
      ∧ v.core c = { t.core c with cycle := (t.core c).cycle + 1 } ∧ v.agenda = t.agenda ++ l
      ∧ ∀ e : Coord, e.coreKey ≠ c.coreKey → v.core e = t.core e
  | .fault f => out = .fault f
  | .refused f => out = .refused f

end Sys2Proof.Machine

/-- R36 to R54, R182: the decoder reads back every well-formed instruction from its bytes, and leaves the rest of the bytes. -/
def Obligations.DecodeOfEncode : Prop :=
  (∀ (i : Instr) (w : Word) (rest : List Byte), i.wf = true → encodeWord i = some w →
    decode (encode i ++ rest) = .ok (i, rest) ∧ ((∀ x f, i ≠ .ximm x f) → decodeWord w = some i ∧ isPrefix w = false))
  ∧ ∀ (i : Instr) (h : BitVec 16) (rest : List Byte), i.wf = true → encodeEpi i = some h →
      decodeEpi h = some i ∧ decodeEpilogue (encode i ++ rest) = .ok (i, rest)

/-- R37, R44: a word that the decoder takes is well-formed and is the one word of its instruction, so no bit of it is dropped. -/
def Obligations.EncodeOfDecode : Prop :=
  (∀ (w : Word) (i : Instr), decodeWord w = some i → i.wf = true ∧ encodeWord i = some w)
  ∧ ∀ (h : BitVec 16) (i : Instr), decodeEpi h = some i → i.wf = true ∧ encodeEpi i = some h

/-- Words that the spec gives, one for each family, and words that R44 calls illegal. -/
def Obligations.DecodeWords : Prop :=
  decodeWord 0x20A50040 = some (.addi 5 5 0x0040) ∧ decodeWord 0x35260000 = some (.cmpiNe 1 6 0)
  ∧ decodeWord 0x40FFFFFB = some (.bc 1 1 0x3FFFFB) ∧ decodeWord 0x50C5C001 = some (.ld 6 5 6 0 1)
  ∧ decodeWord 0x54628FFF = some (.st 3 2 4 1 0x7FF) ∧ decodeWord 0x5AD5D000 = some (.ldf 22 21 2 0)
  ∧ decodeWord 0x5CA63819 = some (.aadd 5 6 7 2 1) ∧ decodeWord 0x64642920 = some (.vgather 3 4 5 1 0)
  ∧ decodeWord 0x75008000 = some (.vfma 8 0 16 0 0 0) ∧ decodeWord 0x78221860 = some (.vcmpLt 1 2 3 0 0)
  ∧ decodeWord 0x88A60011 = some (.vcvt 5 6 0 0 1 1) ∧ decodeWord 0xA0030000 = some (.mxfmt 3 0)
  ∧ decodeWord 0xC0500000 = some (.karr 5) ∧ decodeWord 0xC4C42803 = some (.jadd 6 4 5)
  ∧ decodeWord 0xC80A5900 = some (.enq 10 11 1) ∧ decodeWord 0xD0642800 = some (.hstart 3 4 5)
  ∧ decodeWord 0xE0042900 = some (.shsend 4 5 1) ∧ decodeWord 0xF0050000 = some (.trap 5)
  ∧ decodeWord 0xF4600200 = some (.csrr 3 2) ∧ decodeWord 0xF8642801 = some (.rndk 3 4 5)
  ∧ decodeWord 0x484F0003 = some (.repf 1 15 0 0) ∧ decodeWord 0x680A1001 = some (.pub 10 2)
  ∧ decodeWord 0 = none ∧ decodeWord 0xFFFFFFFF = none ∧ decodeWord 0x18000000 = none

/-- R88: `nop` changes nothing apart from the program counter, and its word is 0x4800_0000. -/
def Obligations.NopChangesNothing : Prop :=
  decodeWord 0x48000000 = some .nop ∧ ∀ s : State, ∃ t, exec .nop s = .next t ∧ Passed 4 s t

/-- R42 to R45, R60: a step in which a slot issues runs the instruction that its bytes are: the one instruction of a word, the
pair of a prefix and its follower, or the trap of an illegal word, and the core's cycle counter advances. An event or
an epilogue word at the head of the agenda runs instead (log 1, log 22). -/
def Obligations.StepRunsTheDecodedInstruction : Prop :=
  (∀ (s u : State) (n : BitVec 4), Issues s n u → u.me.frame = none →
    (∀ (i : Instr) (bytes : List Byte), FetchedBytes u u.me.pc bytes → decode bytes = .ok (i, []) →
      StepAround s.focus (exec i u) (step s))
    ∧ (∀ (x : BitVec 26) (f : Word) (b1 b2 : List Byte), FetchedBytes u u.me.pc b1 → FetchedBytes u (pcPlus u.me.pc 4) b2 →
      decode (b1 ++ b2) = .ok (.ximm x f, []) → StepAround s.focus (exec (.ximm x f) u) (step s))
    ∧ ∀ (w : Word) (bytes : List Byte), FetchedBytes u u.me.pc bytes → decode bytes = .error (.illegal w) →
        StepAround s.focus (.next (u.trap 0x01 (w.setWidth 64))) (step s))
  ∧ (∀ (s : State) (i : Instr) (a : EvArg) (rest : List Turn), s.ticked.due = [] → s.agenda = .event i a :: rest →
    step s = exec i { s.ticked with agenda := rest, arg := a })
  ∧ ∀ (s t : State) (c : Coord) (i : Instr) (rest : List Turn), s.ticked.due = [] → s.agenda = .epilogue c :: rest →
      (s.cluster c).epi.ended = false → decodeEpi ((s.cluster c).epiI.get (s.cluster c).epi.pc 0xF000) = some i →
      exec i { s.ticked with agenda := rest, unit := c } = .next t →
      step s = .next (if (t.cluster c).epi.ended then t else { t with agenda := t.agenda ++ [.epilogue c] })

/-- Every step keeps the canonical form of memory, from every state that has it. The form is the model's own (log 5). -/
def Obligations.MemoryKeepsItsForm : Prop :=
  ∀ s t : State, s.mem.wf = true → step s = .next t → t.mem.wf = true

/-- What reset leaves, where the spec gives it: empty memory in its canonical form, empty mailboxes, counters at 0, +0
accumulators, empty format contexts, the reset epilogue image, the preset tables, banks 0 to 7 cache ways and 8 to 15 scratch. The
canonical form, the tags of memory and that no slot is live are the model's own (log 5, log 12), and so is the cycle counter's zero (log
6). -/
def Obligations.ResetState : Prop :=
  State.reset.mem.wf = true
  ∧ ∀ c : Coord,
      (∀ a, State.reset.mem.tag a = 0 ∧ State.reset.mem.isFull a = false ∧ State.reset.mem.ownerOf a = none)
      ∧ (∀ j : Fin 8, (((State.reset.core c).mb.get j).full = false) ∧ (State.reset.core c).tl.get j = 0
          ∧ (State.reset.core c).nextNum.get j = 1)
      ∧ (∀ j : Fin 16, (State.reset.core c).lc.get j = 0)
      ∧ (State.reset.core c).tabA = presetE4M3 ∧ (State.reset.core c).tabB = presetE5M2
      ∧ (State.reset.core c).victim = 0 ∧ (State.reset.core c).cycle = 0
      ∧ (∀ e : Nat, (State.reset.cluster c).acc.get e 0 = 0)
      ∧ (∀ j : Fin 16, ((State.reset.cluster c).ctx.get j).atype = 15 ∧ ((State.reset.cluster c).ctx.get j).btype = 15
          ∧ ((State.reset.cluster c).ctx.get j).owner = none)
      ∧ (∀ e : Nat, (State.reset.cluster c).epiI.get e 0xF000 = 0xF000 ∧ (State.reset.cluster c).epiD.get e 0 = 0)
      ∧ (State.reset.cluster c).bankmode = 0x55550000
      ∧ (∀ n : Nat, (State.reset.knot c.die n).parity = false ∧ (State.reset.knot c.die n).count = 0)
      ∧ (State.reset.slot c).wakeLatch = false ∧ (State.reset.slot c).tnan = 0x7F7F ∧ (State.reset.slot c).live = false
end

