-- ==== Sys2Proof/Laws/Memory.lean ====
section
/-! SUPPORT. Memory: reading after a write, and that every operation on memory keeps its canonical form (log 5). -/
namespace Sys2Proof.Machine

/-! ## One cell list -/

/-- The canonical form, in one clause per cell. -/
theorem cellsWf_cons (x : Nat) (y : Byte) (r : List Host.Cell) :
    cellsWf ((x, y) :: r) = true ↔ y ≠ 0 ∧ (∀ e ∈ r.head?, x < e.1) ∧ cellsWf r = true := by
  cases r with
  | nil => simp [cellsWf]
  | cons e r => obtain ⟨x', y'⟩ := e; simp [cellsWf, and_assoc]

theorem cellsWf_tail {x : Nat} {y : Byte} {r : List Host.Cell} (h : cellsWf ((x, y) :: r) = true) : cellsWf r = true :=
  ((cellsWf_cons x y r).1 h).2.2

/-- In a canonical list every later address is larger. -/
theorem cellsWf_lt {x : Nat} {y : Byte} {r : List Host.Cell} (h : cellsWf ((x, y) :: r) = true) : ∀ e ∈ r, x < e.1 := by
  induction r generalizing x y with
  | nil => simp
  | cons e r ih =>
    obtain ⟨x', y'⟩ := e
    have h1 := (cellsWf_cons _ _ _).1 h
    have h2 : x < x' := h1.2.1 (x', y') (by simp)
    intro e he
    rcases List.mem_cons.1 he with rfl | he
    · exact h2
    · exact Nat.lt_trans h2 (ih h1.2.2 e he)

/-- A list is canonical if its head is below the rest and not 0, and the rest is canonical. -/
theorem cellsWf_cons_of {x : Nat} {y : Byte} {r : List Host.Cell} (hy : y ≠ 0) (hl : ∀ e ∈ r, x < e.1)
    (hr : cellsWf r = true) : cellsWf ((x, y) :: r) = true := by
  refine (cellsWf_cons _ _ _).2 ⟨hy, ?_, hr⟩
  intro e he; exact hl e (List.mem_of_mem_head? he)

theorem mem_cellSet {l : List Host.Cell} {a : Nat} {b : Byte} {e : Host.Cell} (h : e ∈ cellSet l a b) : e.1 = a ∨ e ∈ l := by
  induction l with
  | nil => by_cases hb : b = 0#8 <;> simp_all [cellSet]
  | cons c r ih =>
    obtain ⟨x, y⟩ := c
    simp only [cellSet] at h
    split at h
    · rcases List.mem_cons.1 h with rfl | h
      · simp
      · rcases ih h with h | h <;> simp [h]
    · split at h
      · split at h <;> simp_all
        rcases h with rfl | h <;> simp_all
      · split at h <;> simp_all
        rcases h with rfl | h | h <;> simp_all

/-- A write keeps the canonical form. -/
theorem cellsWf_cellSet {l : List Host.Cell} (a : Nat) (b : Byte) (h : cellsWf l = true) : cellsWf (cellSet l a b) = true := by
  induction l with
  | nil => by_cases hb : b = 0#8 <;> simp [cellSet, hb, cellsWf]
  | cons c r ih =>
    obtain ⟨x, y⟩ := c
    have h1 := (cellsWf_cons _ _ _).1 h
    have hl := cellsWf_lt h
    simp only [cellSet]
    split
    · rename_i hx
      refine cellsWf_cons_of h1.1 (fun e he => ?_) (ih h1.2.2)
      rcases mem_cellSet he with he | he
      · omega
      · exact hl e he
    · split
      · rename_i hx
        split
        · exact h1.2.2
        · rename_i hb; exact cellsWf_cons_of hb (hx ▸ hl) h1.2.2
      · split
        · exact h
        · rename_i hb
          refine cellsWf_cons_of hb (fun e he => ?_) h
          rcases List.mem_cons.1 he with rfl | he
          · simp; omega
          · have := hl e he; omega

/-- Leaving cells out keeps the canonical form. -/
theorem cellsWf_filter {l : List Host.Cell} (p : Host.Cell → Bool) (h : cellsWf l = true) : cellsWf (l.filter p) = true := by
  induction l with
  | nil => simp [cellsWf]
  | cons c r ih =>
    obtain ⟨x, y⟩ := c
    have h1 := (cellsWf_cons _ _ _).1 h
    by_cases hp : p (x, y)
    · simp only [List.filter_cons, hp, if_true]
      exact cellsWf_cons_of h1.1 (fun e he => cellsWf_lt h e (List.mem_filter.1 he).1) (ih h1.2.2)
    · simp only [List.filter_cons, hp]
      exact ih h1.2.2

theorem cellsWf_foldl_cellSet (cs : List Host.Cell) {l : List Host.Cell} (h : cellsWf l = true) :
    cellsWf (cs.foldl (fun l c => cellSet l c.1 c.2) l) = true := by
  induction cs generalizing l with
  | nil => exact h
  | cons c r ih => exact ih (cellsWf_cellSet _ _ h)

/-- An address below every listed one reads 0. -/
theorem cellGet_eq_zero {l : List Host.Cell} {a : Nat} (h : ∀ e ∈ l, e.1 ≠ a) : cellGet l a = 0 := by
  induction l with
  | nil => rfl
  | cons c r ih =>
    obtain ⟨x, y⟩ := c
    simp only [cellGet, h (x, y) (by simp), if_false]
    exact ih fun e he => h e (by simp [he])

/-- A byte reads as it was written. -/
theorem cellGet_cellSet_self {l : List Host.Cell} (a : Nat) (b : Byte) (h : cellsWf l = true) : cellGet (cellSet l a b) a = b := by
  induction l with
  | nil => by_cases hb : b = 0#8 <;> simp [cellSet, cellGet, hb]
  | cons c r ih =>
    obtain ⟨x, y⟩ := c
    have hl := cellsWf_lt h
    simp only [cellSet]
    split
    · rename_i hx; simp only [cellGet, Nat.ne_of_lt hx, if_false]; exact ih (cellsWf_tail h)
    · split
      · rename_i h1 hx
        split
        · rename_i hb; rw [hb]; exact cellGet_eq_zero fun e he => by have := hl e he; omega
        · simp [cellGet]
      · split
        · rename_i h1 h2 hb
          rw [hb]
          refine cellGet_eq_zero fun e he => ?_
          rcases List.mem_cons.1 he with rfl | he
          · exact h2
          · have := hl e he; omega
        · simp [cellGet]

/-- A write leaves every other byte. -/
theorem cellGet_cellSet_ne {l : List Host.Cell} {a c : Nat} (b : Byte) (hc : c ≠ a) : cellGet (cellSet l a b) c = cellGet l c := by
  induction l with
  | nil => by_cases hb : b = 0#8 <;> simp [cellSet, cellGet, hb, hc.symm]
  | cons e r ih =>
    obtain ⟨x, y⟩ := e
    simp only [cellSet]
    split
    · simp only [cellGet, ih]
    · split
      · rename_i h1 hx
        subst hx
        split <;> simp [cellGet, hc.symm]
      · split
        · rfl
        · simp [cellGet, hc.symm]

/-! ## Memory -/

theorem Memory.wf_iff (m : Memory) : m.wf = true ↔ cellsWf m.cells = true ∧ cellsWf m.pcells = true := by
  simp [Memory.wf]

/-- The canonical form depends on the two cell lists alone. -/
theorem Memory.wf_of_cells {m n : Memory} (h : m.wf = true) (h1 : n.cells = m.cells) (h2 : n.pcells = m.pcells) :
    n.wf = true := by
  rw [Memory.wf_iff] at *; rw [h1, h2]; exact h

theorem Memory.reset_wf : Memory.reset.wf = true := rfl
theorem State.reset_mem_wf : State.reset.mem.wf = true := rfl

variable {m : Memory}

theorem Memory.wf_setByte (a : Nat) (b : Byte) (h : m.wf = true) : (m.setByte a b).wf = true := by
  rw [Memory.wf_iff] at h
  simp only [Memory.setByte]
  split
  · exact (Memory.wf_iff _).2 ⟨h.1, cellsWf_cellSet _ _ h.2⟩
  · exact (Memory.wf_iff _).2 ⟨cellsWf_cellSet _ _ h.1, h.2⟩

theorem Memory.wf_setTag (a : Nat) (t : BitVec 2) (h : m.wf = true) : (m.setTag a t).wf = true := by
  simp only [Memory.setTag]
  split
  · split <;> exact Memory.wf_of_cells h rfl rfl
  · exact h

theorem Memory.wf_bump (a : Nat) (h : m.wf = true) : (m.bump a).wf = true := Memory.wf_of_cells h rfl rfl
theorem Memory.wf_setFull (a : Nat) (f : Bool) (h : m.wf = true) : (m.setFull a f).wf = true := Memory.wf_of_cells h rfl rfl
theorem Memory.wf_clearFull (lo n : Nat) (h : m.wf = true) : (m.clearFull lo n).wf = true := Memory.wf_of_cells h rfl rfl
theorem Memory.wf_uncache (l : Nat) (h : m.wf = true) : (m.uncache l).wf = true := Memory.wf_of_cells h rfl rfl
theorem Memory.wf_share (l c : Nat) (h : m.wf = true) : (m.share l c).wf = true := Memory.wf_of_cells h rfl rfl
theorem Memory.wf_own (l c : Nat) (h : m.wf = true) : (m.own l c).wf = true := Memory.wf_of_cells h rfl rfl
theorem Memory.wf_modified (l : Nat) (h : m.wf = true) : (m.modified l).wf = true := by
  simp only [Memory.modified]
  split
  · exact Memory.wf_of_cells h rfl rfl
  · exact h

/-- What every step of a fold keeps, the fold keeps. -/
theorem wf_foldl {α : Type} (f : Memory → α → Memory) (hf : ∀ m a, m.wf = true → (f m a).wf = true) (l : List α)
    (h : m.wf = true) : (l.foldl f m).wf = true := by
  induction l generalizing m with
  | nil => exact h
  | cons a r ih => exact ih (hf m a h)

/-- One store event. -/
theorem Memory.wf_store (bytes : List (Nat × Byte)) (tag : BitVec 2) (h : m.wf = true) : (m.store bytes tag).wf = true :=
  wf_foldl _ (fun _ ab h => Memory.wf_bump _ (Memory.wf_setTag _ _ (Memory.wf_setByte ab.1 ab.2 h))) bytes h

theorem Memory.wf_writeBack (l : Nat) (h : m.wf = true) : (m.writeBack l).wf = true := by
  rw [Memory.wf_iff] at *
  exact ⟨cellsWf_foldl_cellSet _ (cellsWf_filter _ h.1), h.2⟩

theorem Memory.wf_dropPrivate (l : Nat) (h : m.wf = true) : (m.dropPrivate l).wf = true := by
  rw [Memory.wf_iff] at *
  exact ⟨h.1, cellsWf_filter _ h.2⟩

theorem Memory.wf_publish (l : Nat) (h : m.wf = true) : (m.publish l).wf = true := by
  simp only [Memory.publish]
  split
  · exact Memory.wf_bump _ (Memory.wf_dropPrivate _ (Memory.wf_writeBack _ h))
  · exact h

theorem Memory.wf_invalidate (l : Nat) (h : m.wf = true) : (m.invalidate l).wf = true := by
  simp only [Memory.invalidate]
  split
  · exact Memory.wf_uncache _ (Memory.wf_dropPrivate _ (Memory.wf_writeBack _ h))
  · exact Memory.wf_uncache _ h

theorem Memory.wf_zeroLine (l : Nat) (o : Option Nat) (h : m.wf = true) : (m.zeroLine l o).wf = true := by
  have h1 := (Memory.wf_iff _).1 (Memory.wf_uncache l (Memory.wf_dropPrivate l h))
  have h2 : cellsWf (dropLineCells m.cells l) = true := cellsWf_filter _ h1.1
  simp only [Memory.zeroLine]
  cases o <;> exact (Memory.wf_iff _).2 ⟨h2, h1.2⟩

theorem Memory.wf_poisonLine (l : Nat) (h : m.wf = true) : (m.poisonLine l).wf = true :=
  wf_foldl _ (fun _ _ h => Memory.wf_setTag _ _ h) _ h

theorem Memory.wf_clear (lo n : Nat) (h : m.wf = true) : (m.clear lo n).wf = true := by
  have h1 := (Memory.wf_iff _).1 h
  exact (Memory.wf_iff _).2 ⟨cellsWf_filter _ h1.1, cellsWf_filter _ h1.2⟩

theorem Memory.wf_clearUnpoisoned (lo n : Nat) (h : m.wf = true) : (m.clearUnpoisoned lo n).wf = true :=
  wf_foldl _ (fun _ _ h => Memory.wf_setTag _ _ h) _
    (wf_foldl _ (fun _ _ h => Memory.wf_setByte _ _ h) _ (Memory.wf_clear lo n h))

theorem Memory.wf_clean (l : Nat) (h : m.wf = true) : (m.clean l).wf = true := by
  unfold Memory.clean
  split
  · exact Memory.wf_of_cells (Memory.wf_writeBack _ h) rfl rfl
  · exact Memory.wf_of_cells h rfl rfl

theorem Memory.wf_deviceWrites (l : Nat) (h : m.wf = true) : (m.deviceWrites l).wf = true := by
  unfold Memory.deviceWrites
  split
  · exact Memory.wf_modified _ h
  · exact Memory.wf_uncache _ h

theorem Memory.wf_setHeaderState (a st : Nat) (h : m.wf = true) : (m.setHeaderState a st).wf = true :=
  Memory.wf_modified _ (Memory.wf_store _ _ h)

theorem Memory.wf_cohStore (c : Nat) (p : BitVec 2) (addrs : List Nat) (h : m.wf = true) : (m.cohStore c p addrs).wf = true := by
  refine wf_foldl _ (fun m l h => ?_) _ h
  split
  · exact Memory.wf_modified _ h
  · split
    · exact h
    · split
      · exact Memory.wf_own _ _ h
      · exact Memory.wf_uncache _ h

theorem Memory.wf_cohLoad (c : Nat) (p : BitVec 2) (addrs : List Nat) (h : m.wf = true) : (m.cohLoad c p addrs).wf = true := by
  refine wf_foldl _ (fun m l h => ?_) _ h
  split
  · exact h
  · split
    · exact Memory.wf_share _ _ h
    · exact h

/-- The lines of a cluster go home. -/
theorem Memory.wf_flushCluster (c : Nat) (h : m.wf = true) : (m.flushCluster c).wf = true := by
  have := wf_foldl (fun m l => Memory.writeBack m l) (fun _ _ h => Memory.wf_writeBack _ h)
    (m.owner.filterMap fun e => if e.2 = c then some e.1 else none) h
  exact Memory.wf_of_cells this rfl rfl

/-! ## One byte after one write -/

/-- A byte reads as it was written. -/
theorem Memory.byte_setByte_self (a : Nat) (b : Byte) (h : m.wf = true) : (m.setByte a b).byte a = b := by
  have h1 := (Memory.wf_iff _).1 h
  simp only [Memory.setByte]
  cases ho : m.ownerOf a with
  | some c =>
    have : ({ m with pcells := cellSet m.pcells a b } : Memory).ownerOf a = some c := ho
    simp only [Memory.byte, this]; exact cellGet_cellSet_self _ _ h1.2
  | none =>
    have : ({ m with cells := cellSet m.cells a b } : Memory).ownerOf a = none := ho
    simp only [Memory.byte, this]; exact cellGet_cellSet_self _ _ h1.1

/-- A write leaves every other byte. -/
theorem Memory.byte_setByte_ne {a c : Nat} (b : Byte) (hc : c ≠ a) : (m.setByte a b).byte c = m.byte c := by
  simp only [Memory.setByte]
  cases ho : m.ownerOf a with
  | some _ =>
    have : ({ m with pcells := cellSet m.pcells a b } : Memory).ownerOf c = m.ownerOf c := rfl
    simp only [Memory.byte, this]
    cases m.ownerOf c <;> simp [cellGet_cellSet_ne _ hc]
  | none =>
    have : ({ m with cells := cellSet m.cells a b } : Memory).ownerOf c = m.ownerOf c := rfl
    simp only [Memory.byte, this]
    cases m.ownerOf c <;> simp [cellGet_cellSet_ne _ hc]

@[simp] theorem Memory.byte_setTag (a c : Nat) (t : BitVec 2) : (m.setTag a t).byte c = m.byte c := by
  simp only [Memory.setTag]
  split
  · split <;> rfl
  · rfl

@[simp] theorem Memory.byte_bump (a c : Nat) : (m.bump a).byte c = m.byte c := rfl

/-- A store leaves every byte that it does not name. -/
theorem Memory.byte_store_ne {bytes : List (Nat × Byte)} {tag : BitVec 2} {c : Nat} (hc : ∀ e ∈ bytes, c ≠ e.1) :
    (m.store bytes tag).byte c = m.byte c := by
  unfold Memory.store
  induction bytes generalizing m with
  | nil => rfl
  | cons e r ih =>
    simp only [List.foldl_cons]
    rw [ih fun x hx => hc x (by simp [hx])]
    simp [Memory.byte_setByte_ne _ (hc e (by simp))]

end Sys2Proof.Machine
end

