-- ==== Sys2Proof/Laws/State.lean ====
section
/-! SUPPORT. The field lemmas of the state: what each named update of State and of Slot leaves alone, and what it sets. -/
namespace Sys2Proof.Machine

/-! ## Sparse tables -/

@[simp] theorem Sparse.find?_set_self {α : Type} (t : Sparse α) (k : Nat) (v : α) :
    Sparse.find? (Sparse.set t k v) k = some v := by
  induction t with
  | nil => simp [Sparse.set, Sparse.find?]
  | cons e r ih =>
    obtain ⟨k', v'⟩ := e
    simp only [Sparse.set]
    split
    · rename_i h; simp [Sparse.find?, ih, Nat.ne_of_lt h]
    · split <;> simp [Sparse.find?]

theorem Sparse.find?_set_ne {α : Type} (t : Sparse α) {k j : Nat} (v : α) (h : j ≠ k) :
    Sparse.find? (Sparse.set t k v) j = Sparse.find? t j := by
  induction t with
  | nil => simp [Sparse.set, Sparse.find?, h.symm]
  | cons e r ih =>
    obtain ⟨k', v'⟩ := e
    simp only [Sparse.set]
    split
    · simp only [Sparse.find?, ih]
    · split
      · rename_i h1 h2; subst h2; simp [Sparse.find?, h.symm]
      · simp [Sparse.find?, h.symm]

@[simp] theorem Sparse.get_set_self {α : Type} (t : Sparse α) (k : Nat) (v d : α) :
    Sparse.get (Sparse.set t k v) k d = v := by simp [Sparse.get]

theorem Sparse.get_set_ne {α : Type} (t : Sparse α) {k j : Nat} (v d : α) (h : j ≠ k) :
    Sparse.get (Sparse.set t k v) j d = Sparse.get t j d := by simp [Sparse.get, Sparse.find?_set_ne t v h]

/-! ## Coordinates -/

/-- Different places have different keys. -/
theorem Coord.key_inj {c e : Coord} (h : c.key = e.key) : c = e := by
  obtain ⟨d, cl, co, sl⟩ := c
  obtain ⟨d', cl', co', sl'⟩ := e
  simp only [Coord.key, Coord.coreKey, Coord.clusterKey] at h
  have := d.isLt; have := d'.isLt; have := cl.isLt; have := cl'.isLt
  have := co.isLt; have := co'.isLt; have := sl.isLt; have := sl'.isLt
  have h1 : sl = sl' := BitVec.eq_of_toNat_eq (by omega)
  have h2 : co = co' := BitVec.eq_of_toNat_eq (by omega)
  have h3 : cl = cl' := BitVec.eq_of_toNat_eq (by omega)
  have h4 : d = d' := BitVec.eq_of_toNat_eq (by omega)
  subst h1 h2 h3 h4; rfl

/-! ## Updates of the state -/

@[simp] theorem State.setSlot_agenda (s : State) (c : Coord) (x : Slot) : (s.setSlot c x).agenda = s.agenda := rfl
@[simp] theorem State.setSlot_focus (s : State) (c : Coord) (x : Slot) : (s.setSlot c x).focus = s.focus := rfl
@[simp] theorem State.setSlot_cur (s : State) (c : Coord) (x : Slot) : (s.setSlot c x).cur = s.cur := rfl
@[simp] theorem State.setSlot_arg (s : State) (c : Coord) (x : Slot) : (s.setSlot c x).arg = s.arg := rfl
@[simp] theorem State.setSlot_unit (s : State) (c : Coord) (x : Slot) : (s.setSlot c x).unit = s.unit := rfl
@[simp] theorem State.setSlot_steps (s : State) (c : Coord) (x : Slot) : (s.setSlot c x).steps = s.steps := rfl
@[simp] theorem State.setSlot_fresh (s : State) (c : Coord) (x : Slot) : (s.setSlot c x).fresh = s.fresh := rfl
@[simp] theorem State.setSlot_clock (s : State) (c : Coord) (x : Slot) : (s.setSlot c x).clock = s.clock := rfl
@[simp] theorem State.setSlot_mem (s : State) (c : Coord) (x : Slot) : (s.setSlot c x).mem = s.mem := rfl
@[simp] theorem State.setSlot_port (s : State) (c : Coord) (x : Slot) : (s.setSlot c x).port = s.port := rfl
@[simp] theorem State.setSlot_feq (s : State) (c : Coord) (x : Slot) : (s.setSlot c x).feq = s.feq := rfl
@[simp] theorem State.setSlot_tcache (s : State) (c : Coord) (x : Slot) : (s.setSlot c x).tcache = s.tcache := rfl
@[simp] theorem State.setSlot_msgs (s : State) (c : Coord) (x : Slot) : (s.setSlot c x).msgs = s.msgs := rfl
@[simp] theorem State.setSlot_msgNum (s : State) (c : Coord) (x : Slot) : (s.setSlot c x).msgNum = s.msgNum := rfl
@[simp] theorem State.setSlot_loose (s : State) (c : Coord) (x : Slot) : (s.setSlot c x).loose = s.loose := rfl
@[simp] theorem State.setSlot_heldPeers (s : State) (c : Coord) (x : Slot) : (s.setSlot c x).heldPeers = s.heldPeers := rfl
@[simp] theorem State.setSlot_out (s : State) (c : Coord) (x : Slot) : (s.setSlot c x).out = s.out := rfl
@[simp] theorem State.setSlot_cores (s : State) (c : Coord) (x : Slot) : (s.setSlot c x).cores = s.cores := rfl
@[simp] theorem State.setSlot_clusters (s : State) (c : Coord) (x : Slot) : (s.setSlot c x).clusters = s.clusters := rfl
@[simp] theorem State.setSlot_dies (s : State) (c : Coord) (x : Slot) : (s.setSlot c x).dies = s.dies := rfl
@[simp] theorem State.setSlot_vfs (s : State) (c : Coord) (x : Slot) : (s.setSlot c x).vfs = s.vfs := rfl
@[simp] theorem State.setSlot_dev (s : State) (c : Coord) (x : Slot) : (s.setSlot c x).dev = s.dev := rfl

@[simp] theorem State.setCore_agenda (s : State) (c : Coord) (x : Core) : (s.setCore c x).agenda = s.agenda := rfl
@[simp] theorem State.setCore_focus (s : State) (c : Coord) (x : Core) : (s.setCore c x).focus = s.focus := rfl
@[simp] theorem State.setCore_cur (s : State) (c : Coord) (x : Core) : (s.setCore c x).cur = s.cur := rfl
@[simp] theorem State.setCore_arg (s : State) (c : Coord) (x : Core) : (s.setCore c x).arg = s.arg := rfl
@[simp] theorem State.setCore_unit (s : State) (c : Coord) (x : Core) : (s.setCore c x).unit = s.unit := rfl
@[simp] theorem State.setCore_steps (s : State) (c : Coord) (x : Core) : (s.setCore c x).steps = s.steps := rfl
@[simp] theorem State.setCore_fresh (s : State) (c : Coord) (x : Core) : (s.setCore c x).fresh = s.fresh := rfl
@[simp] theorem State.setCore_clock (s : State) (c : Coord) (x : Core) : (s.setCore c x).clock = s.clock := rfl
@[simp] theorem State.setCore_mem (s : State) (c : Coord) (x : Core) : (s.setCore c x).mem = s.mem := rfl
@[simp] theorem State.setCore_port (s : State) (c : Coord) (x : Core) : (s.setCore c x).port = s.port := rfl
@[simp] theorem State.setCore_feq (s : State) (c : Coord) (x : Core) : (s.setCore c x).feq = s.feq := rfl
@[simp] theorem State.setCore_tcache (s : State) (c : Coord) (x : Core) : (s.setCore c x).tcache = s.tcache := rfl
@[simp] theorem State.setCore_msgs (s : State) (c : Coord) (x : Core) : (s.setCore c x).msgs = s.msgs := rfl
@[simp] theorem State.setCore_msgNum (s : State) (c : Coord) (x : Core) : (s.setCore c x).msgNum = s.msgNum := rfl
@[simp] theorem State.setCore_loose (s : State) (c : Coord) (x : Core) : (s.setCore c x).loose = s.loose := rfl
@[simp] theorem State.setCore_heldPeers (s : State) (c : Coord) (x : Core) : (s.setCore c x).heldPeers = s.heldPeers := rfl
@[simp] theorem State.setCore_out (s : State) (c : Coord) (x : Core) : (s.setCore c x).out = s.out := rfl
@[simp] theorem State.setCore_slots (s : State) (c : Coord) (x : Core) : (s.setCore c x).slots = s.slots := rfl
@[simp] theorem State.setCore_clusters (s : State) (c : Coord) (x : Core) : (s.setCore c x).clusters = s.clusters := rfl
@[simp] theorem State.setCore_dies (s : State) (c : Coord) (x : Core) : (s.setCore c x).dies = s.dies := rfl
@[simp] theorem State.setCore_vfs (s : State) (c : Coord) (x : Core) : (s.setCore c x).vfs = s.vfs := rfl
@[simp] theorem State.setCore_dev (s : State) (c : Coord) (x : Core) : (s.setCore c x).dev = s.dev := rfl

@[simp] theorem State.setCluster_agenda (s : State) (c : Coord) (x : Cluster) : (s.setCluster c x).agenda = s.agenda := rfl
@[simp] theorem State.setCluster_focus (s : State) (c : Coord) (x : Cluster) : (s.setCluster c x).focus = s.focus := rfl
@[simp] theorem State.setCluster_cur (s : State) (c : Coord) (x : Cluster) : (s.setCluster c x).cur = s.cur := rfl
@[simp] theorem State.setCluster_arg (s : State) (c : Coord) (x : Cluster) : (s.setCluster c x).arg = s.arg := rfl
@[simp] theorem State.setCluster_unit (s : State) (c : Coord) (x : Cluster) : (s.setCluster c x).unit = s.unit := rfl
@[simp] theorem State.setCluster_steps (s : State) (c : Coord) (x : Cluster) : (s.setCluster c x).steps = s.steps := rfl
@[simp] theorem State.setCluster_fresh (s : State) (c : Coord) (x : Cluster) : (s.setCluster c x).fresh = s.fresh := rfl
@[simp] theorem State.setCluster_clock (s : State) (c : Coord) (x : Cluster) : (s.setCluster c x).clock = s.clock := rfl
@[simp] theorem State.setCluster_mem (s : State) (c : Coord) (x : Cluster) : (s.setCluster c x).mem = s.mem := rfl
@[simp] theorem State.setCluster_port (s : State) (c : Coord) (x : Cluster) : (s.setCluster c x).port = s.port := rfl
@[simp] theorem State.setCluster_feq (s : State) (c : Coord) (x : Cluster) : (s.setCluster c x).feq = s.feq := rfl
@[simp] theorem State.setCluster_tcache (s : State) (c : Coord) (x : Cluster) : (s.setCluster c x).tcache = s.tcache := rfl
@[simp] theorem State.setCluster_msgs (s : State) (c : Coord) (x : Cluster) : (s.setCluster c x).msgs = s.msgs := rfl
@[simp] theorem State.setCluster_msgNum (s : State) (c : Coord) (x : Cluster) : (s.setCluster c x).msgNum = s.msgNum := rfl
@[simp] theorem State.setCluster_loose (s : State) (c : Coord) (x : Cluster) : (s.setCluster c x).loose = s.loose := rfl
@[simp] theorem State.setCluster_heldPeers (s : State) (c : Coord) (x : Cluster) : (s.setCluster c x).heldPeers = s.heldPeers := rfl
@[simp] theorem State.setCluster_out (s : State) (c : Coord) (x : Cluster) : (s.setCluster c x).out = s.out := rfl
@[simp] theorem State.setCluster_slots (s : State) (c : Coord) (x : Cluster) : (s.setCluster c x).slots = s.slots := rfl
@[simp] theorem State.setCluster_cores (s : State) (c : Coord) (x : Cluster) : (s.setCluster c x).cores = s.cores := rfl
@[simp] theorem State.setCluster_dies (s : State) (c : Coord) (x : Cluster) : (s.setCluster c x).dies = s.dies := rfl
@[simp] theorem State.setCluster_vfs (s : State) (c : Coord) (x : Cluster) : (s.setCluster c x).vfs = s.vfs := rfl
@[simp] theorem State.setCluster_dev (s : State) (c : Coord) (x : Cluster) : (s.setCluster c x).dev = s.dev := rfl

@[simp] theorem State.setDie_agenda (s : State) (d : BitVec 3) (x : Die) : (s.setDie d x).agenda = s.agenda := rfl
@[simp] theorem State.setDie_focus (s : State) (d : BitVec 3) (x : Die) : (s.setDie d x).focus = s.focus := rfl
@[simp] theorem State.setDie_cur (s : State) (d : BitVec 3) (x : Die) : (s.setDie d x).cur = s.cur := rfl
@[simp] theorem State.setDie_arg (s : State) (d : BitVec 3) (x : Die) : (s.setDie d x).arg = s.arg := rfl
@[simp] theorem State.setDie_unit (s : State) (d : BitVec 3) (x : Die) : (s.setDie d x).unit = s.unit := rfl
@[simp] theorem State.setDie_steps (s : State) (d : BitVec 3) (x : Die) : (s.setDie d x).steps = s.steps := rfl
@[simp] theorem State.setDie_fresh (s : State) (d : BitVec 3) (x : Die) : (s.setDie d x).fresh = s.fresh := rfl
@[simp] theorem State.setDie_clock (s : State) (d : BitVec 3) (x : Die) : (s.setDie d x).clock = s.clock := rfl
@[simp] theorem State.setDie_mem (s : State) (d : BitVec 3) (x : Die) : (s.setDie d x).mem = s.mem := rfl
@[simp] theorem State.setDie_port (s : State) (d : BitVec 3) (x : Die) : (s.setDie d x).port = s.port := rfl
@[simp] theorem State.setDie_feq (s : State) (d : BitVec 3) (x : Die) : (s.setDie d x).feq = s.feq := rfl
@[simp] theorem State.setDie_tcache (s : State) (d : BitVec 3) (x : Die) : (s.setDie d x).tcache = s.tcache := rfl
@[simp] theorem State.setDie_msgs (s : State) (d : BitVec 3) (x : Die) : (s.setDie d x).msgs = s.msgs := rfl
@[simp] theorem State.setDie_msgNum (s : State) (d : BitVec 3) (x : Die) : (s.setDie d x).msgNum = s.msgNum := rfl
@[simp] theorem State.setDie_loose (s : State) (d : BitVec 3) (x : Die) : (s.setDie d x).loose = s.loose := rfl
@[simp] theorem State.setDie_heldPeers (s : State) (d : BitVec 3) (x : Die) : (s.setDie d x).heldPeers = s.heldPeers := rfl
@[simp] theorem State.setDie_out (s : State) (d : BitVec 3) (x : Die) : (s.setDie d x).out = s.out := rfl
@[simp] theorem State.setDie_slots (s : State) (d : BitVec 3) (x : Die) : (s.setDie d x).slots = s.slots := rfl
@[simp] theorem State.setDie_cores (s : State) (d : BitVec 3) (x : Die) : (s.setDie d x).cores = s.cores := rfl
@[simp] theorem State.setDie_clusters (s : State) (d : BitVec 3) (x : Die) : (s.setDie d x).clusters = s.clusters := rfl
@[simp] theorem State.setDie_vfs (s : State) (d : BitVec 3) (x : Die) : (s.setDie d x).vfs = s.vfs := rfl
@[simp] theorem State.setDie_dev (s : State) (d : BitVec 3) (x : Die) : (s.setDie d x).dev = s.dev := rfl

@[simp] theorem State.setVf_agenda (s : State) (v : Nat) (x : Vf) : (s.setVf v x).agenda = s.agenda := rfl
@[simp] theorem State.setVf_focus (s : State) (v : Nat) (x : Vf) : (s.setVf v x).focus = s.focus := rfl
@[simp] theorem State.setVf_cur (s : State) (v : Nat) (x : Vf) : (s.setVf v x).cur = s.cur := rfl
@[simp] theorem State.setVf_arg (s : State) (v : Nat) (x : Vf) : (s.setVf v x).arg = s.arg := rfl
@[simp] theorem State.setVf_unit (s : State) (v : Nat) (x : Vf) : (s.setVf v x).unit = s.unit := rfl
@[simp] theorem State.setVf_steps (s : State) (v : Nat) (x : Vf) : (s.setVf v x).steps = s.steps := rfl
@[simp] theorem State.setVf_fresh (s : State) (v : Nat) (x : Vf) : (s.setVf v x).fresh = s.fresh := rfl
@[simp] theorem State.setVf_clock (s : State) (v : Nat) (x : Vf) : (s.setVf v x).clock = s.clock := rfl
@[simp] theorem State.setVf_mem (s : State) (v : Nat) (x : Vf) : (s.setVf v x).mem = s.mem := rfl
@[simp] theorem State.setVf_port (s : State) (v : Nat) (x : Vf) : (s.setVf v x).port = s.port := rfl
@[simp] theorem State.setVf_feq (s : State) (v : Nat) (x : Vf) : (s.setVf v x).feq = s.feq := rfl
@[simp] theorem State.setVf_tcache (s : State) (v : Nat) (x : Vf) : (s.setVf v x).tcache = s.tcache := rfl
@[simp] theorem State.setVf_msgs (s : State) (v : Nat) (x : Vf) : (s.setVf v x).msgs = s.msgs := rfl
@[simp] theorem State.setVf_msgNum (s : State) (v : Nat) (x : Vf) : (s.setVf v x).msgNum = s.msgNum := rfl
@[simp] theorem State.setVf_loose (s : State) (v : Nat) (x : Vf) : (s.setVf v x).loose = s.loose := rfl
@[simp] theorem State.setVf_heldPeers (s : State) (v : Nat) (x : Vf) : (s.setVf v x).heldPeers = s.heldPeers := rfl
@[simp] theorem State.setVf_out (s : State) (v : Nat) (x : Vf) : (s.setVf v x).out = s.out := rfl
@[simp] theorem State.setVf_slots (s : State) (v : Nat) (x : Vf) : (s.setVf v x).slots = s.slots := rfl
@[simp] theorem State.setVf_cores (s : State) (v : Nat) (x : Vf) : (s.setVf v x).cores = s.cores := rfl
@[simp] theorem State.setVf_clusters (s : State) (v : Nat) (x : Vf) : (s.setVf v x).clusters = s.clusters := rfl
@[simp] theorem State.setVf_dies (s : State) (v : Nat) (x : Vf) : (s.setVf v x).dies = s.dies := rfl
@[simp] theorem State.setVf_dev (s : State) (v : Nat) (x : Vf) : (s.setVf v x).dev = s.dev := rfl

@[simp] theorem State.later_focus (s : State) (i : Instr) (a : EvArg) : (s.later i a).focus = s.focus := rfl
@[simp] theorem State.later_cur (s : State) (i : Instr) (a : EvArg) : (s.later i a).cur = s.cur := rfl
@[simp] theorem State.later_arg (s : State) (i : Instr) (a : EvArg) : (s.later i a).arg = s.arg := rfl
@[simp] theorem State.later_unit (s : State) (i : Instr) (a : EvArg) : (s.later i a).unit = s.unit := rfl
@[simp] theorem State.later_steps (s : State) (i : Instr) (a : EvArg) : (s.later i a).steps = s.steps := rfl
@[simp] theorem State.later_fresh (s : State) (i : Instr) (a : EvArg) : (s.later i a).fresh = s.fresh := rfl
@[simp] theorem State.later_clock (s : State) (i : Instr) (a : EvArg) : (s.later i a).clock = s.clock := rfl
@[simp] theorem State.later_mem (s : State) (i : Instr) (a : EvArg) : (s.later i a).mem = s.mem := rfl
@[simp] theorem State.later_port (s : State) (i : Instr) (a : EvArg) : (s.later i a).port = s.port := rfl
@[simp] theorem State.later_feq (s : State) (i : Instr) (a : EvArg) : (s.later i a).feq = s.feq := rfl
@[simp] theorem State.later_tcache (s : State) (i : Instr) (a : EvArg) : (s.later i a).tcache = s.tcache := rfl
@[simp] theorem State.later_msgs (s : State) (i : Instr) (a : EvArg) : (s.later i a).msgs = s.msgs := rfl
@[simp] theorem State.later_msgNum (s : State) (i : Instr) (a : EvArg) : (s.later i a).msgNum = s.msgNum := rfl
@[simp] theorem State.later_loose (s : State) (i : Instr) (a : EvArg) : (s.later i a).loose = s.loose := rfl
@[simp] theorem State.later_heldPeers (s : State) (i : Instr) (a : EvArg) : (s.later i a).heldPeers = s.heldPeers := rfl
@[simp] theorem State.later_out (s : State) (i : Instr) (a : EvArg) : (s.later i a).out = s.out := rfl
@[simp] theorem State.later_slots (s : State) (i : Instr) (a : EvArg) : (s.later i a).slots = s.slots := rfl
@[simp] theorem State.later_cores (s : State) (i : Instr) (a : EvArg) : (s.later i a).cores = s.cores := rfl
@[simp] theorem State.later_clusters (s : State) (i : Instr) (a : EvArg) : (s.later i a).clusters = s.clusters := rfl
@[simp] theorem State.later_dies (s : State) (i : Instr) (a : EvArg) : (s.later i a).dies = s.dies := rfl
@[simp] theorem State.later_vfs (s : State) (i : Instr) (a : EvArg) : (s.later i a).vfs = s.vfs := rfl
@[simp] theorem State.later_dev (s : State) (i : Instr) (a : EvArg) : (s.later i a).dev = s.dev := rfl

@[simp] theorem State.laters_focus (s : State) (l : List (Instr × EvArg)) : (s.laters l).focus = s.focus := rfl
@[simp] theorem State.laters_cur (s : State) (l : List (Instr × EvArg)) : (s.laters l).cur = s.cur := rfl
@[simp] theorem State.laters_arg (s : State) (l : List (Instr × EvArg)) : (s.laters l).arg = s.arg := rfl
@[simp] theorem State.laters_unit (s : State) (l : List (Instr × EvArg)) : (s.laters l).unit = s.unit := rfl
@[simp] theorem State.laters_steps (s : State) (l : List (Instr × EvArg)) : (s.laters l).steps = s.steps := rfl
@[simp] theorem State.laters_fresh (s : State) (l : List (Instr × EvArg)) : (s.laters l).fresh = s.fresh := rfl
@[simp] theorem State.laters_clock (s : State) (l : List (Instr × EvArg)) : (s.laters l).clock = s.clock := rfl
@[simp] theorem State.laters_mem (s : State) (l : List (Instr × EvArg)) : (s.laters l).mem = s.mem := rfl
@[simp] theorem State.laters_port (s : State) (l : List (Instr × EvArg)) : (s.laters l).port = s.port := rfl
@[simp] theorem State.laters_feq (s : State) (l : List (Instr × EvArg)) : (s.laters l).feq = s.feq := rfl
@[simp] theorem State.laters_tcache (s : State) (l : List (Instr × EvArg)) : (s.laters l).tcache = s.tcache := rfl
@[simp] theorem State.laters_msgs (s : State) (l : List (Instr × EvArg)) : (s.laters l).msgs = s.msgs := rfl
@[simp] theorem State.laters_msgNum (s : State) (l : List (Instr × EvArg)) : (s.laters l).msgNum = s.msgNum := rfl
@[simp] theorem State.laters_loose (s : State) (l : List (Instr × EvArg)) : (s.laters l).loose = s.loose := rfl
@[simp] theorem State.laters_heldPeers (s : State) (l : List (Instr × EvArg)) : (s.laters l).heldPeers = s.heldPeers := rfl
@[simp] theorem State.laters_out (s : State) (l : List (Instr × EvArg)) : (s.laters l).out = s.out := rfl
@[simp] theorem State.laters_slots (s : State) (l : List (Instr × EvArg)) : (s.laters l).slots = s.slots := rfl
@[simp] theorem State.laters_cores (s : State) (l : List (Instr × EvArg)) : (s.laters l).cores = s.cores := rfl
@[simp] theorem State.laters_clusters (s : State) (l : List (Instr × EvArg)) : (s.laters l).clusters = s.clusters := rfl
@[simp] theorem State.laters_dies (s : State) (l : List (Instr × EvArg)) : (s.laters l).dies = s.dies := rfl
@[simp] theorem State.laters_vfs (s : State) (l : List (Instr × EvArg)) : (s.laters l).vfs = s.vfs := rfl
@[simp] theorem State.laters_dev (s : State) (l : List (Instr × EvArg)) : (s.laters l).dev = s.dev := rfl

@[simp] theorem State.modSlot_eq (s : State) (c : Coord) (f : Slot → Slot) : s.modSlot c f = s.setSlot c (f (s.slot c)) := rfl
@[simp] theorem State.modCore_eq (s : State) (c : Coord) (f : Core → Core) : s.modCore c f = s.setCore c (f (s.core c)) := rfl
@[simp] theorem State.modCluster_eq (s : State) (c : Coord) (f : Cluster → Cluster) : s.modCluster c f = s.setCluster c (f (s.cluster c)) := rfl
@[simp] theorem State.modDie_eq (s : State) (c : BitVec 3) (f : Die → Die) : s.modDie c f = s.setDie c (f (s.die c)) := rfl
@[simp] theorem State.modVf_eq (s : State) (c : Nat) (f : Vf → Vf) : s.modVf c f = s.setVf c (f (s.vf c)) := rfl
@[simp] theorem State.modMe_eq (s : State) (f : Slot → Slot) : s.modMe f = s.setSlot s.cur (f s.me) := rfl
@[simp] theorem State.wg_eq (s : State) (r : BitVec 5) (v : Dword) : s.wg r v = s.setSlot s.cur (s.me.wg r v) := rfl
@[simp] theorem State.wk_eq (s : State) (r : BitVec 3) (v : Dword) : s.wk r v = s.setSlot s.cur (s.me.wk r v) := rfl
@[simp] theorem State.wv_eq (s : State) (r : BitVec 5) (v : VReg) : s.wv r v = s.setSlot s.cur (s.me.wv r v) := rfl
@[simp] theorem State.advance_eq (s : State) (n : Nat) : s.advance n = s.setSlot s.cur (s.me.done n) := rfl

@[simp] theorem State.slot_setSlot_self (s : State) (c : Coord) (x : Slot) : (s.setSlot c x).slot c = x := by
  simp [State.slot, State.setSlot]
theorem State.slot_setSlot_ne (s : State) {c e : Coord} (x : Slot) (h : e ≠ c) : (s.setSlot c x).slot e = s.slot e := by
  simp only [State.slot, State.setSlot]
  exact Sparse.get_set_ne _ _ _ fun k => h (Coord.key_inj k)
@[simp] theorem State.me_setSlot_cur (s : State) (x : Slot) : (s.setSlot s.cur x).me = x := by
  simp [State.me]
@[simp] theorem Sparse.set_set {α : Type} (t : Sparse α) (k : Nat) (v w : α) :
    Sparse.set (Sparse.set t k v) k w = Sparse.set t k w := by
  induction t with
  | nil => simp [Sparse.set]
  | cons e r ih =>
    obtain ⟨k', v'⟩ := e
    simp only [Sparse.set]
    split
    · rename_i h; simp [Sparse.set, h, ih]
    · split
      · simp [Sparse.set]
      · simp [Sparse.set]
@[simp] theorem State.setSlot_setSlot (s : State) (c : Coord) (x y : Slot) : (s.setSlot c x).setSlot c y = s.setSlot c y := by
  simp [State.setSlot]

@[simp] theorem State.core_setSlot (s : State) (e : Coord) (x : Slot) (c : Coord) : (s.setSlot e x).core c = s.core c := rfl
@[simp] theorem State.cluster_setSlot (s : State) (e : Coord) (x : Slot) (c : Coord) : (s.setSlot e x).cluster c = s.cluster c := rfl
@[simp] theorem State.die_setSlot (s : State) (e : Coord) (x : Slot) (c : BitVec 3) : (s.setSlot e x).die c = s.die c := rfl
@[simp] theorem State.vf_setSlot (s : State) (e : Coord) (x : Slot) (c : Nat) : (s.setSlot e x).vf c = s.vf c := rfl

@[simp] theorem State.slot_setCore (s : State) (e : Coord) (x : Core) (c : Coord) : (s.setCore e x).slot c = s.slot c := rfl
@[simp] theorem State.cluster_setCore (s : State) (e : Coord) (x : Core) (c : Coord) : (s.setCore e x).cluster c = s.cluster c := rfl
@[simp] theorem State.die_setCore (s : State) (e : Coord) (x : Core) (c : BitVec 3) : (s.setCore e x).die c = s.die c := rfl
@[simp] theorem State.vf_setCore (s : State) (e : Coord) (x : Core) (c : Nat) : (s.setCore e x).vf c = s.vf c := rfl
@[simp] theorem State.me_setCore (s : State) (e : Coord) (x : Core) : (s.setCore e x).me = s.me := rfl

@[simp] theorem State.slot_setCluster (s : State) (e : Coord) (x : Cluster) (c : Coord) : (s.setCluster e x).slot c = s.slot c := rfl
@[simp] theorem State.core_setCluster (s : State) (e : Coord) (x : Cluster) (c : Coord) : (s.setCluster e x).core c = s.core c := rfl
@[simp] theorem State.die_setCluster (s : State) (e : Coord) (x : Cluster) (c : BitVec 3) : (s.setCluster e x).die c = s.die c := rfl
@[simp] theorem State.vf_setCluster (s : State) (e : Coord) (x : Cluster) (c : Nat) : (s.setCluster e x).vf c = s.vf c := rfl
@[simp] theorem State.me_setCluster (s : State) (e : Coord) (x : Cluster) : (s.setCluster e x).me = s.me := rfl

@[simp] theorem State.slot_setDie (s : State) (e : BitVec 3) (x : Die) (c : Coord) : (s.setDie e x).slot c = s.slot c := rfl
@[simp] theorem State.core_setDie (s : State) (e : BitVec 3) (x : Die) (c : Coord) : (s.setDie e x).core c = s.core c := rfl
@[simp] theorem State.cluster_setDie (s : State) (e : BitVec 3) (x : Die) (c : Coord) : (s.setDie e x).cluster c = s.cluster c := rfl
@[simp] theorem State.vf_setDie (s : State) (e : BitVec 3) (x : Die) (c : Nat) : (s.setDie e x).vf c = s.vf c := rfl
@[simp] theorem State.me_setDie (s : State) (e : BitVec 3) (x : Die) : (s.setDie e x).me = s.me := rfl

@[simp] theorem State.slot_setVf (s : State) (v : Nat) (x : Vf) (c : Coord) : (s.setVf v x).slot c = s.slot c := rfl
@[simp] theorem State.core_setVf (s : State) (v : Nat) (x : Vf) (c : Coord) : (s.setVf v x).core c = s.core c := rfl
@[simp] theorem State.cluster_setVf (s : State) (v : Nat) (x : Vf) (c : Coord) : (s.setVf v x).cluster c = s.cluster c := rfl
@[simp] theorem State.die_setVf (s : State) (v : Nat) (x : Vf) (c : BitVec 3) : (s.setVf v x).die c = s.die c := rfl
@[simp] theorem State.me_setVf (s : State) (v : Nat) (x : Vf) : (s.setVf v x).me = s.me := rfl

@[simp] theorem State.slot_later (s : State) (i : Instr) (a : EvArg) (c : Coord) : (s.later i a).slot c = s.slot c := rfl
@[simp] theorem State.core_later (s : State) (i : Instr) (a : EvArg) (c : Coord) : (s.later i a).core c = s.core c := rfl
@[simp] theorem State.cluster_later (s : State) (i : Instr) (a : EvArg) (c : Coord) : (s.later i a).cluster c = s.cluster c := rfl
@[simp] theorem State.die_later (s : State) (i : Instr) (a : EvArg) (c : BitVec 3) : (s.later i a).die c = s.die c := rfl
@[simp] theorem State.vf_later (s : State) (i : Instr) (a : EvArg) (c : Nat) : (s.later i a).vf c = s.vf c := rfl
@[simp] theorem State.me_later (s : State) (i : Instr) (a : EvArg) : (s.later i a).me = s.me := rfl

@[simp] theorem State.slot_laters (s : State) (l : List (Instr × EvArg)) (c : Coord) : (s.laters l).slot c = s.slot c := rfl
@[simp] theorem State.core_laters (s : State) (l : List (Instr × EvArg)) (c : Coord) : (s.laters l).core c = s.core c := rfl
@[simp] theorem State.cluster_laters (s : State) (l : List (Instr × EvArg)) (c : Coord) : (s.laters l).cluster c = s.cluster c := rfl
@[simp] theorem State.die_laters (s : State) (l : List (Instr × EvArg)) (c : BitVec 3) : (s.laters l).die c = s.die c := rfl
@[simp] theorem State.vf_laters (s : State) (l : List (Instr × EvArg)) (c : Nat) : (s.laters l).vf c = s.vf c := rfl
@[simp] theorem State.me_laters (s : State) (l : List (Instr × EvArg)) : (s.laters l).me = s.me := rfl

@[simp] theorem State.core_setCore_self (s : State) (c : Coord) (x : Core) : (s.setCore c x).core c = x := by
  simp [State.core, State.setCore]
@[simp] theorem State.cluster_setCluster_self (s : State) (c : Coord) (x : Cluster) : (s.setCluster c x).cluster c = x := by
  simp [State.cluster, State.setCluster]
@[simp] theorem State.die_setDie_self (s : State) (d : BitVec 3) (x : Die) : (s.setDie d x).die d = x := by
  simp [State.die, State.setDie]
@[simp] theorem State.vf_setVf_self (s : State) (v : Nat) (x : Vf) : (s.setVf v x).vf v = x := by
  simp [State.vf, State.setVf]
theorem State.die_setDie_ne (s : State) {d e : BitVec 3} (x : Die) (h : e ≠ d) : (s.setDie d x).die e = s.die e := by
  simp only [State.die, State.setDie]
  exact Sparse.get_set_ne _ _ _ fun k => h (BitVec.eq_of_toNat_eq k)
theorem State.vf_setVf_ne (s : State) {v e : Nat} (x : Vf) (h : e ≠ v) : (s.setVf v x).vf e = s.vf e := by
  simp only [State.vf, State.setVf]
  exact Sparse.get_set_ne _ _ _ h

/-! ## Registers of a slot -/

@[simp] theorem Slot.wg_live (x : Slot) (r : BitVec 5) (v : Dword) : (x.wg r v).live = x.live := by
  unfold Slot.wg; split <;> rfl
@[simp] theorem Slot.wg_fw (x : Slot) (r : BitVec 5) (v : Dword) : (x.wg r v).fw = x.fw := by
  unfold Slot.wg; split <;> rfl
@[simp] theorem Slot.wg_vf (x : Slot) (r : BitVec 5) (v : Dword) : (x.wg r v).vf = x.vf := by
  unfold Slot.wg; split <;> rfl
@[simp] theorem Slot.wg_pc (x : Slot) (r : BitVec 5) (v : Dword) : (x.wg r v).pc = x.pc := by
  unfold Slot.wg; split <;> rfl
@[simp] theorem Slot.wg_v (x : Slot) (r : BitVec 5) (v : Dword) : (x.wg r v).v = x.v := by
  unfold Slot.wg; split <;> rfl
@[simp] theorem Slot.wg_k (x : Slot) (r : BitVec 5) (v : Dword) : (x.wg r v).k = x.k := by
  unfold Slot.wg; split <;> rfl
@[simp] theorem Slot.wg_sg (x : Slot) (r : BitVec 5) (v : Dword) : (x.wg r v).sg = x.sg := by
  unfold Slot.wg; split <;> rfl
@[simp] theorem Slot.wg_frame (x : Slot) (r : BitVec 5) (v : Dword) : (x.wg r v).frame = x.frame := by
  unfold Slot.wg; split <;> rfl
@[simp] theorem Slot.wg_hold (x : Slot) (r : BitVec 5) (v : Dword) : (x.wg r v).hold = x.hold := by
  unfold Slot.wg; split <;> rfl
@[simp] theorem Slot.wg_lastIssue (x : Slot) (r : BitVec 5) (v : Dword) : (x.wg r v).lastIssue = x.lastIssue := by
  unfold Slot.wg; split <;> rfl
@[simp] theorem Slot.wg_status (x : Slot) (r : BitVec 5) (v : Dword) : (x.wg r v).status = x.status := by
  unfold Slot.wg; split <;> rfl
@[simp] theorem Slot.wg_strand (x : Slot) (r : BitVec 5) (v : Dword) : (x.wg r v).strand = x.strand := by
  unfold Slot.wg; split <;> rfl
@[simp] theorem Slot.wg_cls (x : Slot) (r : BitVec 5) (v : Dword) : (x.wg r v).cls = x.cls := by
  unfold Slot.wg; split <;> rfl
@[simp] theorem Slot.wg_cause (x : Slot) (r : BitVec 5) (v : Dword) : (x.wg r v).cause = x.cause := by
  unfold Slot.wg; split <;> rfl
@[simp] theorem Slot.wg_epc (x : Slot) (r : BitVec 5) (v : Dword) : (x.wg r v).epc = x.epc := by
  unfold Slot.wg; split <;> rfl
@[simp] theorem Slot.wg_tval (x : Slot) (r : BitVec 5) (v : Dword) : (x.wg r v).tval = x.tval := by
  unfold Slot.wg; split <;> rfl
@[simp] theorem Slot.wg_tvec (x : Slot) (r : BitVec 5) (v : Dword) : (x.wg r v).tvec = x.tvec := by
  unfold Slot.wg; split <;> rfl
@[simp] theorem Slot.wg_crew (x : Slot) (r : BitVec 5) (v : Dword) : (x.wg r v).crew = x.crew := by
  unfold Slot.wg; split <;> rfl
@[simp] theorem Slot.wg_qown (x : Slot) (r : BitVec 5) (v : Dword) : (x.wg r v).qown = x.qown := by
  unfold Slot.wg; split <;> rfl
@[simp] theorem Slot.wg_nfsw (x : Slot) (r : BitVec 5) (v : Dword) : (x.wg r v).nfsw = x.nfsw := by
  unfold Slot.wg; split <;> rfl
@[simp] theorem Slot.wg_posted (x : Slot) (r : BitVec 5) (v : Dword) : (x.wg r v).posted = x.posted := by
  unfold Slot.wg; split <;> rfl
@[simp] theorem Slot.wg_tnan (x : Slot) (r : BitVec 5) (v : Dword) : (x.wg r v).tnan = x.tnan := by
  unfold Slot.wg; split <;> rfl
@[simp] theorem Slot.wg_stag (x : Slot) (r : BitVec 5) (v : Dword) : (x.wg r v).stag = x.stag := by
  unfold Slot.wg; split <;> rfl
@[simp] theorem Slot.wg_mbsrc (x : Slot) (r : BitVec 5) (v : Dword) : (x.wg r v).mbsrc = x.mbsrc := by
  unfold Slot.wg; split <;> rfl
@[simp] theorem Slot.wg_shsrc (x : Slot) (r : BitVec 5) (v : Dword) : (x.wg r v).shsrc = x.shsrc := by
  unfold Slot.wg; split <;> rfl
@[simp] theorem Slot.wg_rfault (x : Slot) (r : BitVec 5) (v : Dword) : (x.wg r v).rfault = x.rfault := by
  unfold Slot.wg; split <;> rfl
@[simp] theorem Slot.wg_rfptr (x : Slot) (r : BitVec 5) (v : Dword) : (x.wg r v).rfptr = x.rfptr := by
  unfold Slot.wg; split <;> rfl
@[simp] theorem Slot.wg_escv (x : Slot) (r : BitVec 5) (v : Dword) : (x.wg r v).escv = x.escv := by
  unfold Slot.wg; split <;> rfl
@[simp] theorem Slot.wg_watch (x : Slot) (r : BitVec 5) (v : Dword) : (x.wg r v).watch = x.watch := by
  unfold Slot.wg; split <;> rfl
@[simp] theorem Slot.wg_knotA (x : Slot) (r : BitVec 5) (v : Dword) : (x.wg r v).knotA = x.knotA := by
  unfold Slot.wg; split <;> rfl
@[simp] theorem Slot.wg_knotArrived (x : Slot) (r : BitVec 5) (v : Dword) : (x.wg r v).knotArrived = x.knotArrived := by
  unfold Slot.wg; split <;> rfl
@[simp] theorem Slot.wg_knotFly (x : Slot) (r : BitVec 5) (v : Dword) : (x.wg r v).knotFly = x.knotFly := by
  unfold Slot.wg; split <;> rfl
@[simp] theorem Slot.wg_pfCount (x : Slot) (r : BitVec 5) (v : Dword) : (x.wg r v).pfCount = x.pfCount := by
  unfold Slot.wg; split <;> rfl
@[simp] theorem Slot.wg_cappPos (x : Slot) (r : BitVec 5) (v : Dword) : (x.wg r v).cappPos = x.cappPos := by
  unfold Slot.wg; split <;> rfl
@[simp] theorem Slot.wg_elems (x : Slot) (r : BitVec 5) (v : Dword) : (x.wg r v).elems = x.elems := by
  unfold Slot.wg; split <;> rfl
@[simp] theorem Slot.wg_enq (x : Slot) (r : BitVec 5) (v : Dword) : (x.wg r v).enq = x.enq := by
  unfold Slot.wg; split <;> rfl
@[simp] theorem Slot.wg_pend (x : Slot) (r : BitVec 5) (v : Dword) : (x.wg r v).pend = x.pend := by
  unfold Slot.wg; split <;> rfl
@[simp] theorem Slot.wg_wakeLatch (x : Slot) (r : BitVec 5) (v : Dword) : (x.wg r v).wakeLatch = x.wakeLatch := by
  unfold Slot.wg; split <;> rfl
@[simp] theorem Slot.wg_launch (x : Slot) (r : BitVec 5) (v : Dword) : (x.wg r v).launch = x.launch := by
  unfold Slot.wg; split <;> rfl
@[simp] theorem Slot.wg_starting (x : Slot) (r : BitVec 5) (v : Dword) : (x.wg r v).starting = x.starting := by
  unfold Slot.wg; split <;> rfl
@[simp] theorem Slot.wg_nextOwn (x : Slot) (r : BitVec 5) (v : Dword) : (x.wg r v).nextOwn = x.nextOwn := by
  unfold Slot.wg; split <;> rfl
@[simp] theorem Slot.wg_retired (x : Slot) (r : BitVec 5) (v : Dword) : (x.wg r v).retired = x.retired := by
  unfold Slot.wg; split <;> rfl

@[simp] theorem Slot.wk_live (x : Slot) (r : BitVec 3) (v : Dword) : (x.wk r v).live = x.live := by
  unfold Slot.wk; split <;> rfl
@[simp] theorem Slot.wk_fw (x : Slot) (r : BitVec 3) (v : Dword) : (x.wk r v).fw = x.fw := by
  unfold Slot.wk; split <;> rfl
@[simp] theorem Slot.wk_vf (x : Slot) (r : BitVec 3) (v : Dword) : (x.wk r v).vf = x.vf := by
  unfold Slot.wk; split <;> rfl
@[simp] theorem Slot.wk_pc (x : Slot) (r : BitVec 3) (v : Dword) : (x.wk r v).pc = x.pc := by
  unfold Slot.wk; split <;> rfl
@[simp] theorem Slot.wk_g (x : Slot) (r : BitVec 3) (v : Dword) : (x.wk r v).g = x.g := by
  unfold Slot.wk; split <;> rfl
@[simp] theorem Slot.wk_v (x : Slot) (r : BitVec 3) (v : Dword) : (x.wk r v).v = x.v := by
  unfold Slot.wk; split <;> rfl
@[simp] theorem Slot.wk_sg (x : Slot) (r : BitVec 3) (v : Dword) : (x.wk r v).sg = x.sg := by
  unfold Slot.wk; split <;> rfl
@[simp] theorem Slot.wk_frame (x : Slot) (r : BitVec 3) (v : Dword) : (x.wk r v).frame = x.frame := by
  unfold Slot.wk; split <;> rfl
@[simp] theorem Slot.wk_hold (x : Slot) (r : BitVec 3) (v : Dword) : (x.wk r v).hold = x.hold := by
  unfold Slot.wk; split <;> rfl
@[simp] theorem Slot.wk_lastIssue (x : Slot) (r : BitVec 3) (v : Dword) : (x.wk r v).lastIssue = x.lastIssue := by
  unfold Slot.wk; split <;> rfl
@[simp] theorem Slot.wk_status (x : Slot) (r : BitVec 3) (v : Dword) : (x.wk r v).status = x.status := by
  unfold Slot.wk; split <;> rfl
@[simp] theorem Slot.wk_strand (x : Slot) (r : BitVec 3) (v : Dword) : (x.wk r v).strand = x.strand := by
  unfold Slot.wk; split <;> rfl
@[simp] theorem Slot.wk_cls (x : Slot) (r : BitVec 3) (v : Dword) : (x.wk r v).cls = x.cls := by
  unfold Slot.wk; split <;> rfl
@[simp] theorem Slot.wk_cause (x : Slot) (r : BitVec 3) (v : Dword) : (x.wk r v).cause = x.cause := by
  unfold Slot.wk; split <;> rfl
@[simp] theorem Slot.wk_epc (x : Slot) (r : BitVec 3) (v : Dword) : (x.wk r v).epc = x.epc := by
  unfold Slot.wk; split <;> rfl
@[simp] theorem Slot.wk_tval (x : Slot) (r : BitVec 3) (v : Dword) : (x.wk r v).tval = x.tval := by
  unfold Slot.wk; split <;> rfl
@[simp] theorem Slot.wk_tvec (x : Slot) (r : BitVec 3) (v : Dword) : (x.wk r v).tvec = x.tvec := by
  unfold Slot.wk; split <;> rfl
@[simp] theorem Slot.wk_crew (x : Slot) (r : BitVec 3) (v : Dword) : (x.wk r v).crew = x.crew := by
  unfold Slot.wk; split <;> rfl
@[simp] theorem Slot.wk_qown (x : Slot) (r : BitVec 3) (v : Dword) : (x.wk r v).qown = x.qown := by
  unfold Slot.wk; split <;> rfl
@[simp] theorem Slot.wk_nfsw (x : Slot) (r : BitVec 3) (v : Dword) : (x.wk r v).nfsw = x.nfsw := by
  unfold Slot.wk; split <;> rfl
@[simp] theorem Slot.wk_posted (x : Slot) (r : BitVec 3) (v : Dword) : (x.wk r v).posted = x.posted := by
  unfold Slot.wk; split <;> rfl
@[simp] theorem Slot.wk_tnan (x : Slot) (r : BitVec 3) (v : Dword) : (x.wk r v).tnan = x.tnan := by
  unfold Slot.wk; split <;> rfl
@[simp] theorem Slot.wk_stag (x : Slot) (r : BitVec 3) (v : Dword) : (x.wk r v).stag = x.stag := by
  unfold Slot.wk; split <;> rfl
@[simp] theorem Slot.wk_mbsrc (x : Slot) (r : BitVec 3) (v : Dword) : (x.wk r v).mbsrc = x.mbsrc := by
  unfold Slot.wk; split <;> rfl
@[simp] theorem Slot.wk_shsrc (x : Slot) (r : BitVec 3) (v : Dword) : (x.wk r v).shsrc = x.shsrc := by
  unfold Slot.wk; split <;> rfl
@[simp] theorem Slot.wk_rfault (x : Slot) (r : BitVec 3) (v : Dword) : (x.wk r v).rfault = x.rfault := by
  unfold Slot.wk; split <;> rfl
@[simp] theorem Slot.wk_rfptr (x : Slot) (r : BitVec 3) (v : Dword) : (x.wk r v).rfptr = x.rfptr := by
  unfold Slot.wk; split <;> rfl
@[simp] theorem Slot.wk_escv (x : Slot) (r : BitVec 3) (v : Dword) : (x.wk r v).escv = x.escv := by
  unfold Slot.wk; split <;> rfl
@[simp] theorem Slot.wk_watch (x : Slot) (r : BitVec 3) (v : Dword) : (x.wk r v).watch = x.watch := by
  unfold Slot.wk; split <;> rfl
@[simp] theorem Slot.wk_knotA (x : Slot) (r : BitVec 3) (v : Dword) : (x.wk r v).knotA = x.knotA := by
  unfold Slot.wk; split <;> rfl
@[simp] theorem Slot.wk_knotArrived (x : Slot) (r : BitVec 3) (v : Dword) : (x.wk r v).knotArrived = x.knotArrived := by
  unfold Slot.wk; split <;> rfl
@[simp] theorem Slot.wk_knotFly (x : Slot) (r : BitVec 3) (v : Dword) : (x.wk r v).knotFly = x.knotFly := by
  unfold Slot.wk; split <;> rfl
@[simp] theorem Slot.wk_pfCount (x : Slot) (r : BitVec 3) (v : Dword) : (x.wk r v).pfCount = x.pfCount := by
  unfold Slot.wk; split <;> rfl
@[simp] theorem Slot.wk_cappPos (x : Slot) (r : BitVec 3) (v : Dword) : (x.wk r v).cappPos = x.cappPos := by
  unfold Slot.wk; split <;> rfl
@[simp] theorem Slot.wk_elems (x : Slot) (r : BitVec 3) (v : Dword) : (x.wk r v).elems = x.elems := by
  unfold Slot.wk; split <;> rfl
@[simp] theorem Slot.wk_enq (x : Slot) (r : BitVec 3) (v : Dword) : (x.wk r v).enq = x.enq := by
  unfold Slot.wk; split <;> rfl
@[simp] theorem Slot.wk_pend (x : Slot) (r : BitVec 3) (v : Dword) : (x.wk r v).pend = x.pend := by
  unfold Slot.wk; split <;> rfl
@[simp] theorem Slot.wk_wakeLatch (x : Slot) (r : BitVec 3) (v : Dword) : (x.wk r v).wakeLatch = x.wakeLatch := by
  unfold Slot.wk; split <;> rfl
@[simp] theorem Slot.wk_launch (x : Slot) (r : BitVec 3) (v : Dword) : (x.wk r v).launch = x.launch := by
  unfold Slot.wk; split <;> rfl
@[simp] theorem Slot.wk_starting (x : Slot) (r : BitVec 3) (v : Dword) : (x.wk r v).starting = x.starting := by
  unfold Slot.wk; split <;> rfl
@[simp] theorem Slot.wk_nextOwn (x : Slot) (r : BitVec 3) (v : Dword) : (x.wk r v).nextOwn = x.nextOwn := by
  unfold Slot.wk; split <;> rfl
@[simp] theorem Slot.wk_retired (x : Slot) (r : BitVec 3) (v : Dword) : (x.wk r v).retired = x.retired := by
  unfold Slot.wk; split <;> rfl

@[simp] theorem Slot.wv_live (x : Slot) (r : BitVec 5) (v : VReg) : (x.wv r v).live = x.live := rfl
@[simp] theorem Slot.wv_fw (x : Slot) (r : BitVec 5) (v : VReg) : (x.wv r v).fw = x.fw := rfl
@[simp] theorem Slot.wv_vf (x : Slot) (r : BitVec 5) (v : VReg) : (x.wv r v).vf = x.vf := rfl
@[simp] theorem Slot.wv_pc (x : Slot) (r : BitVec 5) (v : VReg) : (x.wv r v).pc = x.pc := rfl
@[simp] theorem Slot.wv_g (x : Slot) (r : BitVec 5) (v : VReg) : (x.wv r v).g = x.g := rfl
@[simp] theorem Slot.wv_k (x : Slot) (r : BitVec 5) (v : VReg) : (x.wv r v).k = x.k := rfl
@[simp] theorem Slot.wv_sg (x : Slot) (r : BitVec 5) (v : VReg) : (x.wv r v).sg = x.sg := rfl
@[simp] theorem Slot.wv_frame (x : Slot) (r : BitVec 5) (v : VReg) : (x.wv r v).frame = x.frame := rfl
@[simp] theorem Slot.wv_hold (x : Slot) (r : BitVec 5) (v : VReg) : (x.wv r v).hold = x.hold := rfl
@[simp] theorem Slot.wv_lastIssue (x : Slot) (r : BitVec 5) (v : VReg) : (x.wv r v).lastIssue = x.lastIssue := rfl
@[simp] theorem Slot.wv_status (x : Slot) (r : BitVec 5) (v : VReg) : (x.wv r v).status = x.status := rfl
@[simp] theorem Slot.wv_strand (x : Slot) (r : BitVec 5) (v : VReg) : (x.wv r v).strand = x.strand := rfl
@[simp] theorem Slot.wv_cls (x : Slot) (r : BitVec 5) (v : VReg) : (x.wv r v).cls = x.cls := rfl
@[simp] theorem Slot.wv_cause (x : Slot) (r : BitVec 5) (v : VReg) : (x.wv r v).cause = x.cause := rfl
@[simp] theorem Slot.wv_epc (x : Slot) (r : BitVec 5) (v : VReg) : (x.wv r v).epc = x.epc := rfl
@[simp] theorem Slot.wv_tval (x : Slot) (r : BitVec 5) (v : VReg) : (x.wv r v).tval = x.tval := rfl
@[simp] theorem Slot.wv_tvec (x : Slot) (r : BitVec 5) (v : VReg) : (x.wv r v).tvec = x.tvec := rfl
@[simp] theorem Slot.wv_crew (x : Slot) (r : BitVec 5) (v : VReg) : (x.wv r v).crew = x.crew := rfl
@[simp] theorem Slot.wv_qown (x : Slot) (r : BitVec 5) (v : VReg) : (x.wv r v).qown = x.qown := rfl
@[simp] theorem Slot.wv_nfsw (x : Slot) (r : BitVec 5) (v : VReg) : (x.wv r v).nfsw = x.nfsw := rfl
@[simp] theorem Slot.wv_posted (x : Slot) (r : BitVec 5) (v : VReg) : (x.wv r v).posted = x.posted := rfl
@[simp] theorem Slot.wv_tnan (x : Slot) (r : BitVec 5) (v : VReg) : (x.wv r v).tnan = x.tnan := rfl
@[simp] theorem Slot.wv_stag (x : Slot) (r : BitVec 5) (v : VReg) : (x.wv r v).stag = x.stag := rfl
@[simp] theorem Slot.wv_mbsrc (x : Slot) (r : BitVec 5) (v : VReg) : (x.wv r v).mbsrc = x.mbsrc := rfl
@[simp] theorem Slot.wv_shsrc (x : Slot) (r : BitVec 5) (v : VReg) : (x.wv r v).shsrc = x.shsrc := rfl
@[simp] theorem Slot.wv_rfault (x : Slot) (r : BitVec 5) (v : VReg) : (x.wv r v).rfault = x.rfault := rfl
@[simp] theorem Slot.wv_rfptr (x : Slot) (r : BitVec 5) (v : VReg) : (x.wv r v).rfptr = x.rfptr := rfl
@[simp] theorem Slot.wv_escv (x : Slot) (r : BitVec 5) (v : VReg) : (x.wv r v).escv = x.escv := rfl
@[simp] theorem Slot.wv_watch (x : Slot) (r : BitVec 5) (v : VReg) : (x.wv r v).watch = x.watch := rfl
@[simp] theorem Slot.wv_knotA (x : Slot) (r : BitVec 5) (v : VReg) : (x.wv r v).knotA = x.knotA := rfl
@[simp] theorem Slot.wv_knotArrived (x : Slot) (r : BitVec 5) (v : VReg) : (x.wv r v).knotArrived = x.knotArrived := rfl
@[simp] theorem Slot.wv_knotFly (x : Slot) (r : BitVec 5) (v : VReg) : (x.wv r v).knotFly = x.knotFly := rfl
@[simp] theorem Slot.wv_pfCount (x : Slot) (r : BitVec 5) (v : VReg) : (x.wv r v).pfCount = x.pfCount := rfl
@[simp] theorem Slot.wv_cappPos (x : Slot) (r : BitVec 5) (v : VReg) : (x.wv r v).cappPos = x.cappPos := rfl
@[simp] theorem Slot.wv_elems (x : Slot) (r : BitVec 5) (v : VReg) : (x.wv r v).elems = x.elems := rfl
@[simp] theorem Slot.wv_enq (x : Slot) (r : BitVec 5) (v : VReg) : (x.wv r v).enq = x.enq := rfl
@[simp] theorem Slot.wv_pend (x : Slot) (r : BitVec 5) (v : VReg) : (x.wv r v).pend = x.pend := rfl
@[simp] theorem Slot.wv_wakeLatch (x : Slot) (r : BitVec 5) (v : VReg) : (x.wv r v).wakeLatch = x.wakeLatch := rfl
@[simp] theorem Slot.wv_launch (x : Slot) (r : BitVec 5) (v : VReg) : (x.wv r v).launch = x.launch := rfl
@[simp] theorem Slot.wv_starting (x : Slot) (r : BitVec 5) (v : VReg) : (x.wv r v).starting = x.starting := rfl
@[simp] theorem Slot.wv_nextOwn (x : Slot) (r : BitVec 5) (v : VReg) : (x.wv r v).nextOwn = x.nextOwn := rfl
@[simp] theorem Slot.wv_retired (x : Slot) (r : BitVec 5) (v : VReg) : (x.wv r v).retired = x.retired := rfl

theorem Slot.rg_wg (x : Slot) (r q : BitVec 5) (v : Dword) :
    (x.wg r v).rg q = if q = r ∧ q ≠ 0 then v else x.rg q := by
  unfold Slot.wg Slot.rg
  by_cases hq : q = 0
  · simp [hq]
  · by_cases hr : r = 0
    · subst hr
      simp only [if_true]
      rw [if_neg hq, if_neg (fun h : q = 0 ∧ q ≠ 0 => h.2 h.1)]
    · have key : ∀ (w : Vector Dword 32), (w.set r.toNat v).get q.toFin = if q = r then v else w.get q.toFin := by
        intro w
        have hqn := q.isLt
        rw [Vector.get_eq_getElem, Vector.getElem_set]
        by_cases h : q = r
        · subst h; simp
        · have : r.toNat ≠ q.toNat := fun e => h (BitVec.eq_of_toNat_eq e.symm)
          simp [h, this, Vector.get_eq_getElem]
      have hand : (q = r ∧ q ≠ 0) = (q = r) := by simp only [ne_eq, hq, not_false_iff, and_true]
      simp only [if_neg hq, if_neg hr, key, hand]
theorem Slot.rk_wk (x : Slot) (r q : BitVec 3) (v : Dword) :
    (x.wk r v).rk q = if q = r ∧ q ≠ 0 then v else x.rk q := by
  unfold Slot.wk Slot.rk
  by_cases hq : q = 0
  · simp [hq]
  · by_cases hr : r = 0
    · subst hr
      simp only [if_true]
      rw [if_neg hq, if_neg (fun h : q = 0 ∧ q ≠ 0 => h.2 h.1)]
    · have key : ∀ (w : Vector Dword 8), (w.set r.toNat v).get q.toFin = if q = r then v else w.get q.toFin := by
        intro w
        have hqn := q.isLt
        rw [Vector.get_eq_getElem, Vector.getElem_set]
        by_cases h : q = r
        · subst h; simp
        · have : r.toNat ≠ q.toNat := fun e => h (BitVec.eq_of_toNat_eq e.symm)
          simp [h, this, Vector.get_eq_getElem]
      have hand : (q = r ∧ q ≠ 0) = (q = r) := by simp only [ne_eq, hq, not_false_iff, and_true]
      simp only [if_neg hq, if_neg hr, key, hand]
theorem Slot.rv_wv (x : Slot) (r q : BitVec 5) (v : VReg) :
    (x.wv r v).rv q = if q = r then v else x.rv q := by
  unfold Slot.wv Slot.rv
  have hqn := q.isLt
  rw [Vector.get_eq_getElem, Vector.getElem_set]
  by_cases h : q = r
  · subst h; simp
  · have : r.toNat ≠ q.toNat := fun e => h (BitVec.eq_of_toNat_eq e.symm)
    simp [h, this, Vector.get_eq_getElem]
@[simp] theorem Slot.rg_wk (x : Slot) (r : BitVec 3) (v : Dword) (q : BitVec 5) : (x.wk r v).rg q = x.rg q := by
  simp [Slot.rg]
@[simp] theorem Slot.rg_wv (x : Slot) (r : BitVec 5) (v : VReg) (q : BitVec 5) : (x.wv r v).rg q = x.rg q := by
  simp [Slot.rg]
@[simp] theorem Slot.rk_wg (x : Slot) (r : BitVec 5) (v : Dword) (q : BitVec 3) : (x.wg r v).rk q = x.rk q := by
  simp [Slot.rk]
@[simp] theorem Slot.rk_wv (x : Slot) (r : BitVec 5) (v : VReg) (q : BitVec 3) : (x.wv r v).rk q = x.rk q := by
  simp [Slot.rk]
@[simp] theorem Slot.rv_wg (x : Slot) (r : BitVec 5) (v : Dword) (q : BitVec 5) : (x.wg r v).rv q = x.rv q := by
  simp [Slot.rv]
@[simp] theorem Slot.rv_wk (x : Slot) (r : BitVec 3) (v : Dword) (q : BitVec 5) : (x.wk r v).rv q = x.rv q := by
  simp [Slot.rv]

/-! ## The next instruction -/

@[simp] theorem Slot.next_live (x : Slot) (n : Nat) : (x.next n).live = x.live := by
  unfold Slot.next; split <;> (try split) <;> (try split) <;> rfl
@[simp] theorem Slot.next_fw (x : Slot) (n : Nat) : (x.next n).fw = x.fw := by
  unfold Slot.next; split <;> (try split) <;> (try split) <;> rfl
@[simp] theorem Slot.next_vf (x : Slot) (n : Nat) : (x.next n).vf = x.vf := by
  unfold Slot.next; split <;> (try split) <;> (try split) <;> rfl
@[simp] theorem Slot.next_g (x : Slot) (n : Nat) : (x.next n).g = x.g := by
  unfold Slot.next; split <;> (try split) <;> (try split) <;> rfl
@[simp] theorem Slot.next_v (x : Slot) (n : Nat) : (x.next n).v = x.v := by
  unfold Slot.next; split <;> (try split) <;> (try split) <;> rfl
@[simp] theorem Slot.next_k (x : Slot) (n : Nat) : (x.next n).k = x.k := by
  unfold Slot.next; split <;> (try split) <;> (try split) <;> rfl
@[simp] theorem Slot.next_sg (x : Slot) (n : Nat) : (x.next n).sg = x.sg := by
  unfold Slot.next; split <;> (try split) <;> (try split) <;> rfl
@[simp] theorem Slot.next_hold (x : Slot) (n : Nat) : (x.next n).hold = x.hold := by
  unfold Slot.next; split <;> (try split) <;> (try split) <;> rfl
@[simp] theorem Slot.next_lastIssue (x : Slot) (n : Nat) : (x.next n).lastIssue = x.lastIssue := by
  unfold Slot.next; split <;> (try split) <;> (try split) <;> rfl
@[simp] theorem Slot.next_status (x : Slot) (n : Nat) : (x.next n).status = x.status := by
  unfold Slot.next; split <;> (try split) <;> (try split) <;> rfl
@[simp] theorem Slot.next_strand (x : Slot) (n : Nat) : (x.next n).strand = x.strand := by
  unfold Slot.next; split <;> (try split) <;> (try split) <;> rfl
@[simp] theorem Slot.next_cls (x : Slot) (n : Nat) : (x.next n).cls = x.cls := by
  unfold Slot.next; split <;> (try split) <;> (try split) <;> rfl
@[simp] theorem Slot.next_cause (x : Slot) (n : Nat) : (x.next n).cause = x.cause := by
  unfold Slot.next; split <;> (try split) <;> (try split) <;> rfl
@[simp] theorem Slot.next_epc (x : Slot) (n : Nat) : (x.next n).epc = x.epc := by
  unfold Slot.next; split <;> (try split) <;> (try split) <;> rfl
@[simp] theorem Slot.next_tval (x : Slot) (n : Nat) : (x.next n).tval = x.tval := by
  unfold Slot.next; split <;> (try split) <;> (try split) <;> rfl
@[simp] theorem Slot.next_tvec (x : Slot) (n : Nat) : (x.next n).tvec = x.tvec := by
  unfold Slot.next; split <;> (try split) <;> (try split) <;> rfl
@[simp] theorem Slot.next_crew (x : Slot) (n : Nat) : (x.next n).crew = x.crew := by
  unfold Slot.next; split <;> (try split) <;> (try split) <;> rfl
@[simp] theorem Slot.next_qown (x : Slot) (n : Nat) : (x.next n).qown = x.qown := by
  unfold Slot.next; split <;> (try split) <;> (try split) <;> rfl
@[simp] theorem Slot.next_nfsw (x : Slot) (n : Nat) : (x.next n).nfsw = x.nfsw := by
  unfold Slot.next; split <;> (try split) <;> (try split) <;> rfl
@[simp] theorem Slot.next_posted (x : Slot) (n : Nat) : (x.next n).posted = x.posted := by
  unfold Slot.next; split <;> (try split) <;> (try split) <;> rfl
@[simp] theorem Slot.next_tnan (x : Slot) (n : Nat) : (x.next n).tnan = x.tnan := by
  unfold Slot.next; split <;> (try split) <;> (try split) <;> rfl
@[simp] theorem Slot.next_stag (x : Slot) (n : Nat) : (x.next n).stag = x.stag := by
  unfold Slot.next; split <;> (try split) <;> (try split) <;> rfl
@[simp] theorem Slot.next_mbsrc (x : Slot) (n : Nat) : (x.next n).mbsrc = x.mbsrc := by
  unfold Slot.next; split <;> (try split) <;> (try split) <;> rfl
@[simp] theorem Slot.next_shsrc (x : Slot) (n : Nat) : (x.next n).shsrc = x.shsrc := by
  unfold Slot.next; split <;> (try split) <;> (try split) <;> rfl
@[simp] theorem Slot.next_rfault (x : Slot) (n : Nat) : (x.next n).rfault = x.rfault := by
  unfold Slot.next; split <;> (try split) <;> (try split) <;> rfl
@[simp] theorem Slot.next_rfptr (x : Slot) (n : Nat) : (x.next n).rfptr = x.rfptr := by
  unfold Slot.next; split <;> (try split) <;> (try split) <;> rfl
@[simp] theorem Slot.next_escv (x : Slot) (n : Nat) : (x.next n).escv = x.escv := by
  unfold Slot.next; split <;> (try split) <;> (try split) <;> rfl
@[simp] theorem Slot.next_watch (x : Slot) (n : Nat) : (x.next n).watch = x.watch := by
  unfold Slot.next; split <;> (try split) <;> (try split) <;> rfl
@[simp] theorem Slot.next_knotA (x : Slot) (n : Nat) : (x.next n).knotA = x.knotA := by
  unfold Slot.next; split <;> (try split) <;> (try split) <;> rfl
@[simp] theorem Slot.next_knotArrived (x : Slot) (n : Nat) : (x.next n).knotArrived = x.knotArrived := by
  unfold Slot.next; split <;> (try split) <;> (try split) <;> rfl
@[simp] theorem Slot.next_knotFly (x : Slot) (n : Nat) : (x.next n).knotFly = x.knotFly := by
  unfold Slot.next; split <;> (try split) <;> (try split) <;> rfl
@[simp] theorem Slot.next_pfCount (x : Slot) (n : Nat) : (x.next n).pfCount = x.pfCount := by
  unfold Slot.next; split <;> (try split) <;> (try split) <;> rfl
@[simp] theorem Slot.next_cappPos (x : Slot) (n : Nat) : (x.next n).cappPos = x.cappPos := by
  unfold Slot.next; split <;> (try split) <;> (try split) <;> rfl
@[simp] theorem Slot.next_elems (x : Slot) (n : Nat) : (x.next n).elems = x.elems := by
  unfold Slot.next; split <;> (try split) <;> (try split) <;> rfl
@[simp] theorem Slot.next_enq (x : Slot) (n : Nat) : (x.next n).enq = x.enq := by
  unfold Slot.next; split <;> (try split) <;> (try split) <;> rfl
@[simp] theorem Slot.next_pend (x : Slot) (n : Nat) : (x.next n).pend = x.pend := by
  unfold Slot.next; split <;> (try split) <;> (try split) <;> rfl
@[simp] theorem Slot.next_wakeLatch (x : Slot) (n : Nat) : (x.next n).wakeLatch = x.wakeLatch := by
  unfold Slot.next; split <;> (try split) <;> (try split) <;> rfl
@[simp] theorem Slot.next_launch (x : Slot) (n : Nat) : (x.next n).launch = x.launch := by
  unfold Slot.next; split <;> (try split) <;> (try split) <;> rfl
@[simp] theorem Slot.next_starting (x : Slot) (n : Nat) : (x.next n).starting = x.starting := by
  unfold Slot.next; split <;> (try split) <;> (try split) <;> rfl
@[simp] theorem Slot.next_nextOwn (x : Slot) (n : Nat) : (x.next n).nextOwn = x.nextOwn := by
  unfold Slot.next; split <;> (try split) <;> (try split) <;> rfl
@[simp] theorem Slot.next_retired (x : Slot) (n : Nat) : (x.next n).retired = x.retired := by
  unfold Slot.next; split <;> (try split) <;> (try split) <;> rfl
@[simp] theorem Slot.done_live (x : Slot) (n : Nat) : (x.done n).live = x.live := by
  simp [Slot.done]
@[simp] theorem Slot.done_fw (x : Slot) (n : Nat) : (x.done n).fw = x.fw := by
  simp [Slot.done]
@[simp] theorem Slot.done_vf (x : Slot) (n : Nat) : (x.done n).vf = x.vf := by
  simp [Slot.done]
@[simp] theorem Slot.done_g (x : Slot) (n : Nat) : (x.done n).g = x.g := by
  simp [Slot.done]
@[simp] theorem Slot.done_v (x : Slot) (n : Nat) : (x.done n).v = x.v := by
  simp [Slot.done]
@[simp] theorem Slot.done_k (x : Slot) (n : Nat) : (x.done n).k = x.k := by
  simp [Slot.done]
@[simp] theorem Slot.done_sg (x : Slot) (n : Nat) : (x.done n).sg = x.sg := by
  simp [Slot.done]
@[simp] theorem Slot.done_lastIssue (x : Slot) (n : Nat) : (x.done n).lastIssue = x.lastIssue := by
  simp [Slot.done]
@[simp] theorem Slot.done_status (x : Slot) (n : Nat) : (x.done n).status = x.status := by
  simp [Slot.done]
@[simp] theorem Slot.done_strand (x : Slot) (n : Nat) : (x.done n).strand = x.strand := by
  simp [Slot.done]
@[simp] theorem Slot.done_cls (x : Slot) (n : Nat) : (x.done n).cls = x.cls := by
  simp [Slot.done]
@[simp] theorem Slot.done_cause (x : Slot) (n : Nat) : (x.done n).cause = x.cause := by
  simp [Slot.done]
@[simp] theorem Slot.done_epc (x : Slot) (n : Nat) : (x.done n).epc = x.epc := by
  simp [Slot.done]
@[simp] theorem Slot.done_tval (x : Slot) (n : Nat) : (x.done n).tval = x.tval := by
  simp [Slot.done]
@[simp] theorem Slot.done_tvec (x : Slot) (n : Nat) : (x.done n).tvec = x.tvec := by
  simp [Slot.done]
@[simp] theorem Slot.done_crew (x : Slot) (n : Nat) : (x.done n).crew = x.crew := by
  simp [Slot.done]
@[simp] theorem Slot.done_qown (x : Slot) (n : Nat) : (x.done n).qown = x.qown := by
  simp [Slot.done]
@[simp] theorem Slot.done_nfsw (x : Slot) (n : Nat) : (x.done n).nfsw = x.nfsw := by
  simp [Slot.done]
@[simp] theorem Slot.done_posted (x : Slot) (n : Nat) : (x.done n).posted = x.posted := by
  simp [Slot.done]
@[simp] theorem Slot.done_tnan (x : Slot) (n : Nat) : (x.done n).tnan = x.tnan := by
  simp [Slot.done]
@[simp] theorem Slot.done_stag (x : Slot) (n : Nat) : (x.done n).stag = x.stag := by
  simp [Slot.done]
@[simp] theorem Slot.done_mbsrc (x : Slot) (n : Nat) : (x.done n).mbsrc = x.mbsrc := by
  simp [Slot.done]
@[simp] theorem Slot.done_shsrc (x : Slot) (n : Nat) : (x.done n).shsrc = x.shsrc := by
  simp [Slot.done]
@[simp] theorem Slot.done_rfault (x : Slot) (n : Nat) : (x.done n).rfault = x.rfault := by
  simp [Slot.done]
@[simp] theorem Slot.done_rfptr (x : Slot) (n : Nat) : (x.done n).rfptr = x.rfptr := by
  simp [Slot.done]
@[simp] theorem Slot.done_escv (x : Slot) (n : Nat) : (x.done n).escv = x.escv := by
  simp [Slot.done]
@[simp] theorem Slot.done_watch (x : Slot) (n : Nat) : (x.done n).watch = x.watch := by
  simp [Slot.done]
@[simp] theorem Slot.done_knotA (x : Slot) (n : Nat) : (x.done n).knotA = x.knotA := by
  simp [Slot.done]
@[simp] theorem Slot.done_knotArrived (x : Slot) (n : Nat) : (x.done n).knotArrived = x.knotArrived := by
  simp [Slot.done]
@[simp] theorem Slot.done_knotFly (x : Slot) (n : Nat) : (x.done n).knotFly = x.knotFly := by
  simp [Slot.done]
@[simp] theorem Slot.done_enq (x : Slot) (n : Nat) : (x.done n).enq = x.enq := by
  simp [Slot.done]
@[simp] theorem Slot.done_pend (x : Slot) (n : Nat) : (x.done n).pend = x.pend := by
  simp [Slot.done]
@[simp] theorem Slot.done_wakeLatch (x : Slot) (n : Nat) : (x.done n).wakeLatch = x.wakeLatch := by
  simp [Slot.done]
@[simp] theorem Slot.done_launch (x : Slot) (n : Nat) : (x.done n).launch = x.launch := by
  simp [Slot.done]
@[simp] theorem Slot.done_starting (x : Slot) (n : Nat) : (x.done n).starting = x.starting := by
  simp [Slot.done]
@[simp] theorem Slot.done_nextOwn (x : Slot) (n : Nat) : (x.done n).nextOwn = x.nextOwn := by
  simp [Slot.done]
@[simp] theorem Slot.done_retired (x : Slot) (n : Nat) : (x.done n).retired = x.retired := by
  simp [Slot.done]
@[simp] theorem Slot.done_hold (x : Slot) (n : Nat) : (x.done n).hold = none := rfl
@[simp] theorem Slot.done_pfCount (x : Slot) (n : Nat) : (x.done n).pfCount = 0 := rfl
@[simp] theorem Slot.done_cappPos (x : Slot) (n : Nat) : (x.done n).cappPos = none := rfl
@[simp] theorem Slot.done_elems (x : Slot) (n : Nat) : (x.done n).elems = [] := rfl
theorem Slot.done_pc (x : Slot) (n : Nat) (h : x.frame = none) : (x.done n).pc = ptrAdd x.pc (BitVec.ofNat 60 n) := by
  simp [Slot.done, Slot.next, h]
theorem Slot.done_frame (x : Slot) (n : Nat) (h : x.frame = none) : (x.done n).frame = none := by
  simp [Slot.done, Slot.next, h]
@[simp] theorem Slot.rg_done (x : Slot) (n : Nat) (q : BitVec 5) : (x.done n).rg q = x.rg q := by
  simp [Slot.rg]
@[simp] theorem Slot.rk_done (x : Slot) (n : Nat) (q : BitVec 3) : (x.done n).rk q = x.rk q := by
  simp [Slot.rk]
@[simp] theorem Slot.rv_done (x : Slot) (n : Nat) (q : BitVec 5) : (x.done n).rv q = x.rv q := by
  simp [Slot.rv]

end Sys2Proof.Machine
end

