-- ==== Sys2Proof/Laws/Ops.lean ====
section
/-! SUPPORT. What each shared operation of a slot can do, said once: completing an instruction, taking a trap and returning
from it, page faults, accesses, packets and releases. -/
namespace Sys2Proof.Machine

variable {s : State}

/-! ## Completing an instruction -/

/-- An update of one slot leaves everything outside it. -/
theorem onlySlot_setSlot (s : State) (c : Coord) (x : Slot) : OnlySlot c s (s.setSlot c x) :=
  ⟨rfl, fun _ h => State.slot_setSlot_ne s x h, fun _ => rfl⟩

/-- `done` moves a slot past its instruction, whatever registers the instruction wrote before. -/
theorem pastBy_done (n : Nat) (x z : Slot) (hf : z.frame = x.frame) (hp : z.pc = x.pc) : PastBy n x (z.done n) :=
  ⟨rfl, rfl, rfl, rfl, fun h => ⟨Slot.done_frame _ _ (hf.trans h), by rw [Slot.done_pc _ _ (hf.trans h), hp]; rfl⟩⟩

theorem placedAs_done (n : Nat) (x : Slot) : (x.done n).placedAs x = x := by
  cases x; simp [Slot.placedAs]

theorem placedAs_done_wg (n : Nat) (x : Slot) (d : BitVec 5) (v : Dword) :
    { ((x.wg d v).done n).placedAs x with g := x.g } = x := by
  cases x; simp [Slot.placedAs]

theorem placedAs_done_wk (n : Nat) (x : Slot) (d : BitVec 3) (v : Dword) :
    { ((x.wk d v).done n).placedAs x with k := x.k } = x := by
  cases x; simp [Slot.placedAs]

theorem placedAs_done_wv (n : Nat) (x : Slot) (d : BitVec 5) (v : VReg) :
    { ((x.wv d v).done n).placedAs x with v := x.v } = x := by
  cases x; simp [Slot.placedAs]

/-- A write of gD, then the advance. -/
theorem wroteG_wg (s : State) (d : BitVec 5) (v : Dword) (n : Nat) :
    WroteG n d v s (s.setSlot s.cur ((s.me.wg d v).done n)) := by
  refine ⟨onlySlot_setSlot s _ _, ?_, ?_, fun r => ?_⟩
  · rw [State.me_setSlot_cur]; exact pastBy_done _ _ _ (by simp) (by simp)
  · rw [State.me_setSlot_cur]; exact placedAs_done_wg _ _ _ _
  · show (State.me _).rg r = _
    rw [State.me_setSlot_cur, Slot.rg_done, Slot.rg_wg]; rfl

/-- A write of kD, then the advance. -/
theorem wroteK_wk (s : State) (d : BitVec 3) (v : Dword) (n : Nat) :
    WroteK n d v s (s.setSlot s.cur ((s.me.wk d v).done n)) := by
  refine ⟨onlySlot_setSlot s _ _, ?_, ?_, fun r => ?_⟩
  · rw [State.me_setSlot_cur]; exact pastBy_done _ _ _ (by simp) (by simp)
  · rw [State.me_setSlot_cur]; exact placedAs_done_wk _ _ _ _
  · show (State.me _).rk r = _
    rw [State.me_setSlot_cur, Slot.rk_done, Slot.rk_wk]; rfl

/-- A write of vD, then the advance. -/
theorem wroteV_wv (s : State) (d : BitVec 5) (v : VReg) (n : Nat) :
    WroteV n d v s (s.setSlot s.cur ((s.me.wv d v).done n)) := by
  refine ⟨onlySlot_setSlot s _ _, ?_, ?_, fun r => ?_⟩
  · rw [State.me_setSlot_cur]; exact pastBy_done _ _ _ rfl rfl
  · rw [State.me_setSlot_cur]; exact placedAs_done_wv _ _ _ _
  · show (State.me _).rv r = _
    rw [State.me_setSlot_cur, Slot.rv_done, Slot.rv_wv]; rfl

/-- The advance alone. -/
theorem passed_advance (s : State) (n : Nat) : Passed n s (s.advance n) := by
  refine ⟨onlySlot_setSlot s _ _, ?_, ?_⟩
  · rw [State.advance_eq, State.me_setSlot_cur]; exact pastBy_done _ _ _ rfl rfl
  · rw [State.advance_eq, State.me_setSlot_cur]; exact placedAs_done _ _

/-- The slot leaves the rotation, and nothing else of it changes. -/
theorem heldBy_leave (s : State) (h : Hold) : HeldBy h s (s.leave h) := State.me_setSlot_cur _ _

/-- What a predicated write of gD can do (R67). -/
theorem ifPred_wg (s : State) (d : BitVec 5) (p : BitVec 3) (f : State → Dword) :
    (bit (s.rk p) 0 = true ∧ WroteG 4 d (f s) s (s.ifPred p fun s => s.wg d (f s)))
      ∨ (bit (s.rk p) 0 = false ∧ Passed 4 s (s.ifPred p fun s => s.wg d (f s))) := by
  unfold State.ifPred State.pred
  cases h : bit (s.rk p) 0
  · exact .inr ⟨rfl, by simpa using passed_advance s 4⟩
  · exact .inl ⟨rfl, by simpa using wroteG_wg s d (f s) 4⟩

/-- What a predicated write of kD can do (R67). -/
theorem ifPred_wk (s : State) (d : BitVec 3) (p : BitVec 3) (f : State → Dword) :
    (bit (s.rk p) 0 = true ∧ WroteK 4 d (f s) s (s.ifPred p fun s => s.wk d (f s)))
      ∨ (bit (s.rk p) 0 = false ∧ Passed 4 s (s.ifPred p fun s => s.wk d (f s))) := by
  unfold State.ifPred State.pred
  cases h : bit (s.rk p) 0
  · exact .inr ⟨rfl, by simpa using passed_advance s 4⟩
  · exact .inl ⟨rfl, by simpa using wroteK_wk s d (f s) 4⟩

/-! ## Taking a trap and returning (R325 to R332) -/

/-- A trap is routed to slot 13, or is a double trap, or enters the slot's own handler; nothing else. -/
theorem trapAt_cases (s : State) (c : Coord) (cause : BitVec 8) (tval epc : Dword) :
    (s.routed c cause = true ∧ s.trapAt c cause tval epc =
        (s.modSlot c fun x => { x with frame := none, pfCount := 0, cappPos := none, elems := [] }).queueService c cause 0 tval epc)
      ∨ (s.routed c cause = false ∧ bit (s.slot c).status 2 = true
        ∧ s.trapAt c cause tval epc = s.doubleTrap c (s.slot c).pc)
      ∨ (s.routed c cause = false ∧ bit (s.slot c).status 2 = false
        ∧ s.trapAt c cause tval epc = s.setSlot c ((s.slot c).enterTrap (s.privileged c) cause tval epc)) := by
  unfold State.trapAt
  cases h : s.routed c cause
  · cases h2 : bit (s.slot c).status 2
    · exact .inr (.inr ⟨rfl, rfl, by simp [h2]⟩)
    · exact .inr (.inl ⟨rfl, rfl, by simp [h2]⟩)
  · exact .inl ⟨rfl, by simp⟩

/-- The slot's own trap (R325): only the slot changes, in the way that `TookTrap` lists. -/
theorem tookTrap_trap {cause : BitVec 8} (tval : Dword) (h : TrapsHere cause s) : TookTrap cause tval s (s.trap cause tval) := by
  obtain ⟨h1, h2⟩ := h
  have h3 : s.trap cause tval = s.setSlot s.cur (s.me.enterTrap (s.privileged s.cur) cause tval s.me.pc) := by
    rcases trapAt_cases s s.cur cause tval s.me.pc with ⟨hr, -⟩ | ⟨-, hd, -⟩ | ⟨-, -, he⟩
    · rw [h2] at hr; cases hr
    · rw [show bit (s.slot s.cur).status 2 = false from h1] at hd; cases hd
    · exact he
  rw [h3]
  refine ⟨onlySlot_setSlot s _ _, ?_⟩
  rw [State.me_setSlot_cur]
  cases hp : s.privileged s.cur <;> simp [Slot.enterTrap]

/-- Outside a service `eret` touches its own slot alone (R329). -/
theorem eretAt_own (s : State) (c : Coord) (h : (s.core c).serving = none) :
    s.eretAt c = s.setSlot c (s.slot c).trapReturn := by
  simp [State.eretAt, h]

/-- The return puts the pc at `c.epc`, takes priv from ppriv and clears th (R329). -/
theorem trapReturn_fields (x : Slot) :
    x.trapReturn.pc = x.epc ∧ bit x.trapReturn.status 2 = false
      ∧ bit x.trapReturn.status 0 = bit x.status 1 ∧ bit x.trapReturn.status 1 = bit x.status 1 := by
  unfold Slot.trapReturn
  cases h : bit x.status 1 <;> simp [bit]

/-! ## Page faults (R141) -/

/-- A page fault traps with cause 0x11, where the queue is off or the count is spent, or holds the slot and queues a record. -/
theorem pageFault_cases (s : State) (c : Coord) (host : Bool) (va : BitVec 48) (acc : BitVec 3) (fetch : Bool) (p : Dword) :
    ((s.fqOn (s.slot c).vf = false ∨ 2 ≤ (s.slot c).pfCount)
        ∧ s.pageFault c host va acc fetch p = s.trapAt c 0x11 p (s.slot c).pc)
      ∨ (s.fqOn (s.slot c).vf = true ∧ (s.slot c).pfCount < 2
        ∧ s.pageFault c host va acc fetch p =
          (s.setSlot c { s.slot c with hold := some .pageFault, pfCount := (s.slot c).pfCount + 1 }).queueRecord (s.slot c).vf
            (s.record c (s.slot c).vf va.toNat fetch (if host then 6 else 4) ((s.slot c).pfCount + 1) acc.toNat
              (s.slot c).strand)) := by
  unfold State.pageFault
  by_cases h : (!s.fqOn (s.slot c).vf || 2 ≤ (s.slot c).pfCount) = true
  · refine .inl ⟨?_, by simp only [h, if_true]⟩
    simpa using h
  · refine .inr ⟨?_, ?_, by simp only [h]; rfl⟩ <;> simp at h <;> simp [h]

/-! ## Packets and releases (R144, R297, R300) -/

/-- A packet of another slot is none of the slot's task. -/
theorem of_ne {p : Packet} {c : Coord} (h : p.coord ≠ c) : p.of c = false := by simp [Packet.of, h]

/-- Without a packet of the slot there is none that could perform. -/
theorem nextOf_quiet (own : BitVec 9) {c : Coord} (before : List Packet) {l : List Packet} (h : ∀ p ∈ l, p.coord ≠ c) :
    nextOf own c before l = none := by
  induction l generalizing before with
  | nil => rfl
  | cons p r ih =>
    have h1 : (p.coord == c) = false := by simpa using h p (by simp)
    simp [nextOf, h1, ih _ fun q hq => h q (by simp [hq])]

theorem drainN_quiet {c : Coord} (h : ∀ p ∈ s.port, p.coord ≠ c) (n : Nat) : s.drainN c n = s := by
  induction n with
  | zero => rfl
  | succ n ih => simpa [State.drainN, State.performFirst, nextHere, nextOf_quiet _ _ h] using ih

/-- With no packet of the slot a drain does nothing. -/
theorem drain_quiet {c : Coord} (h : ∀ p ∈ s.port, p.coord ≠ c) : s.drain c = s := drainN_quiet h _

theorem outstanding_quiet {c : Coord} (h : ∀ p ∈ s.port, p.coord ≠ c) : s.outstanding c = false := by
  simpa [State.outstanding] using fun p hp => of_ne (h p hp)

/-- With no packet of the slot a release goes on at once. -/
theorem releaseThen_quiet (k : State → State) (h : ∀ p ∈ s.port, p.coord ≠ s.cur) : s.releaseThen k = k s := by
  simp [State.releaseThen, drain_quiet h, outstanding_quiet h]

/-- A release goes on, or holds the slot until the packets that peers still have are acknowledged. -/
theorem releaseThen_cases (s : State) (k : State → State) :
    s.releaseThen k = k (s.drain s.cur) ∨ s.releaseThen k = (s.drain s.cur).leave .posted := by
  unfold State.releaseThen
  dsimp only
  split
  · exact .inr rfl
  · exact .inl rfl

/-- With no packet of the slot there is nothing to settle. -/
theorem settleThen_quiet (pl : Place) (k : State → State) (h : ∀ p ∈ s.port, p.coord ≠ s.cur) : s.settleThen pl k = k s := by
  have : s.pendingAt pl = false := by simpa [State.pendingAt] using fun p hp hc => absurd hc (by simp [of_ne (h p hp)])
  simp [State.settleThen, this]

/-- With no packet of the slot its store need not wait for an earlier one. -/
theorem orderedHere_quiet (k : State → State) (h : ∀ p ∈ s.port, p.coord ≠ s.cur) : s.orderedHere k = k s := by
  have : (s.port.any fun p => p.of s.cur && p.holdsBack s.dev.devno) = false := by
    simpa using fun p hp hc => absurd hc (by simp [of_ne (h p hp)])
  simp only [State.orderedHere, drain_quiet h, this]; rfl

/-- A load goes on, or waits for an earlier packet of the slot (R297). -/
theorem settleThen_cases (s : State) (pl : Place) (k : State → State) :
    let t := if s.pendingAt pl then s.drain s.cur else s
    (t.pendingAt pl = false ∧ s.settleThen pl k = k t) ∨ (t.pendingAt pl = true ∧ s.settleThen pl k = t.leave .posted) := by
  intro t
  show (_ ∧ (if t.pendingAt pl then t.leave .posted else k t) = _) ∨ (_ ∧ (if t.pendingAt pl then t.leave .posted else k t) = _)
  cases h : t.pendingAt pl
  · exact .inl ⟨rfl, rfl⟩
  · exact .inr ⟨rfl, rfl⟩

/-- A waited store or atomic goes on, or waits for an earlier packet of the slot (R299). -/
theorem orderedHere_cases (s : State) (k : State → State) :
    s.orderedHere k = k (s.drain s.cur) ∨ s.orderedHere k = (s.drain s.cur).leave .posted := by
  unfold State.orderedHere
  dsimp only
  split
  · exact .inr rfl
  · exact .inl rfl

/-- A waited access reaches its home, or is dropped on the way and nothing answers it (R249). -/
theorem atHome_cases (s : State) (pl : Place) (k : State → State) :
    let r := s.crossAll s.cur s.me.strand s.me.vf pl.xcl pl.addrs
    (r.2 = true ∧ s.atHome pl k = k r.1) ∨ (r.2 = false ∧ s.atHome pl k = r.1.leave .dropped) := by
  unfold State.atHome State.atHomeAs
  split
  · rename_i h; rw [h]; exact .inr ⟨rfl, rfl⟩
  · rename_i h; rw [h]; exact .inl ⟨rfl, rfl⟩

/-- An access to a peer traps where the peer is lost, or holds the slot (R289, R293). -/
theorem askPeer_cases (s : State) (i : Instr) (at' : BitVec 9 × BitVec 48) (p : Dword) (policy : BitVec 2) (op : PeerOp) :
    (s.peerLost at'.1 = true ∧ s.askPeer i at' p policy op = s.trap 0x0B p)
      ∨ ∃ (t : State) (h : Hold), s.askPeer i at' p policy op = t.leave h ∧ (h = .posted ∨ h = .load i p at'.1) := by
  unfold State.askPeer
  dsimp only
  split
  · rename_i h; exact .inl ⟨h, rfl⟩
  · generalize (if at'.1 = s.dev.devno then s.drain s.cur else s) = t
    split
    · exact .inr ⟨_, _, rfl, .inl rfl⟩
    · exact .inr ⟨_, _, rfl, .inr rfl⟩

/-- A packet within a die is accepted (R249). -/
theorem cross_self (s : State) (d : BitVec 3) (shuttle : Bool) (id : BitVec 24) (vf : Nat) (registers : Bool) :
    s.cross d d shuttle id vf registers = (s, true) := by simp [State.cross, State.crossWith]

/-- Bytes whose home is the slot's own die, or no die, cross nothing (R249). -/
theorem crossAll_own (c : Coord) (strand : BitVec 24) (vf : Nat) (registers : Bool) {addrs : List Nat}
    (h : ∀ a ∈ addrs, ∀ d, homeDie a = some d → d = c.die.toNat) : s.crossAll c strand vf registers addrs = (s, true) := by
  have h1 : ∀ d ∈ (addrs.filterMap homeDie).eraseDups, d = c.die.toNat := by
    intro d hd
    obtain ⟨a, ha, hm⟩ := List.mem_filterMap.1 (List.mem_eraseDups.1 hd)
    exact h a ha d hm
  unfold State.crossAll
  generalize (addrs.filterMap homeDie).eraseDups = l at h1
  induction l with
  | nil => rfl
  | cons d r ih =>
    have hd : BitVec.ofNat 3 d = c.die := by rw [h1 d (by simp)]; simp
    simp only [List.foldl_cons, if_true, hd, cross_self]
    exact ih fun e he => h1 e (by simp [he])

/-- The same for a waited access. -/
theorem atHome_own {pl : Place} (k : State → State) (h : ∀ a ∈ pl.addrs, ∀ d, homeDie a = some d → d = s.cur.die.toNat) :
    s.atHome pl k = k s := by
  simp [State.atHome, State.atHomeAs, crossAll_own _ _ _ _ h]

/-- No packet of a port leaves, where each that slot `c` sent stays in this device. -/
theorem leaving_none (own : BitVec 9) (c : Coord) (before l : List Packet)
    (h : ∀ p ∈ l, p.coord = c → ∃ a, p.route = .here a) : leaving own c before l = (l, []) := by
  induction l generalizing before with
  | nil => rfl
  | cons p r ih =>
    have h1 : (p.coord == c && mayLeave own before p) = false := by
      by_cases hc : p.coord = c
      · obtain ⟨a, ha⟩ := h p (by simp) hc; simp [mayLeave, ha]
      · simp [hc]
    simp [leaving, ih _ fun q hq => h q (by simp [hq]), h1]

/-- A packet to an address of this device joins the end of the port, and its event the end of the agenda. -/
theorem send_here (p : Packet) (a : Nat) (hp : p.route = .here a) (h : ∀ q ∈ s.port, q.coord ≠ p.coord) :
    s.send p = State.later { s with port := s.port ++ [p] } (p.op.event p.xcluster) (.at p.coord) := by
  have h1 : leaving s.dev.devno p.coord [] (s.port ++ [p]) = (s.port ++ [p], []) :=
    leaving_none _ _ _ _ fun q hq hc => by
      rcases List.mem_append.1 hq with hq | hq
      · exact absurd hc (h q hq)
      · rw [List.mem_singleton.1 hq]; exact ⟨a, hp⟩
  simp [State.send, State.pump, State.later, h1]

/-- A posted access whose target is in this device. -/
theorem post_here (ptr : Dword) (pl : Place) (op : List Nat → PacketOp) (h : pl.peer = none) :
    s.post ptr pl op = s.send (s.packet s.cur ptr (.here (pl.addrs.headD 0)) (op pl.addrs) pl) := by
  simp [State.post, h]

/-! ## Accesses (R145) -/

/-- An access is stopped, or goes on at its place. -/
theorem withPlace_cases (s : State) (p : Dword) (n : Nat) (rights : BitVec 4) (acc : BitVec 3) (k : Place → State) :
    (∃ e, s.dataPlace s.cur p n rights = .error e ∧ s.withPlace p n rights acc k = s.stopAt s.cur e acc p)
      ∨ ∃ pl, s.dataPlace s.cur p n rights = .ok pl ∧ s.withPlace p n rights acc k = k pl := by
  unfold State.withPlace
  cases h : s.dataPlace s.cur p n rights with
  | error e => exact .inl ⟨e, rfl, rfl⟩
  | ok pl => exact .inr ⟨pl, rfl, rfl⟩

/-- A load at the slot's own die with nothing outstanding: the home refuses, or the bytes go to `k`. -/
theorem loadThen_here {p : Dword} {n : Nat} {rights : BitVec 4} {pl : Place} (i : Instr) (acc : BitVec 3) (ptr : Nat → Dword)
    (k : List Byte → State → State) (hq : ∀ q ∈ s.port, q.coord ≠ s.cur) (h : s.dataPlace s.cur p n rights = .ok pl)
    (hp : pl.peer = none) (hh : ∀ a ∈ pl.addrs, ∀ d, homeDie a = some d → d = s.cur.die.toNat) :
    s.loadThen i p n rights acc ptr k =
      match firstRefused s.mem s.cur.clusterKey pl.addrs with
      | some (cause, j) => s.trap cause (ptr j)
      | none => k (s.mem.bytesAt pl.addrs) { s with mem := s.cohLoad s.cur.clusterKey pl.policy pl.addrs } := by
  simp only [State.loadThen, State.withPlace, h, hp, settleThen_quiet _ _ hq, atHome_own _ hh] <;> rfl

/-- A store that is not a waited one is posted, and the instruction goes on. -/
theorem storeThen_posted (i : Instr) (ptr : Dword) {pl : Place} (bytes : List Byte) (tag : BitVec 2) (value : Dword)
    (bad : Nat → Dword) (k : State → State) (h : pl.waited = false) :
    s.storeThen i ptr pl bytes tag value bad k = k (s.post ptr pl fun addrs => .store (storeBytes addrs bytes) tag) := by
  simp [State.storeThen, h]

/-- An alignment check traps with cause 0x04 or goes on. -/
theorem aligned_cases (s : State) (p : Dword) (n : Nat) (k : State) :
    (p.toNat % n = 0 ∧ s.aligned p n k = k) ∨ (p.toNat % n ≠ 0 ∧ s.aligned p n k = s.trap 0x04 p) := by
  unfold State.aligned
  by_cases h : p.toNat % n = 0
  · exact .inl ⟨h, by simp [h]⟩
  · exact .inr ⟨h, by simp [h]⟩

/-- A record of a refused packet touches the slot alone (R146). -/
theorem onlySlot_postFault (s : State) (c : Coord) (cause : BitVec 8) (p : Dword) : OnlySlot c s (s.postFault c cause p) :=
  onlySlot_setSlot s c _

end Sys2Proof.Machine
end

