-- ==== Sys2Proof/Tests/Slice0.lean ====
section
/-! SUPPORT. Small tests: what is ill-formed, decoded words, single steps, and a state that meets the hypotheses of each
statement. The expected values are the spec's own or worked out by hand from its rules. -/
namespace Sys2Proof.Tests

open Sys2Proof Sys2Proof.Machine

set_option Elab.async false

/-! ## Ill-formed terms (R37, R39, R41, R44) -/

/-- One ill-formed term for each check of `Instr.wf`. -/
def illFormed : List Instr :=
  [ .cmpEq 0 1 2 0, .kand 0 1 2 0, .cmpiLt 0 1 5, .ld 1 2 7 0 0, .st 1 2 3 0 0, .ldf 1 2 3 0, .aadd 1 2 3 3 0, .cas 1 2 3 3 0,
    .vldMasked 1 2 0 10, .vaadd 1 2 0 10, .vaand 1 2 0 0, .fence 0 4, .fence 1 5, .ldk 0 1 0 0, .vadd 1 2 3 0 0 3,
    .vfma 1 2 3 0 0 4, .vmin 1 2 3 0 10, .vcmpEq 0 1 2 0 0, .vcmpLt 1 1 2 0 11, .vcmpUn 1 2 3 0 5, .vexp2 1 2 0 0 7,
    .vrsum 1 2 0 15, .vperm 1 2 3 0 12, .vbcst 1 2 16 0 0, .vshup 1 2 8 0 9, .vcvt 1 2 10 0 0 1, .vdec 1 2 0 0 3,
    .viadd 1 2 3 0 2, .viand 1 2 3 0 0, .visll 1 2 3 0 1, .viaddSat 1 2 3 0 0, .vins 1 2 16 0, .vext 1 2 8 9, .vsplat 1 2 0 10,
    .mbsend 0 1 0, .karr 40, .enq 1 2 0, .shsend 1 2 0, .csrr 1 0x12, .csrw 1 0x68, .ximm 0x3FFFFFF 0x20A50040,
    .ecvt 0 1 7, .estore 0 7, .eflag 7 0 1 ]

theorem test_ill_formed_terms_are_refused : illFormed.all (fun i => !i.wf) = true := by decide

/-- The last value that each of those checks allows. -/
theorem test_boundary_terms_are_well_formed :
    ([.cmpEq 7 1 2 0, .ld 1 2 6 0 0, .st 1 2 6 0 0, .ldf 1 2 2 0, .aadd 1 2 3 2 3, .vaadd 1 2 0 9, .fence 3 4, .vadd 1 2 3 0 0 2,
      .vbcst 1 2 15 0 0, .vshup 1 2 31 0 7, .vcvt 1 2 9 0 0 9, .vext 1 2 7 9, .karr 39, .csrr 1 0x8C, .ximm 0x3FFFFFE 0x20A50040,
      .ecvt 0 1 6] : List Instr).all Instr.wf = true := by decide

/-! ## Decoding (R36 to R54, R182) -/

/-- Words that the spec writes out, for each group of the table. -/
theorem test_decode_integer_and_control_words :
    decodeWord 0x04611000 = some (.add 3 1 2 0) ∧ decodeWord 0x08853204 = some (.div 4 5 6 2)
    ∧ decodeWord 0x14A11007 = some (.mkptr 5 1 2 0) ∧ decodeWord 0x20A50040 = some (.addi 5 5 64)
    ∧ decodeWord 0x35260000 = some (.cmpiNe 1 6 0) ∧ decodeWord 0x36440064 = some (.cmpiLt 2 4 100)
    ∧ decodeWord 0x40FFFFFB = some (.bc 1 1 (-5)) ∧ decodeWord 0x481F0001 = some (.jr 31 0)
    ∧ decodeWord 0x484F0003 = some (.repf 1 15 0 0) := by decide

theorem test_decode_memory_words :
    decodeWord 0x54628FFF = some (.st 3 2 4 1 0x7FF) ∧ decodeWord 0x5AD5D000 = some (.ldf 22 21 2 0)
    ∧ decodeWord 0x5A955000 = some (.ste 20 21 1 0) ∧ decodeWord 0x5CA63819 = some (.aadd 5 6 7 2 1)
    ∧ decodeWord 0x5D095090 = some (.cas 8 9 10 0 0) ∧ decodeWord 0x60250000 = some (.vld 1 5 0 0)
    ∧ decodeWord 0x64642920 = some (.vgather 3 4 5 1 0) ∧ decodeWord 0x6C43C001 = some (.ldk 2 3 0 1)
    ∧ decodeWord 0x680A1001 = some (.pub 10 2) ∧ decodeWord 0x6B800000 = some (.fence 3 4) := by decide

theorem test_decode_vector_words :
    decodeWord 0x75008000 = some (.vfma 8 0 16 0 0 0) ∧ decodeWord 0x7C220030 = some (.vexp2 1 2 0 3 0)
    ∧ decodeWord 0x78221860 = some (.vcmpLt 1 2 3 0 0) ∧ decodeWord 0x80E90000 = some (.vrsum 7 9 0 0)
    ∧ decodeWord 0x84A50826 = some (.vshup 5 5 1 0 6) ∧ decodeWord 0x88A60011 = some (.vcvt 5 6 0 0 1 1)
    ∧ decodeWord 0x8CA53006 = some (.viadd 5 5 6 0 6) ∧ decodeWord 0x90040020 = some (.vsplat 0 4 0 0) := by decide

theorem test_decode_engine_words :
    decodeWord 0xA0030000 = some (.mxfmt 3 0) ∧ decodeWord 0xB8010002 = some (.waitm 1)
    ∧ decodeWord 0xC0500002 = some (.karrw 5) ∧ decodeWord 0xC4042800 = some (.swexp 4 5)
    ∧ decodeWord 0xC4042801 = some (.swadd 4 5) ∧ decodeWord 0xC80A5900 = some (.enq 10 11 1)
    ∧ decodeWord 0xD0642800 = some (.hstart 3 4 5) ∧ decodeWord 0xD4800002 = some (.alw 4)
    ∧ decodeWord 0xD8C50000 = some (.skfind 6 5) ∧ decodeWord 0xE0C00201 = some (.shrecv 6 2)
    ∧ decodeWord 0xE0030002 = some (.shpermit 3) ∧ decodeWord 0xE4042800 = some (.amsg 4 5) := by decide

theorem test_decode_system_words :
    decodeWord 0xF0050000 = some (.trap 5) ∧ decodeWord 0xF4600200 = some (.csrr 3 2)
    ∧ decodeWord 0xF8642801 = some (.rndk 3 4 5) := by decide

/-- R42, R57: the pair of `li g4, 0x12_3456_789A`. -/
theorem test_decode_prefix_pair :
    decode [0x56, 0x34, 0x12, 0xFC, 0x9A, 0x78, 0x80, 0x20] = .ok (.ximm 0x123456 0x2080789A, []) := by rfl

/-- R181, R182: the reset value of the epilogue memory is `eend`; a word of `emul e1, e2, e3` from the fields of R182. -/
theorem test_decode_epilogue_words :
    decodeEpi 0xF000 = some .eend ∧ decodeEpi 0x1298 = some (.emul 1 2 3) := by decide

/-- R44: a field that must be zero, and an operation without a row. -/
theorem test_illegal_words_are_refused :
    decodeWord 0x04611080 = none ∧ decodeWord 0x18000000 = none ∧ decodeWord 0 = none := by decide

/-! ## Helpers -/

/-- The reset machine with a change to slot 0 of core 0. -/
def me (f : Slot → Slot) : State := State.reset.modMe f

/-- A local segment with every right and a policy (R128, R137). -/
def localSeg (policy : Nat) : BitVec 128 := BitVec.ofNat 128 ((1 * 2 ^ 60 + 15 * 2 ^ 56 + policy * 2 ^ 54 + 2 ^ 16) * 2 ^ 64)

/-- Slot 0 with a local segment of a policy in sg0. -/
def withLocal (policy : Nat) (f : Slot → Slot) : State := me fun x => f { x with sg := x.sg.set 0 (localSeg policy) }

/-- `n` consecutive addresses of core 0's local memory. -/
def locals (a n : Nat) : List Nat := (List.range n).map (localAddr 0 0 + a + ·)

/-- The place of `n` bytes of that local memory under a policy. -/
def localPlace (policy : BitVec 2) (a n : Nat) : Place := { addrs := locals a n, peer := none, policy := policy, xcl := false, pages := [] }

/-- gN after one instruction. -/
def gAfter (i : Instr) (s : State) (r : BitVec 5) : Option Nat :=
  match exec i s with | .next t => some (t.rg r).toNat | _ => none

/-- kN after one instruction. -/
def kAfter (i : Instr) (s : State) (r : BitVec 3) : Option Nat :=
  match exec i s with | .next t => some (t.rk r).toNat | _ => none

/-- Element `j` of `w` bits of vN after one instruction. -/
def vAfter (i : Instr) (s : State) (r : BitVec 5) (w j : Nat) : Option Nat :=
  match exec i s with | .next t => some (element w (t.rv r) j) | _ => none

/-- What holds after one instruction. -/
def after (i : Instr) (s : State) (p : State → Bool) : Bool := match exec i s with | .next t => p t | _ => false

/-- Registers g1 and g2. -/
def g12 (a b : Nat) : State := me fun x => (x.wg 1 (BitVec.ofNat 64 a)).wg 2 (BitVec.ofNat 64 b)

/-- Registers v1 and v2 with one number in element 0. -/
def v12 (a b : Nat) : State := me fun x => (x.wv 1 (BitVec.ofNat 512 a)).wv 2 (BitVec.ofNat 512 b)

/-! ## Single instructions -/

/-- R71, R73, R74: wraps, clamps, division by zero and the shift count modulo 64. -/
theorem test_arithmetic_corners :
    gAfter (.add 3 1 2 0) (g12 (2 ^ 64 - 1) 2) 3 = some 1
    ∧ gAfter (.subZsat 3 1 2 0) (g12 3 5) 3 = some 0
    ∧ gAfter (.addSat 3 1 2 0) (g12 0x7FFFFFFFFFFFFFFF 1) 3 = some 0x7FFFFFFFFFFFFFFF
    ∧ gAfter (.div 3 1 2 0) (g12 7 0) 3 = some (2 ^ 64 - 1) ∧ gAfter (.rem 3 1 2 0) (g12 7 0) 3 = some 7
    ∧ gAfter (.sll 3 1 2 0) (g12 1 65) 3 = some 2 ∧ gAfter (.add 0 1 2 0) (g12 1 1) 0 = some 0
    ∧ gAfter (.add 3 1 2 1) (g12 1 1) 3 = some 0 := by decide

/-- R76, R81, R84: a signed compare, a sign-extended immediate, and `movhi` over the low half. -/
theorem test_compares_and_immediates :
    kAfter (.cmpLt 1 1 2 0) (g12 (2 ^ 64 - 1) 1) 1 = some (2 ^ 64 - 1) ∧ kAfter (.cmpLtu 1 1 2 0) (g12 (2 ^ 64 - 1) 1) 1 = some 0
    ∧ gAfter (.addi 3 1 0xFFFF) (g12 5 0) 3 = some 4 ∧ gAfter (.andi 3 1 0xFFFF) (g12 (2 ^ 64 - 1) 0) 3 = some 0xFFFF
    ∧ gAfter (.movhi 1 0x8000) (g12 0x1234 0) 1 = some 0xFFFFFFFF80001234 := by decide

/-- R42, R57: the pair of `li g4, 0x12_3456_789A`. -/
theorem test_prefixed_immediate : gAfter (.ximm 0x123456 0x2080789A) State.reset 4 = some 0x123456789A := by decide

/-- R85, R86: a call backwards from offset 8 goes to 0 and leaves 12 in g31. -/
theorem test_call :
    after (.call 0 1 (-2)) (me fun x => { x with pc := 8 }) (fun t => t.me.pc == 0 && t.rg 31 == 12) = true := by decide

/-- R325, R329: `trap 5`, then what `eret` returns to. -/
theorem test_trap_and_return :
    after (.trap 5) (me fun x => { x with pc := 8, tvec := 0x100 })
      (fun t => t.me.cause == 0x14 && t.me.tval == 5 && t.me.epc == 12 && t.me.pc == 0x100 && t.me.status == 5) = true
    ∧ after .eret (me fun x => { x with pc := 8, epc := 12, status := 7 })
      (fun t => t.me.pc == 12 && t.me.status == 3) = true := by decide

/-- R318: `eret` without privilege traps with cause 0x02 and its own word. -/
theorem test_privilege_trap :
    after .eret State.reset (fun t => t.me.cause == 0x02 && t.me.tval == 0xF0000001) = true := by decide

/-- R145, R148: a load of a byte that is 0x80, with sign and without, and a misaligned one. -/
theorem test_loads :
    let s : State := { withLocal 0 id with mem := Memory.reset.store [(localAddr 0 5, 0x80)] 0 }
    gAfter (.ld 3 0 0 0 5) s 3 = some 0x80 ∧ gAfter (.ld 3 0 1 0 5) s 3 = some 0xFFFFFFFFFFFFFF80
    ∧ after (.ld 3 1 6 0 0) (s.modMe fun x => x.wg 1 4) (fun t => t.me.cause == 0x04 && t.me.tval == 4) = true := by decide

/-- R144, R148: a store is posted and performed by its event, in the byte order of R2. -/
theorem test_store_posts_and_performs :
    let s := withLocal 0 fun x => x.wg 3 0x1122334455667788
    (match exec (.st 3 0 6 0 1) s with
     | .next t =>
       t.mem.byte (localAddr 0 8) == 0
         && after .storePerform { t with arg := EvArg.at Coord.zero } (fun u =>
           u.mem.byte (localAddr 0 8) == 0x88 && u.mem.byte (localAddr 0 15) == 0x11 && u.port.isEmpty)
     | _ => false) = true := by decide

/-- R150: a swap-and-add on 32 bits keeps the other half of the dword. -/
theorem test_atomic_add :
    let s : State := { withLocal 0 (fun x => x.wg 2 3) with
      mem := Memory.reset.store [(localAddr 0 0, 0xFF), (localAddr 0 4, 7)] 0 }
    after (.aadd 3 0 2 0 0) s (fun t => t.rg 3 == 0xFF && t.mem.readNat (localAddr 0 0) 8 == 0x700000102) = true := by decide

/-- R113, R101: 1 + 1 in FP32 is 2, and a signalling NaN gives the canonical NaN. -/
theorem test_vector_add :
    vAfter (.vadd 3 1 2 0 0 0) (v12 0x3F800000 0x3F800000) 3 32 0 = some 0x40000000
    ∧ vAfter (.vadd 3 1 2 0 0 0) (v12 0x7F800001 0x3F800000) 3 32 0 = some 0x7FC00000
    ∧ vAfter (.vsub 3 1 2 0 2 0) (v12 0x3F800000 0x3F800000) 3 32 0 = some 0x80000000 := by decide +kernel

/-- R113: the fused product is rounded once: (1 + 2^-23)^2 - (1 + 2^-22) is 2^-46. -/
theorem test_fused_multiply_add :
    vAfter (.vfma 3 1 2 0 0 0) ((v12 0x3F800001 0x3F800001).wv 3 0xBF800002) 3 32 0 = some 0x28800000 := by decide +kernel

/-- R116, R117, R118, R120: a compare with NaN is false, 2^3 is 8, a sum of two elements, and 1.5 to an integer, ties to even. -/
theorem test_vector_kinds :
    kAfter (.vcmpLt 1 1 2 0 0) (v12 0x7FC00000 0x3F800000) 1 = some 0
    ∧ vAfter (.vexp2 3 1 0 0 0) (v12 0x40400000 0) 3 32 0 = some 0x41000000
    ∧ vAfter (.vrsum 3 1 0 4) (v12 (5 + 7 * 2 ^ 32) 0) 3 32 0 = some 12
    ∧ vAfter (.vcvt 3 1 0 0 0 3) (v12 0x3FC00000 0) 3 32 0 = some 2 := by decide +kernel

/-- R124, R125: a saturating 8-bit sum clamps, and `vext` sign-extends. -/
theorem test_vector_integers :
    vAfter (.viaddSat 3 1 2 0 7) (v12 0x7F 1) 3 8 0 = some 0x7F ∧ vAfter (.viadd 3 1 2 0 8) (v12 0xFF 1) 3 8 0 = some 0
    ∧ gAfter (.vext 3 1 0 7) (v12 0x80 0) 3 = some 0xFFFFFFFFFFFFFF80 := by decide +kernel

/-- R183: breakpoints 1.0 and, out of order, 0.0: x = 0.5 lies below X(0), and the index is 0. -/
theorem test_etab_below_the_first_breakpoint :
    etabIndex (Sparse.set [] 0 0x3F800000) 0 (fp32.decode 0x3F000000) = 0 := by decide +kernel

/-- R182: `eadd e1, e2, e3` of 1 and 2. -/
theorem test_epilogue_add :
    let x : EpiRun := { EpiRun.reset with e := (EpiRun.reset.e.set 2 0x3F800000).set 3 0x40000000 }
    after (.eadd 1 2 3) (State.reset.modCluster Coord.zero fun c => { c with epi := x })
      (fun t => (t.cluster Coord.zero).epi.e.get 1 == 0x40400000 && (t.cluster Coord.zero).epi.pc == 1) = true := by decide

/-- R186, R187: a value sent to a mailbox is taken with its sender. -/
theorem test_mailbox :
    (match exec (.mbsend 2 1 3) (g12 77 0) with
     | .next t => t.rk 3 == BitVec.allOnes 64
         && after (.mbtake 4 2 5) t (fun u => u.rg 4 == 77 && !((u.core u.cur).mb.get 2).full)
     | _ => false) = true := by decide

/-- R340: the hash of counter 2 under key 1, worked out from the rule. -/
theorem test_keyed_hash : gAfter (.rndk 3 1 2) (g12 1 2) 3 = some 0xFD30A8C5A1804D68 := by decide

/-- R341, R259: the clock, and the allowance of strand 0. -/
theorem test_clock_and_allowance :
    gAfter (.clkr 3) { State.reset with clock := Vector.replicate 8 42 } 3 = some 42
    ∧ gAfter (.alw 3) State.reset 3 = some 0xFFFFFFFF := by decide

/-- R209: a wait on a timeline that has not come holds the slot. -/
theorem test_wait_holds :
    after (.waittl 3 1) (g12 1 0) (fun t => t.me.hold == some (.waittl 3 1) && t.me.pc == 0) = true := by decide

/-- A whole step: the word of `addi g5, g5, 64` is fetched, decoded and run. -/
theorem test_step_runs_a_fetched_word :
    (match step (State.reset.withFetchWord 32 0x20A50040) with
     | .next t => t.me.rg 5 == 64 && t.me.pc == 4
     | _ => false) = true := by decide

/-- R45: an illegal word traps with cause 0x01 and the word. -/
theorem test_step_traps_on_an_illegal_word :
    (match step (State.reset.withFetchWord 32 0x18000000) with
     | .next t => t.me.cause == 0x01 && t.me.tval == 0x18000000 && t.me.epc == 0
     | _ => false) = true := by decide

/-! ## States that meet the hypotheses of the statements -/

/-- ArithmeticResult: every operation, with a predicate that holds and one that does not. -/
theorem witness_ArithmeticResult :
    ([.add 1 2 3 0, .sub 1 2 3 0, .and 1 2 3 0, .or 1 2 3 0, .xor 1 2 3 0, .andn 1 2 3 0, .orn 1 2 3 0, .addSat 1 2 3 0,
      .subSat 1 2 3 0, .addZsat 1 2 3 0, .subZsat 1 2 3 0, .mul 1 2 3 0, .mulh 1 2 3 0, .mulhz 1 2 3 0, .mulSat 1 2 3 0,
      .div 1 2 3 0, .divz 1 2 3 0, .rem 1 2 3 0, .remz 0 31 31 0] : List Instr).all
        (fun i => (arithResult State.reset i).isSome) = true
    ∧ arithResult State.reset (.add 1 2 3 0) = some (1, 0, 0) ∧ (State.reset.rk 0).getLsbD 0 = true
    ∧ arithResult State.reset (.add 1 2 3 7) = some (1, 7, 0) ∧ (State.reset.rk 7).getLsbD 0 = false := by decide +kernel

theorem witness_ShiftAndBitResult :
    ([.sll 1 2 3 0, .srl 1 2 3 0, .sra 1 2 3 0, .ror 1 2 3 0, .clz 1 2 0, .ctz 1 2 0, .pcnt 1 2 0, .brev 1 2 0,
      .bswap 0 31 7] : List Instr).all (fun i => (shiftResult State.reset i).isSome) = true := by decide +kernel

theorem witness_CompareAndMaskResult :
    ([.cmpEq 1 2 3 0, .cmpNe 1 2 3 0, .cmpLt 1 2 3 0, .cmpGe 1 2 3 0, .cmpLtu 1 2 3 0, .cmpGeu 1 2 3 0, .kand 1 2 3 0,
      .kor 1 2 3 0, .kxor 1 2 3 0, .kandn 1 2 3 0, .kmov 7 0 0, .gtok 0 31 7] : List Instr).all
        (fun i => (maskResult State.reset i).isSome) = true := by decide +kernel

theorem witness_ExtendAndPointerResult :
    ([.ktog 1 2 0, .sext8 1 2 0, .sext16 1 2 0, .sext32 1 2 0, .zext8 1 2 0, .zext16 1 2 0, .zext32 1 2 0, .mkptr 1 2 7 0,
      .setp 1 2 0, .clrp 0 31 7] : List Instr).all (fun i => (extendResult State.reset i).isSome) = true := by decide +kernel

theorem witness_ImmediateResult :
    ([.addi 1 2 0x8000, .andi 1 2 0xFFFF, .ori 1 2 0, .xori 0 31 1] : List Instr).all
        (fun i => (immResult State.reset none i).isSome && (immResult State.reset (some 0) i).isSome) = true
    ∧ ([.slli 1 2 63, .srli 1 2 0, .srai 1 2 1, .rori 1 2 63, .movhi 1 0, .movw 1 0xFFFF, .sel 1 2 3 0] : List Instr).all
        (fun i => (constResult State.reset i).isSome) = true
    ∧ ([.cmpiEq 1 2 0, .cmpiNe 7 2 0, .cmpiLt 1 2 0x8000, .cmpiGe 1 2 0x7FFF] : List Instr).all
        (fun i => (immMask State.reset none i).isSome && (immMask State.reset (some 0) i).isSome) = true
    ∧ (0x3FFFFFE : BitVec 26) ≠ BitVec.allOnes 26 ∧ decodeWord 0x2080789A = some (.addi 4 0 0x789A)
    ∧ decodeWord 0x36440064 = some (.cmpiLt 2 4 100) := by decide +kernel

/-- BranchAndJumpResult: a jump not taken, one to the last aligned address, and one that is misaligned. -/
theorem witness_BranchAndJumpResult :
    ¬ (State.reset.rk 1).getLsbD 0 ∧ (State.reset.rk 0).getLsbD 0
    ∧ ((g12 0xFFFFFFFFFFFFFFFC 0).rg 1).toNat % 4 = 0 ∧ ((g12 0xFFFFFFFFFFFFFFFF 0).rg 1).toNat % 4 ≠ 0
    ∧ TrapsHere 0x04 (g12 0xFFFFFFFFFFFFFFFF 0) := by unfold TrapsHere; decide +kernel

/-- A frame of two words in three passes. -/
def frameAt (idx pass : Nat) : Frame := { base := 4, len := 2, count := 3, stagger := 0, stride := 1, pass := pass, idx := idx, buf := [] }

/-- RepeatFrameResult: no frame; the first word, the last word of a pass, and the last word of the last pass. -/
theorem witness_RepeatFrameResult :
    State.reset.me.frame = none
    ∧ arithResult (me fun x => { x with frame := some (frameAt 0 0) }) (.add 1 2 3 0) = some (1, 0, 0)
    ∧ (me fun x => { x with frame := some (frameAt 0 0) }).me.frame = some (frameAt 0 0)
    ∧ ((frameAt 0 0).idx + 1 < (frameAt 0 0).len)
    ∧ ((frameAt 1 1).len ≤ (frameAt 1 1).idx + 1 ∧ (frameAt 1 1).pass + 1 < (frameAt 1 1).count)
    ∧ ((frameAt 1 2).len ≤ (frameAt 1 2).idx + 1 ∧ (frameAt 1 2).count ≤ (frameAt 1 2).pass + 1) := by decide +kernel

/-- A core whose `c.troute` routes causes 0x12 and 0x14. -/
def routing : State := State.reset.modCore Coord.zero fun k => { k with troute := 0x140000 }

/-- A slot in its handler. -/
def handling : State := me fun x => { x with status := 4 }

/-- TrapEntry: a trap at the slot's own handler, a routed one, and a double trap; slot 13 outside a service. -/
theorem witness_TrapEntry :
    TrapsHere 0x14 State.reset ∧ TrapsHere 0x12 State.reset
    ∧ routing.routed routing.cur 0x12 = true ∧ routing.routed routing.cur 0x14 = true
    ∧ handling.me.status.getLsbD 2 = true ∧ handling.cur.slot ≠ 13 ∧ (handling.core handling.cur).serving = none
    ∧ handling.routed handling.cur 0x14 = false ∧ handling.routed handling.cur 0x12 = false := by
  unfold TrapsHere; decide +kernel

/-- R328: a `trap` in the handler retires the slot with FAULT. -/
theorem test_double_trap :
    after (.trap 5) (handling.modMe fun x => { x with live := true })
      (fun t => !t.me.live && t.me.retired == some .fault) = true := by decide +kernel

/-- A privileged slot. -/
def priv : State := me fun x => { x with status := 1 }

/-- Slot 13 of core 0 serves slot 2, which waits at `c.epc` 12; slot 3 is queued, or not. -/
def servicing (gone queued : Bool) : State :=
  let c := Coord.zero.at 13
  let held (epc : Dword) : Slot := { Slot.reset with live := true, hold := some (.service 0x14 0), epc := epc }
  let s : State := { State.reset with cur := c }
  let s := (s.setSlot c { Slot.reset with live := true, status := 1 }).setSlot (c.at 2) (held 12)
  let s := if queued then s.setSlot (c.at 3) (held 16) else s
  s.modCore c fun k => { k with serving := some 2, servedGone := gone }

/-- EretReturns: an ordinary slot; slot 13 in a service, with the served task there or gone. -/
theorem witness_EretReturns :
    priv.privileged priv.cur = true ∧ priv.cur.slot ≠ 13
    ∧ ((servicing false true).privileged (servicing false true).cur = true ∧ (servicing false true).cur.slot = 13
      ∧ ((servicing false true).core (servicing false true).cur).serving = some 2
      ∧ (servicing false true).me.status.getLsbD 2 = false
      ∧ ((servicing false true).core (servicing false true).cur).servedGone = false
      ∧ ((servicing false true).slot ((servicing false true).cur.at 2)).hold = some (.service 0x14 0))
    ∧ ((servicing true false).privileged (servicing true false).cur = true
      ∧ ((servicing true false).core (servicing true false).cur).servedGone = true) := by decide +kernel

/-- R332: `eret` of slot 13 sends the served slot to its `c.epc`, and slot 13 is no longer live. -/
theorem test_eret_ends_a_service :
    after .eret (servicing false false) (fun t =>
      (t.slot (Coord.zero.at 2)).pc == 12 && (t.slot (Coord.zero.at 2)).hold == none && !t.me.live
        && (t.core Coord.zero).serving == none) = true := by decide +kernel

theorem witness_PrivilegeTrap :
    ([.segw 0 1 2, .ptbw 1 2, .invt 1, .eret, .csrw 1 0x01, .csrw 1 0xC8, .csrr 1 0x61, .csrr 1 0xC7] : List Instr).all
        privilegedInstr = true
    ∧ State.reset.privileged State.reset.cur = false ∧ TrapsHere 0x02 State.reset := by unfold TrapsHere; decide +kernel

/-- CsrReadValue and CsrWriteValue: each register by a slot that may read or write it. -/
theorem witness_CsrAccess :
    let s13 : State := (servicing false false)
    let s15 : State := (State.reset.setSlot (Coord.zero.at 15) { Slot.reset with status := 1 })
    let s15 : State := { s15 with cur := Coord.zero.at 15 }
    (([0x00, 0x01, 0x02, 0x03, 0x04, 0x05, 0x06, 0x07, 0x08, 0x09, 0x0A, 0x0B, 0x0C, 0x0D, 0x0E, 0x0F, 0x10, 0x11, 0x40, 0x41, 0x43,
      0x44, 0x60, 0x61, 0x62, 0x63, 0x64, 0x65, 0x80, 0x81, 0x83, 0x84, 0x85, 0x86, 0x88, 0x89, 0x8A, 0x8B, 0x8C, 0xA0, 0xA1, 0xA2, 0xA3, 0xA4, 0xC0,
      0xC1, 0xC2, 0xC3, 0xC4, 0xC5, 0xC6, 0xC7, 0xC8] : List Nat).all (fun n => (plainCsr priv n).isSome) = true)
    ∧ plainCsr s13 0x42 = some 12 ∧ s13.cur.slot = 13 ∧ (s13.core s13.cur).serving = some 2 ∧ s13.privileged s13.cur = true
    ∧ (([0x01, 0x02, 0x03, 0x04, 0x05, 0x06, 0x07, 0x0A, 0x0B, 0x0C, 0x0F, 0x10] : List Nat).all
        (fun n => (wroteSlotCsr priv.me (priv.rg 1) n).isSome) = true)
    ∧ (wroteSlotCsr s15.me (s15.rg 1) 0x0D).isSome = true ∧ s15.cur.slot = 15
    ∧ (([0x43, 0x44] : List Nat).all (fun n => (wroteCoreCsr (priv.core priv.cur) (priv.rg 1) n).isSome) = true)
    ∧ (([0x61, 0x62, 0x63, 0x66] : List Nat).all (fun n => (wroteClusterCsr (priv.cluster priv.cur) (priv.rg 1) n).isSome) = true)
    ∧ priv.cur.slot = 0 ∧ priv.privileged priv.cur = true ∧ priv.port = [] := by decide +kernel

/-- MayExecute is met by each of those slots. -/
theorem witness_MayExecute (x : BitVec 5) :
    MayExecute priv (.csrw x 0x01) ∧ MayExecute priv (.csrw x 0x87) ∧ MayExecute priv (.csrw x 0xC0) ∧ MayExecute priv (.csrw x 0x64) ∧ MayExecute priv (.csrr x 0x61)
    ∧ MayExecute (servicing false false) (.csrw x 0x42) := by
  have h : priv.privileged priv.cur = true ∧ priv.cur.slot = 0 := by decide +kernel
  have k : (servicing false false).cur.slot = 13 ∧ ((servicing false false).core (servicing false false).cur).serving ≠ none := by
    decide +kernel
  have p : (servicing false false).privileged (servicing false false).cur = true := by decide +kernel
  simp [MayExecute, h, k, p, privilegedInstr, privilegedWrites]

/-- CsrTableWrite: each plain register of die, device and VF; a knot's word, a row, and a row that does not exist; a capacity that fits
and one that does not. -/
theorem witness_CsrTableWrite :
    let d (f : Die → Die) : State := priv.modDie 0 f
    let long : State := d id |>.modMe (·.wg 1 0x7FFF)
    let sum (s : State) : Nat :=
      (List.range 64).foldl (fun m i => m + if i = 0 then fldN (s.rg 1) 0 15 else ((s.die 0).queue i).cap) 0
    (([0x81, 0x83, 0x85, 0x86, 0x88, 0x89, 0x8B, 0xC5] : List Nat).all (fun n => (wroteDieCsr (priv.die 0) (priv.rg 1) 0 n).isSome) = true)
    ∧ (([0xA1, 0xA3] : List Nat).all (fun n => (wroteDeviceCsr priv.dev (priv.rg 1) n).isSome) = true)
    ∧ (([0xC6, 0xC7, 0xC8] : List Nat).all (fun n => (wroteVfCsr (priv.vf 0) (priv.rg 1) n).isSome) = true)
    ∧ (fldN (priv.die 0).knsel 8 6 = 0 ∧ fldN (priv.die 0).knsel 6 2 = 0)
    ∧ (fldN ((d fun x => { x with knsel := 0x40 }).die 0).knsel 6 2 = 1 ∧ fldN ((d fun x => { x with knsel := 0x40 }).die 0).knsel 0 6 = 0
      ∧ 0 < clusterCount 0)
    ∧ fldN ((d fun x => { x with knsel := 0x2800 }).die 0).knsel 8 6 = 40
    ∧ 0 = (priv.die 0).qsel.toNat ∧ (fldN (priv.rg 1) 0 15 ≤ 16384 ∧ sum priv ≤ 16384) ∧ ¬ fldN (long.rg 1) 0 15 ≤ 16384 := by decide +kernel

/-- CsrTableWrite: the arenas of a live strand and of none; a counter; a capacity of the skeins with and without a skein; peers that are
reached and not; a domain word; a region; `c.vmroot` with and without users. -/
theorem witness_CsrTableWrite_entries :
    let d (f : Die → Die) : State := priv.modDie 0 f
    let live : StrandEntry := { StrandEntry.reset with state := .live, id := 9 }
    let st := d fun x => { x with stsel := 0x60005, strands := Sparse.set [] 5 live }
    let sk := d fun x => { x with dirs := Sparse.set [] 0 [{ name := 3, made := 1, back := 0, size := 1, banks := false, matrixDies := false
                                                             shares := [], lastAttach := 0, prevAttach := 0, pinned := false
                                                             state := .evicted, placed := 0, attached := [] }] }
    let down : State := { priv with dev := { priv.dev with portsDown := 1 } }
    let e : Dword := BitVec.ofNat 64 (2 ^ 63 + 2 ^ 42)
    let u : State := { priv with tcache := [{ port := 0, vf := 0, host := false, page := 0, sub := false, leaf := 0, users := [], stale := false }] }
    (fldN (st.die 0).stsel 0 13 = 5 ∧ fldN (st.die 0).stsel 16 4 = 6 ∧ Sparse.get (st.die 0).strands 5 StrandEntry.reset = live
      ∧ live.isLive = true ∧ live.isPly = false)
    ∧ (Sparse.get (priv.die 0).strands 0 StrandEntry.reset).isLive = false
    ∧ (fldN (priv.die 0).annsel 16 9 = 0 ∧ fldN (priv.die 0).annsel 0 4 = 0)
    ∧ ((priv.die 0).skvf.toNat = 0 ∧ (∀ i : BitVec 3, Sparse.get (priv.die i).dirs 0 [] = []) ∧ Sparse.get (sk.die 0).dirs 0 [] ≠ [])
    ∧ (fld (0 : Dword) 42 12 = 0#12 ∧ fld e 42 12 &&& ~~~priv.dev.portsDown ≠ 0#12 ∧ fld e 42 12 ≠ 0#12
      ∧ fld e 42 12 &&& ~~~down.dev.portsDown = 0#12 ∧ fld (2 ^ 42 : Dword) 42 12 &&& ~~~down.dev.portsDown = 0#12)
    ∧ (fldN priv.dev.domsel 16 9 = 0 ∧ fldN priv.dev.domsel 0 3 = 0)
    ∧ priv.port = [] ∧ priv.tcache = [] ∧ ∃ x ∈ u.tcache, x.vf = u.me.vf := by decide +kernel

/-- CsrWriteValue: `c.shrx` and `c.shtx` while a send is in flight to and from the cluster, and while none is. -/
theorem witness_ring_writes :
    let x : Send := { src := { p := 0, seg := localSeg 0 }, srcAddr := localAddr 0 0, count := 16, head := 0, held := false, strand := 0, core := 0
                      slot := 0, seq := 0, num := 1, vf := 0, waits := false, cut := false, started := true, moved := 0, status := 0, trailed := false }
    let s := priv.modCluster Coord.zero fun c => { c with sends := [x] }
    let r := priv.modCluster { Coord.zero with die := 4 } fun c => { c with sends := [x] }
    priv.receiving priv.cur = false ∧ (priv.cluster priv.cur).sending = false
    ∧ (s.cluster s.cur).sending = true ∧ r.receiving r.cur = true := by decide +kernel

/-- A privileged slot with a device segment in sg0, and a translation of its VF's first page in use. -/
def invalidating (users : List TEntry) : State :=
  { me (fun x => { x with status := 1, sg := x.sg.set 0 (BitVec.ofNat 128 ((4 * 2 ^ 60 + 2 ^ 48 - 1) * 2 ^ 64)) }) with tcache := users }

def usedPage : TEntry := { port := 0, vf := 0, host := false, page := 0, sub := false, leaf := 0, users := [(0, 0, 1)], stale := false }

/-- A privileged slot whose core maps logical block 0 in entry 5, or in none. -/
def mapping (mapped : Bool) (g2 : Dword) : State :=
  (me fun x => ({ x with status := 1 } : Slot).wg 2 g2).modCore Coord.zero fun k =>
    if mapped then { k with ptb := k.ptb.set 5 { valid := true, logical := 0, physical := 9 } } else k

/-- SegmentAndTranslation: `ptbw` that replaces, that takes the victim, that clears, and that finds nothing to clear. -/
theorem witness_TranslationBufferWrite :
    (mapping true 0).privileged (mapping true 0).cur = true
    ∧ ((mapping true 0x8000000000000007).rg 2).getLsbD 63 = true ∧ ((mapping true 0).rg 2).getLsbD 63 = false
    ∧ (((mapping true 0).core Coord.zero).ptb.get 5).valid = true
    ∧ (((mapping true 0).core Coord.zero).ptb.get 5).logical = ((mapping true 0).rg 1).setWidth 52
    ∧ ∀ i, (((mapping false 0).core Coord.zero).ptb.get i).valid = false := by decide +kernel

/-- R333: an entry of the same logical block is replaced and the victim stays. -/
theorem test_ptbw_replaces :
    after (.ptbw 1 2) (mapping true 0x8000000000000007) (fun t =>
      (t.core Coord.zero).ptb.get 5 == { valid := true, logical := 0, physical := 7 } && (t.core Coord.zero).victim == 0) = true := by
  decide +kernel

/-- SegmentAndTranslation: nobody uses a translation; one of the page is in use; another kind; an offset of more than 48 bits. -/
theorem witness_InvalidateWaitsForUsers :
    let s := invalidating []
    let u := invalidating [usedPage]
    let far := (invalidating []).modMe fun x => x.wg 1 0x0001000000000000
    (s.privileged s.cur = true ∧ Quiet s ∧ s.kindOf (s.rg 1) = 4 ∧ fldN (s.rg 1) 48 12 = 0
      ∧ ¬ TranslationInUse s (s.kindOf (s.rg 1) == 6) (s.invtPage (s.rg 1)))
    ∧ (u.privileged u.cur = true ∧ Quiet u ∧ u.kindOf (u.rg 1) = 4
      ∧ TranslationInUse u (u.kindOf (u.rg 1) == 6) (u.invtPage (u.rg 1)))
    ∧ (priv.kindOf (priv.rg 1) ≠ 4 ∧ priv.kindOf (priv.rg 1) ≠ 6 ∧ TrapsHere 0x06 priv)
    ∧ (far.kindOf (far.rg 1) = 4 ∧ fldN (far.rg 1) 48 12 ≠ 0 ∧ TrapsHere 0x05 far) := by
  unfold Quiet TrapsHere TranslationInUse; decide +kernel

/-- A launch with one live crew, on cores 0 and 1 of cluster 0. -/
def pairLaunch : Launch :=
  { id := 1, vf := 0, packet := Vector.replicate 16 0, segs := Vector.replicate 8 0, skeins := [], supervisor := false, pending := [], order := 1
    crews := [{ launch := 1, index := 0, cluster := 0, cores := [0, 1], started := true, retired := false }] }

/-- Slot 0 of cores 0 and 1 in that crew, that of core 1 held in `ralign` at offset 0 (or not). -/
def aligning (held : Bool) : State :=
  let x : Slot := { Slot.reset with live := true, launch := some 1, lastIssue := some 0 }
  ((State.reset.modDie 0 fun d => { d with launches := [pairLaunch] }).setSlot Coord.zero x).setSlot { Coord.zero with core := 1 }
    { x with hold := if held then some (.ralign 0 0) else none }

/-- R91, R235: a slot outside the crew's cores is no peer, whatever its `c.crew` says, and one with hint 0xFFFF of the launch is one. -/
theorem test_peers_are_the_crew_cores :
    let x : Slot := { Slot.reset with live := true, launch := some 1 }
    ((aligning false).setSlot { Coord.zero with core := 2 } x).peers Coord.zero = [{ Coord.zero with core := 1 }]
    ∧ ((aligning false).modSlot { Coord.zero with core := 1 } fun y => { y with crew := 0xFFFF000000000000 }).peers Coord.zero
        = [{ Coord.zero with core := 1 }] := by decide +kernel

theorem witness_WaitingAndWaking :
    State.reset.me.wakeLatch = false ∧ (me fun x => { x with wakeLatch := true }).me.wakeLatch = true
    ∧ (∃ w ∈ (aligning false).peers (aligning false).cur, ((aligning false).slot w).heldAt (aligning false).me.pc = false)
    ∧ (aligning true).peers (aligning true).cur ≠ []
    ∧ (∀ w ∈ (aligning true).peers (aligning true).cur, ((aligning true).slot w).heldAt (aligning true).me.pc = true)
    ∧ (let s1 := (aligning true).modMe fun x => { x with hold := some (.ralign 1 0) }
       s1.inStep s1.cur = [Coord.zero, { Coord.zero with core := 1 }] ∧ s1.alignedAll { Coord.zero with core := 1 } = true
         ∧ ∀ w ∈ s1.inStep s1.cur, ((aligning true).slot w).lastIssue.isSome)
    ∧ Quiet State.reset ∧ (Coord.ofBits (State.reset.rg 1)).ok = true
    ∧ fld (State.reset.rg 1) 16 9 = State.reset.dev.devno
    ∧ (Coord.ofBits ((g12 (63 * 128) 0).rg 1)).ok = false ∧ TrapsHere 0x05 (g12 (63 * 128) 0) := by
  unfold Quiet TrapsHere; decide +kernel

/-! ### Accesses -/

/-- Local memory with word 0 poisoned. -/
def poisonedLocal : State := { withLocal 0 id with mem := Memory.reset.setTag (localAddr 0 0) 3 }

/-- An access on the slot's own die is accepted there. -/
theorem accepted_at_home {s : State} {pl : Place} (h : (pl.addrs.all fun a => homeDie a == some s.cur.die.toNat) = true) :
    Accepted s pl := by
  intro a ha d hd
  have e : d = s.cur.die.toNat := by
    have := List.all_eq_true.1 h a ha
    rw [hd] at this
    simpa using this
  simp [State.cross, State.crossWith, e]

/-- The access of `n` bytes at `p` is at home and no home refuses it. -/
def grantedHere (s : State) (p : Dword) (n : Nat) (rights : BitVec 4) (pl : Place) : Bool :=
  decide (s.dataPlace s.cur p n rights = .ok pl) && pl.peer.isNone && (pl.addrs.all fun a => homeDie a == some s.cur.die.toNat)
    && decide (firstRefused s.mem s.cur.clusterKey pl.addrs = none)

theorem granted_of {s : State} {p : Dword} {n : Nat} {rights : BitVec 4} {pl : Place} (h : grantedHere s p n rights pl = true) :
    Granted s p n rights pl := by
  simp only [grantedHere, Bool.and_eq_true, decide_eq_true_eq, Option.isNone_iff_eq_none] at h
  exact ⟨h.1.1.1, h.1.1.2, accepted_at_home h.1.2, h.2⟩

/-- LoadResultAndTraps: scalar loads of 1 and 8 bytes, the last of local memory among them; a mask and a vector; with a prefix. -/
theorem witness_LoadResult :
    let s := withLocal 0 fun x => x.wg 1 0xFFF8
    let fits (pl : Place) : Bool := !(settled s pl).pendingAt pl && (atHomes (settled s pl) pl).2
      && (firstRefused (atHomes (settled s pl) pl).1.mem (atHomes (settled s pl) pl).1.cur.clusterKey pl.addrs).isNone
    (prefixFits none (.ld 3 1 0 0 7) ∧ prefixFits (some (1, 0x50610000)) (.ld 3 1 0 0 0))
    ∧ (mPtr s none 1 7 1).toNat % 2 ^ 0 = 0 ∧ s.dataPlace s.cur (mPtr s none 1 7 1) 1 rightR = .ok (localPlace 0 0xFFFF 1)
    ∧ fits (localPlace 0 0xFFFF 1) = true
    ∧ (mPtr s none 1 0 8).toNat % 8 = 0 ∧ s.dataPlace s.cur (mPtr s none 1 0 8) 8 rightR = .ok (localPlace 0 0xFFF8 8)
    ∧ fits (localPlace 0 0xFFF8 8) = true
    ∧ (mPtr s none 0 1 64).toNat % 64 = 0 ∧ s.dataPlace s.cur (mPtr s none 0 1 64) 64 rightR = .ok (localPlace 0 64 64)
    ∧ fits (localPlace 0 64 64) = true := by
  refine ⟨?_, by decide +kernel⟩
  unfold prefixFits; decide +kernel

/-- Slot 0 of strand 5, which has ended on die 1, with an xcluster segment and a pointer to core 0 there. -/
def strayed : State :=
  let x : StrandEntry := { StrandEntry.reset with id := 5, state := .ended false }
  (me fun y => { y.wg 1 0x0200000000000000 with
    strand := 5, sg := y.sg.set 0 (BitVec.ofNat 128 ((3 * 2 ^ 60 + 15 * 2 ^ 56 + 2 ^ 16) * 2 ^ 64)) }).modDie 1
      fun d => { d with strands := d.strands.set 0 x }

def strayPlace : Place :=
  { addrs := (List.range 8).map (localAddr 512 0 + ·), peer := none, policy := 0, xcl := true, pages := [] }

/-- LoadResultAndTraps: a misaligned pointer, one past the limit, a poisoned word, and a die that drops the access. -/
theorem witness_LoadTraps :
    let s := withLocal 0 fun x => x.wg 1 0xFFFF
    let q := poisonedLocal
    ((mPtr s none 1 0 2).toNat % 2 ≠ 0 ∧ TrapsHere 0x04 s)
    ∧ ((mPtr s none 1 1 1).toNat % 1 = 0 ∧ s.dataPlace s.cur (mPtr s none 1 1 1) 1 rightR = .error (.trap 0x05 0x10000)
      ∧ TrapsHere 0x05 s)
    ∧ ((mPtr q none 0 0 8).toNat % 8 = 0 ∧ Quiet q ∧ q.dataPlace q.cur (mPtr q none 0 0 8) 8 rightR = .ok (localPlace 0 0 8)
      ∧ Accepted q (localPlace 0 0 8)
      ∧ firstRefused q.mem q.cur.clusterKey (locals 0 8) = some (0x09, 0) ∧ TrapsHere 0x09 q)
    ∧ ((mPtr strayed none 1 0 8).toNat % 8 = 0 ∧ Quiet strayed
      ∧ strayed.dataPlace strayed.cur (mPtr strayed none 1 0 8) 8 rightR = .ok strayPlace
      ∧ strayPlace.peer = none ∧ (atHomes strayed strayPlace).2 = false) := by
  refine ⟨?_, ?_, ?_, by unfold Quiet; decide +kernel⟩
  · unfold TrapsHere; decide +kernel
  · unfold TrapsHere; decide +kernel
  · unfold TrapsHere Quiet
    exact ⟨by decide +kernel, by decide +kernel, by decide +kernel, accepted_at_home (by decide +kernel), by decide +kernel,
      by decide +kernel⟩

/-- StoreIsPosted: a release dword, and a vector. -/
theorem witness_StoreIsPosted :
    let s := withLocal 0 id
    (prefixFits none (.st 3 0 6 1 1) ∧ prefixFits none (.vst 3 0 0 1))
    ∧ (∃ bytes tag, storeForm s none (.st 3 0 6 1 1) = some (0, 1, 8, true, bytes, tag, true))
    ∧ (∃ bytes, storeForm s none (.vst 3 0 0 1) = some (0, 1, 64, false, bytes, 0, false))
    ∧ (mPtr s none 0 1 8).toNat % 8 = 0 ∧ s.dataPlace s.cur (mPtr s none 0 1 8) 8 rightW = .ok (localPlace 0 8 8)
    ∧ locals 8 8 ≠ [] ∧ (localPlace 0 8 8).waited = false ∧ Quiet s
    ∧ (mPtr s none 0 1 64).toNat % 64 = 0 ∧ s.dataPlace s.cur (mPtr s none 0 1 64) 64 rightW = .ok (localPlace 0 64 64)
    ∧ locals 64 64 ≠ [] ∧ (localPlace 0 64 64).waited = false := by
  refine ⟨?_, ⟨_, _, rfl⟩, ⟨_, rfl⟩, ?_⟩
  · unfold prefixFits; decide +kernel
  · unfold Quiet; decide +kernel

/-- WaitedStoreAndEscape: a reference without bit 60 into a published line of a policy-11 segment, and one with it. -/
theorem witness_WaitedStoreAndEscape :
    let s := withLocal 3 id
    let q := withLocal 3 fun x => x.wg 3 (1 <<< 60)
    (Quiet s ∧ (mPtr s none 0 0 8).toNat % 8 = 0 ∧ Granted s (mPtr s none 0 0 8) 8 rightW (localPlace 3 0 8)
      ∧ (localPlace 3 0 8).waited = true ∧ s.storeTag (mPtr s none 0 0 8) (s.rg 3) = 1 ∧ (s.rg 3).getLsbD 60 = false
      ∧ s.mem.ownerOf (localAddr 0 0) = none ∧ TrapsHere 0x08 s)
    ∧ (q.mem.wf = true ∧ Quiet q ∧ Granted q (mPtr q none 0 0 8) 8 rightW (localPlace 3 0 8)
      ∧ escapes q.mem (locals 0 8) (q.storeTag (mPtr q none 0 0 8) (q.rg 3)) (q.rg 3) = false)
    ∧ ∃ bytes tag, storeForm q none (.st 3 0 6 0 0) = some (0, 0, 8, false, bytes, tag, true) := by
  unfold Quiet TrapsHere
  exact ⟨⟨by decide +kernel, by decide +kernel, granted_of (by decide +kernel), by decide +kernel⟩,
    ⟨by decide +kernel, by decide +kernel, granted_of (by decide +kernel), by decide +kernel⟩, _, _, rfl⟩

/-- FullEmptyAccess: a full dword and word for `ldf`, an empty one for `ste`. -/
theorem witness_FullEmptyAccess :
    let s : State := { withLocal 0 id with mem := Memory.reset.setFull (localAddr 0 0) true }
    let q := withLocal 0 id
    (s.mem.wf = true ∧ Quiet s ∧ locals 0 8 ≠ [] ∧ (∀ w ∈ s.feq, w.word ≠ localAddr 0 0 / 8)
      ∧ s.kindOf (mPtr s none 0 0 8) ∉ [4#4, 5#4, 6#4] ∧ (mPtr s none 0 0 8).toNat % 8 = 0
      ∧ Granted s (mPtr s none 0 0 8) 8 12 (localPlace 0 0 8) ∧ Granted s (mPtr s none 0 0 4) 4 12 (localPlace 0 0 4)
      ∧ s.mem.isFull (localAddr 0 0) = true)
    ∧ (q.mem.wf = true ∧ Quiet q ∧ (∀ w ∈ q.feq, w.word ≠ localAddr 0 0 / 8) ∧ q.kindOf (mPtr q none 0 0 8) ∉ [4#4, 5#4, 6#4]
      ∧ Granted q (mPtr q none 0 0 8) 8 4 (localPlace 0 0 8) ∧ Granted q (mPtr q none 0 0 4) 4 4 (localPlace 0 0 4)
      ∧ q.mem.isFull (localAddr 0 0) = false) := by
  unfold Quiet
  exact ⟨⟨by decide +kernel, by decide +kernel, by decide +kernel, by decide +kernel, by decide +kernel, by decide +kernel,
      granted_of (by decide +kernel), granted_of (by decide +kernel), by decide +kernel⟩,
    by decide +kernel, by decide +kernel, by decide +kernel, by decide +kernel,
    granted_of (by decide +kernel), granted_of (by decide +kernel), by decide +kernel⟩

/-- ScalarAtomicResult: every operation; on 32 and 64 bits; a `cas` that matches and one that does not. -/
theorem witness_ScalarAtomicResult :
    let s := withLocal 0 fun x => x.wg 5 1
    ([.aswp 1 2 3 0 0, .aadd 1 2 3 0 0, .aand 1 2 3 0 0, .aor 1 2 3 0 0, .axor 1 2 3 0 0, .amin 1 2 3 1 0, .amax 1 2 3 1 1,
      .aminu 1 2 3 0 2, .amaxu 1 2 3 2 3, .cas 1 2 3 2 0] : List Instr).all (fun i => (atomicForm i).isSome) = true
    ∧ s.mem.wf = true ∧ Quiet s ∧ (s.rg 2).toNat % (32 / 8) = 0 ∧ (s.rg 2).toNat % (64 / 8) = 0 ∧ s.kindOf (s.rg 2) ≠ 6
    ∧ Granted s (s.rg 2) (32 / 8) 13 (localPlace 0 0 4) ∧ (localPlace 0 0 4).addrs.length = 32 / 8
    ∧ Granted s (s.rg 2) (64 / 8) 13 (localPlace 0 0 8) ∧ (localPlace 0 0 8).addrs.length = 64 / 8
    ∧ (localPlace 0 0 8).policy ≠ 3
    ∧ (BitVec.ofNat 64 (leNat ((locals 0 8).map s.mem.byte)) : Dword) = (s.rg 1).setWidth 64
    ∧ (BitVec.ofNat 64 (leNat ((locals 0 8).map s.mem.byte)) : Dword) ≠ (s.rg 5).setWidth 64 := by
  unfold Quiet
  exact ⟨by decide +kernel, by decide +kernel, by decide +kernel, by decide +kernel, by decide +kernel, by decide +kernel,
    granted_of (by decide +kernel), by decide +kernel, granted_of (by decide +kernel), by decide +kernel, by decide +kernel,
    by decide +kernel, by decide +kernel⟩

/-- Slot 0 with a local segment of policy 00. -/
def plainLocal : State := withLocal 0 id

/-- ElementStoresArePosted: 16 consecutive words. -/
theorem witness_masked_store :
    (elemForm (.vstMasked 1 2 0 0) = some (2, none, 0, 0, 1, false) ∧ (Instr.vstMasked 1 2 0 0).wf = true
      ∧ plainLocal.pump plainLocal.cur = plainLocal ∧ (plainLocal.rg 2).toNat % (elemWidth 0 / 8) = 0)
    ∧ ∀ j ∈ activeEls 0 (plainLocal.rk 0), (elPtr plainLocal 2 none 0 j).toNat % (elemWidth 0 / 8) = 0
          ∧ plainLocal.dataPlace plainLocal.cur (elPtr plainLocal 2 none 0 j) (elemWidth 0 / 8) rightW = .ok (localPlace 0 (4 * j) 4)
          ∧ (localPlace 0 (4 * j) 4).peer = none ∧ (localPlace 0 (4 * j) 4).waited = false ∧ (localPlace 0 (4 * j) 4).addrs ≠ [] := by
  refine ⟨by decide +kernel, by decide +kernel⟩

/-- ElementStoresArePosted: 8 dwords at one offset. -/
theorem witness_scatter :
    (elemForm (.vscatter 1 2 3 0 9) = some (2, some 3, 0, 9, 1, false) ∧ (Instr.vscatter 1 2 3 0 9).wf = true)
    ∧ ∀ j ∈ activeEls 9 (plainLocal.rk 0), (elPtr plainLocal 2 (some 3) 9 j).toNat % (elemWidth 9 / 8) = 0
          ∧ plainLocal.dataPlace plainLocal.cur (elPtr plainLocal 2 (some 3) 9 j) (elemWidth 9 / 8) rightW = .ok (localPlace 0 0 8)
          ∧ (localPlace 0 0 8).waited = false ∧ (localPlace 0 0 8).addrs ≠ [] := by
  refine ⟨by decide +kernel, by decide +kernel⟩

/-- ElementStoresArePosted: each vector atomic, over 16 words. -/
theorem witness_vector_atomic :
    ([.vaadd 2 1 0 9, .vamin 2 1 0 2, .vamax 2 1 0 0, .vaand 2 1 0 3, .vaor 2 1 0 4, .vaxor 2 1 0 8] : List Instr).all
        (fun i => (vatomicForm i).isSome && i.wf) = true
    ∧ (vatomicForm (.vaadd 2 1 0 0) = some (2, 1, 0, 0, 4) ∧ (plainLocal.rg 2).toNat % (elemWidth 0 / 8) = 0
      ∧ plainLocal.kindOf (plainLocal.rg 2) ≠ 6 ∧ plainLocal.me.elems = [] ∧ plainLocal.pump plainLocal.cur = plainLocal)
    ∧ ∀ j ∈ activeEls 0 (plainLocal.rk 0),
        plainLocal.dataPlace plainLocal.cur (elPtr plainLocal 2 none 0 j) (elemWidth 0 / 8) 13 = .ok (localPlace 0 (4 * j) 4)
          ∧ (localPlace 0 (4 * j) 4).waited = false := by
  refine ⟨by decide +kernel, by decide +kernel, by decide +kernel⟩

/-- LineInstructions: the last line of local memory, PRIVATE to the slot's cluster. -/
theorem witness_LineInstructions :
    let s : State := { withLocal 3 (fun x => x.wg 1 0xFF80) with mem := Memory.reset.zeroLine (localAddr 0 0xFF80 / 128) (some 0) }
    s.mem.wf = true ∧ Quiet s ∧ (s.rg 1).toNat % 128 = 0 ∧ (localPlace 3 0xFF80 128).addrs ≠ []
    ∧ Granted s (s.rg 1) 128 rightW (localPlace 3 0xFF80 128)
    ∧ s.dataPlace s.cur (s.rg 1) 128 rightR = .ok (localPlace 3 0xFF80 128)
    ∧ s.mem.ownerOf (localAddr 0 0xFF80) = some s.cur.clusterKey
    ∧ (Memory.reset.zeroLine (localAddr 0 0xFF80 / 128) (some 5)).ownerOf (localAddr 0 0xFF80) = some 5 ∧ 5 ≠ s.cur.clusterKey ∧ TrapsHere 0x07 s := by
  unfold Quiet TrapsHere
  exact ⟨by decide +kernel, by decide +kernel, by decide +kernel, by decide +kernel, granted_of (by decide +kernel),
    by decide +kernel, by decide +kernel⟩

/-- FenceResult: nothing recorded; blocks of this device's number, of another's and of the die in the cache, and a slot that waits for one; a record. -/
theorem witness_FenceResult :
    let q := me fun x => { x with rfault := 0x8009000000000000 }
    let own := 2 ^ 60 + State.reset.dev.devno.toNat * 2 ^ 43
    let far := 2 ^ 60 + 5 * 2 ^ 43
    let p := (State.reset.modCluster State.reset.cur fun x => { x with icache := [(own, []), (far, []), (5, [])] }).setSlot (Coord.zero.at 3)
      { Slot.reset with hold := some (.load .fetchBlockDelivery 8 State.reset.dev.devno) }
    (Quiet State.reset ∧ State.reset.me.rfault.getLsbD 63 = false ∧ (2 : BitVec 2).getLsbD 0 = false)
    ∧ (Quiet p ∧ p.me.rfault.getLsbD 63 = false ∧ (1 : BitVec 2).getLsbD 0 = true
      ∧ (after (.fence 1 4) p fun t => (t.cluster p.cur).icache == [(5, [])]) = true
      ∧ (after (.fence 1 2) p fun t => (t.cluster p.cur).icache == [(far, []), (5, [])]
          && (t.slot (Coord.zero.at 3)).hold == some (.refetch 8 State.reset.dev.devno)) = true)
    ∧ (Quiet q ∧ q.me.rfault.getLsbD 63 = true ∧ (0x0A : BitVec 8) = (if fld q.me.rfault 48 8 = 0x0B#8 then 0x0B else 0x0A)
      ∧ TrapsHere 0x0A q) := by unfold Quiet TrapsHere; decide +kernel

/-- ElementAndTableLoad: 16 words, a gather at one offset, and a table image. -/
theorem witness_ElementAndTableLoad :
    (elemForm (.vldMasked 1 2 0 0) = some (2, none, 0, 0, 1, true) ∧ (Instr.vldMasked 1 2 0 0).wf = true
      ∧ (plainLocal.rg 2).toNat % (elemWidth 0 / 8) = 0 ∧ elemForm (.vgather 1 2 3 0 9) = some (2, some 3, 0, 9, 1, true))
    ∧ Quiet plainLocal
    ∧ (∀ j ∈ activeEls 0 (plainLocal.rk 0), (elPtr plainLocal 2 none 0 j).toNat % (elemWidth 0 / 8) = 0
          ∧ Granted plainLocal (elPtr plainLocal 2 none 0 j) (elemWidth 0 / 8) rightR (localPlace 0 (4 * j) 4)
          ∧ (localPlace 0 (4 * j) 4).addrs.length = elemWidth 0 / 8)
    ∧ (∀ j ∈ activeEls 9 (plainLocal.rk 0),
        Granted plainLocal (elPtr plainLocal 2 (some 3) 9 j) (elemWidth 9 / 8) rightR (localPlace 0 0 8))
    ∧ Granted plainLocal (plainLocal.rg 2) 1024 rightR (localPlace 0 0 1024) ∧ (localPlace 0 0 1024).addrs.length = 1024
    ∧ plainLocal.kindOf (plainLocal.rg 2) ≠ 5 := by
  have words : ∀ j ∈ activeEls 0 (plainLocal.rk 0), (elPtr plainLocal 2 none 0 j).toNat % (elemWidth 0 / 8) = 0
      ∧ grantedHere plainLocal (elPtr plainLocal 2 none 0 j) (elemWidth 0 / 8) rightR (localPlace 0 (4 * j) 4) = true
      ∧ (localPlace 0 (4 * j) 4).addrs.length = elemWidth 0 / 8 := by decide +kernel
  have dwords : ∀ j ∈ activeEls 9 (plainLocal.rk 0),
      grantedHere plainLocal (elPtr plainLocal 2 (some 3) 9 j) (elemWidth 9 / 8) rightR (localPlace 0 0 8) = true := by
    decide +kernel
  unfold Quiet
  exact ⟨⟨rfl, rfl, by decide +kernel, rfl⟩, by decide +kernel,
    fun j hj => ⟨(words j hj).1, granted_of (words j hj).2.1, (words j hj).2.2⟩, fun j hj => granted_of (dwords j hj),
    granted_of (by decide +kernel), by decide +kernel, by decide +kernel⟩

/-! ### Vectors -/

/-- RoundingIsNearest: a number that overflows in every mode and one that does not, a tiny one and one that is not, and operands whose
value is 1, −3/2, 0, an infinity and a NaN. -/
theorem witness_RoundingIsNearest :
    fpValue (.fin false 1 200) = some (2 ^ (200 : Int)) ∧ fpValue (.fin false 1 0) = some 1
    ∧ (∀ m : RMode, m = 0 ∨ m = 1 ∨ m = 2 → Overflows fp32 m (2 ^ 200)) ∧ Overflows fp32 3 (2 ^ 200)
    ∧ (∀ m : RMode, ¬ Overflows fp32 m 1) ∧ Tiny fp32 0 (1 / 2 ^ 130) ∧ ¬ Tiny fp32 0 1
    ∧ fpValue (fp32.decode 0x3F800000) = some 1 ∧ fpValue (fp32.decode 0xBFC00000) = some (-3 / 2)
    ∧ fpValue (fp32.decode 0x80000000) = some 0 ∧ fp32.decode 0xFF800000 = .inf true ∧ fp32.decode 0x7F800001 = .nan true
    ∧ fp32.decode 0x7FC00000 = .nan false := by
  have b : fp32.bias = 127 := rfl
  have f : fp32.fb = 23 := rfl
  refine ⟨by simp [fpValue], by simp [fpValue], ?_, ?_, ?_, ?_, ?_, by decide +kernel⟩
  · rintro m (rfl | rfl | rfl) <;> (simp only [Overflows, b, f]; norm_num)
  · simp only [Overflows, b, f]; norm_num
  · intro m h; simp only [Overflows, b, f] at h; norm_num at h
  · simp only [Tiny, b, f]; norm_num
  · intro h; simp only [Tiny, b, f] at h; norm_num at h

/-- RoundingIsNearest and ConversionResult, at those operands: an invalid sum of infinities, a NaN, a product that is zero, a quotient
by zero, the exact zero of rd, and the conversion of a zero, an infinity and a NaN to FP16. -/
theorem test_special_results :
    let A (n : Nat) := fp32.decode n
    fp32.add 0 (A 0x7F800000) (A 0xFF800000) = (0x7FC00000, 0x0011) ∧ fp32.add 0 (A 0x7FC00000) (A 0) = (0x7FC00000, 0x0010)
    ∧ fp32.mul 0 (A 0x80000000) (A 0x3F800000) = (0x80000000, 0) ∧ fp32.div 0 (A 0x3F800000) (A 0x80000000) = (0xFF800000, 0x0002)
    ∧ fp32.add 2 (A 0x3F800000) (A 0xBF800000) = (0x80000000, 0)
    ∧ cvtEl 0 1 0 0x80000000 = (0x8000, 0) ∧ cvtEl 0 1 0 0x7F800000 = (0x7C00, 0) ∧ cvtEl 0 1 0 0x7FC00000 = (0x7E00, 0x0010)
    ∧ fpOf 0 0x80000000 = .fin true 0 (-149) ∧ fpOf 0 0x7F800000 = .inf false := by decide +kernel

/-- R102: 1 + 2^-24 lies half way between 1 and the next number, and goes to the even one; a half more goes up. -/
theorem test_ties_to_even :
    (fp32.round 0 false (2 ^ 24 + 1) (-24)).1 = 0x3F800000 ∧ (fp32.round 0 false (2 ^ 24 + 3) (-24)).1 = 0x3F800002 := by
  decide +kernel

/-- VectorLaneResult: every lane-wise instruction. -/
theorem witness_VectorLaneResult :
    ([.vadd 1 2 3 0 0 0, .vsub 1 2 3 0 1 1, .vmul 1 2 3 0 2 2, .vdiv 1 2 3 0 3 0, .vfma 1 2 3 7 0 0, .vfms 1 2 3 0 0 0,
      .vfnma 1 2 3 0 0 0, .vfnms 1 1 1 0 0 0, .vmin 1 2 3 0 9, .vmax 1 2 3 0 0, .vabs 1 2 0 5, .vneg 1 2 0 2, .vexp2 1 2 0 0 0,
      .vlog2 1 2 0 0 1, .vrcp 1 2 0 0 2, .vrsq 1 2 0 0 0, .vperm 1 2 3 0 7, .vbcst 1 2 7 0 9, .vshup 1 2 0 0 0,
      .vshdn 1 2 31 0 8, .vzip 1 2 3 0 0, .vunzip 1 2 3 0 6, .vdec 1 2 1 0 2] : List Instr).all
        (fun i => (laneForm State.reset i).isSome && i.wf) = true
    ∧ ([.viadd 1 2 3 0 3, .visub 1 2 3 0 4, .vimul 1 2 3 0 5, .vimulh 1 2 3 0 6, .viand 1 2 3 0 7, .vior 1 2 3 0 8,
      .vixor 1 2 3 0 9, .visll 1 2 3 0 3, .visrl 1 2 3 0 4, .visra 1 2 3 0 9, .viaddSat 1 2 3 0 8, .visubSat 1 2 3 0 7,
      .vsplat 0 31 7 9] : List Instr).all (fun i => (laneForm State.reset i).isSome && i.wf) = true := by
  decide +kernel

theorem witness_VectorCompareResult :
    ([.vcmpEq 1 2 3 0 0, .vcmpNe 7 2 3 0 9, .vcmpLt 1 2 3 0 3, .vcmpLe 1 2 3 7 4, .vcmpUn 1 2 3 0 2] : List Instr).all
      (fun i => (vcmpForm i).isSome && i.wf) = true := by decide +kernel

theorem witness_ReductionResult :
    ([.vrsum 1 2 0 0, .vrmax 1 2 0 9, .vrmin 1 2 7 3, .vramax 1 1 0 5] : List Instr).all
      (fun i => (reduceForm i).isSome && i.wf) = true
    ∧ tyFloat 9 = false ∧ (activeEls 9 (State.reset.rk 0)).map (State.reset.el 9 2) ≠ [] := by decide +kernel

theorem witness_ConversionResult :
    (Instr.vcvt 1 2 9 0 3 0).wf = true ∧ (Instr.venc 1 2 1 0 2).wf = true ∧ (Instr.vins 1 2 63 8).wf = true
      ∧ (Instr.vext 1 2 7 9).wf = true := by decide +kernel

/-- v1 and v2 whose sum is inexact, with `c.nfsw` naming a sync word, and the flags already posted. -/
def flagging (posted : BitVec 16) : State :=
  withLocal 0 fun x => ((x.wv 1 0x3F800000).wv 2 0x30000000 : Slot) |> fun x => { x with nfsw := 16, posted := posted }

theorem witness_FlagsArePostedOnce :
    let f (s : State) := ((laneForm s (.vadd 3 1 2 0 0 0)).map (·.2.2.2)).getD fun _ => (0, 0)
    let s := flagging 0
    let q := flagging 0xFFFF
    (Instr.vadd 3 1 2 0 0 0).wf = true ∧ s.pump s.cur = s ∧ s.me.nfsw ≠ 0 ∧ s.me.nfsw.toNat % 16 = 0 ∧ s.kindOf s.me.nfsw ≠ 6
    ∧ s.dataPlace s.cur s.me.nfsw 16 5 = .ok (localPlace 0 16 16) ∧ laneFlags 0 (s.rk 0) (f s) &&& ~~~s.me.posted ≠ 0
    ∧ q.dataPlace q.cur q.me.nfsw 16 5 = .ok (localPlace 0 16 16) ∧ laneFlags 0 (q.rk 0) (f q) &&& ~~~q.me.posted = 0 := by
  decide +kernel

/-! ### Matrix commands and the epilogue -/

/-- A command of core 0 with number 1, from a record's first six dwords; its operands are in local memory. -/
def cmdOf (via : BitVec 2) (d0 d1 d5 : Dword) (phase : CmdPhase) : MCmd :=
  { num := 1, onTl5 := false, sender := Coord.zero, record := #v[d0, d1, 0, 0, 0, d5, 0, 0], recPtr := { p := 0x40, seg := localSeg 0 }
    a := { p := 0, seg := localSeg 0 }, b := { p := 0x400, seg := localSeg 0 }, sync := { p := 0, seg := 0 }, dest := 0
    strand := 0, cls := 0, vf := 0, via := via, phase := phase, held := false, status := 0, flags := 0, rb := 0, cb := 0, kb := 0
    dm := 0, dn := 0, persist := Vector.replicate 4 0, ran := false, pf := 0, faultHeld := false, asked := none, stage := 0 }

/-- The unit of cluster 0 with commands, and an event about command 1. -/
def unitWith (f : Cluster → Cluster) (cmds : List MCmd) : State :=
  let s := State.reset.modCluster Coord.zero fun c => { f c with cmds := cmds }
  { s with arg := { EvArg.at Coord.zero with n := 1, v := Coord.zero.bits 0 } }

/-- Sixteen commands of core 0. -/
def fullUnit : State := { unitWith id (List.replicate 16 (cmdOf 3 4 0x10001 1 .sent)) with slots := (withLocal 0 id).slots }

/-- Slot 0 with local memory whose record at 0 names cluster 63, which no die has. -/
def strayRecord : State := { plainLocal with mem := Memory.reset.store [(localAddr 0 46, 0xFC)] 0 }

/-- MatrixIssue: a record that names no cluster, and a full queue at `mxfmt`. -/
theorem witness_stray_record :
    let s := strayRecord
    (Quiet s ∧ (s.rg 1).toNat % 64 = 0 ∧ s.mxOutstanding s.cur < 16
      ∧ s.segCheck s.me.vf (s.me.segOf (s.rg 1)) (fld (s.rg 1) 0 60) 64 12 (s.rg 1) = .ok ()
      ∧ s.enginePlace s.cur s.me.vf none (s.rptr (s.rg 1)) 64 rightR = .ok (localPlace 0 0 64) ∧ Accepted s (localPlace 0 0 64)
      ∧ firstRefused s.mem s.cur.clusterKey (locals 0 64) = none
      ∧ recordUnit (recordDword ((locals 0 64).map s.mem.byte) 5) = none ∧ s.me.hold = none)
    ∧ (s.mem.wf = true ∧ s.engPlace s.cur s.me.vf none ((s.rptr (s.rg 1)).add 2) 2 rightW = .ok (localPlace 0 2 2)
      ∧ firstRefused s.mem s.cur.clusterKey (locals 2 2) = none)
    ∧ ({ die := (fullUnit.rg 1).extractLsb' 13 3, cluster := (fullUnit.rg 1).extractLsb' 7 6, core := 0, slot := 0 } : Coord).ok = true := by
  unfold Quiet
  exact ⟨⟨by decide +kernel, by decide +kernel, by decide +kernel, by decide +kernel, by decide +kernel, accepted_at_home (by decide +kernel),
    by decide +kernel⟩, by decide +kernel⟩

/-- R175: the status 0x0020 stands in the record's bytes 2 and 3. -/
theorem test_stray_record_status :
    after (.mma 1) strayRecord (fun t => t.mem.byte (localAddr 0 2) == 0x20 && t.mem.byte (localAddr 0 3) == 0
      && (t.core t.cur).tl.get 4 == 1) = true := by decide +kernel

/-- MatrixIssue: with nothing outstanding, with sixteen commands, and the two kinds of `mxfmt` target. -/
theorem witness_MatrixIssue :
    (matrixForm plainLocal (.mma 1) = some (0, false, none, 1) ∧ matrixForm plainLocal (.mmac 1) = some (1, false, none, 1)
      ∧ matrixForm plainLocal (.mdrain 1 2) = some (2, true, some 0, 1) ∧ matrixForm plainLocal (.mzero 1) = some (3, false, none, 1))
    ∧ (Quiet plainLocal ∧ (plainLocal.rg 1).toNat % 64 = 0
      ∧ plainLocal.segCheck plainLocal.me.vf (plainLocal.me.segOf (plainLocal.rg 1)) (fld (plainLocal.rg 1) 0 60) 64 12
          (plainLocal.rg 1) = .ok ()
      ∧ plainLocal.mxOutstanding plainLocal.cur < 16
      ∧ plainLocal.enginePlace plainLocal.cur plainLocal.me.vf none (plainLocal.rptr (plainLocal.rg 1)) 64 rightR = .ok (localPlace 0 0 64)
      ∧ Accepted plainLocal (localPlace 0 0 64)
      ∧ firstRefused plainLocal.mem plainLocal.cur.clusterKey (locals 0 64) = none
      ∧ recordUnit (recordDword ((locals 0 64).map plainLocal.mem.byte) 5) = some Coord.zero)
    ∧ (∃ s1, (plainLocal.tlNext plainLocal.cur 4).1.cross plainLocal.cur.die Coord.zero.die false plainLocal.me.strand plainLocal.me.vf true
        = (s1, true))
    ∧ (Quiet fullUnit ∧ 16 ≤ fullUnit.mxOutstanding fullUnit.cur
      ∧ fullUnit.segCheck fullUnit.me.vf (fullUnit.me.segOf (fullUnit.rg 1)) (fld (fullUnit.rg 1) 0 60) 64 12 (fullUnit.rg 1) = .ok ())
    ∧ ({ die := (plainLocal.rg 1).extractLsb' 13 3, cluster := (plainLocal.rg 1).extractLsb' 7 6, core := 0, slot := 0 } : Coord).ok = true
    ∧ ({ die := ((g12 0x1F80 0).rg 1).extractLsb' 13 3, cluster := ((g12 0x1F80 0).rg 1).extractLsb' 7 6, core := 0, slot := 0 } : Coord).ok = false
    ∧ TrapsHere 0x05 (g12 0x1F80 0) := by
  unfold Quiet TrapsHere
  exact ⟨⟨rfl, rfl, rfl, rfl⟩,
    ⟨by decide +kernel, by decide +kernel, by decide +kernel, by decide +kernel, by decide +kernel, accepted_at_home (by decide +kernel),
      by decide +kernel, by decide +kernel⟩, ⟨_, rfl⟩, by decide +kernel⟩

/-- A format request for context 0, and one whose types are bad. -/
def fmtReq (word : Dword) : MxReq := { num := 1, sender := Coord.zero, vf := 0, word := word, tabA := presetE4M3, tabB := presetE5M2 }

/-- The capability of the whole of partition 0 for token 0 and VF 0. -/
def capped (c : Cluster) : Cluster := { c with mcap := Sparse.set [] 0 0x8000000000000000 }

theorem witness_MatrixSchedule :
    let s := unitWith (fun c => { c with fmts := [fmtReq 0x5F0] }) []
    let z := cmdOf 3 4 0x10001 1 .sent
    let a := { z with phase := .accepted, cls := 3 }
    ((s.cluster s.arg.c).fmts = [] ++ fmtReq 0x5F0 :: [] ∧ (fmtReq 0x5F0).num = s.arg.n
      ∧ (s.cluster s.arg.c).fmtWaits s.arg.c (fmtReq 0x5F0) = false ∧ (fmtReq 0x5F0).ctx s.arg.c = some 0)
    ∧ ((unitWith capped [z]).argCmd = some z ∧ z.phase = .sent
      ∧ ((unitWith capped [z]).cluster Coord.zero).cmdWaits Coord.zero z = false ∧ (unitWith capped [z]).cmdLive Coord.zero z = true
      ∧ (unitWith capped [z]).acceptStatus Coord.zero z = 0 ∧ (unitWith id [z]).acceptStatus Coord.zero z ≠ 0)
    ∧ ((unitWith capped [a]).cluster Coord.zero).current = none ∧ bestCmd ((unitWith capped [a]).runnable Coord.zero) = some a := by
  decide +kernel

/-- R170: the status of the first check that fails: shape, capability, format context, operand A's alignment and limit. -/
theorem test_acceptance_order :
    let one (d0 d1 : Dword) := cmdOf 0 d0 d1 1 .sent
    let fp (c : Cluster) : Cluster := { capped c with ctx := c.ctx.set 0 { FmtCtx.reset with atype := 2, btype := 2 } }
    let far : MCmd := { one 1 0x100010001 with a := { p := 0x20000, seg := localSeg 0 } }
    let bent : MCmd := { one 1 0x100010001 with a := { p := 32, seg := localSeg 0 } }
    (unitWith id [one 6 0]).acceptStatus Coord.zero (one 6 0) = 0x0020
    ∧ (unitWith fp [bent]).acceptStatus Coord.zero bent = 0x0020
    ∧ (unitWith id [one 1 0x100010001]).acceptStatus Coord.zero (one 1 0x100010001) = 0x000D
    ∧ (unitWith capped [one 1 0x100010001]).acceptStatus Coord.zero (one 1 0x100010001) = 0x0021
    ∧ (unitWith fp [far]).acceptStatus Coord.zero far = 0x0005
    ∧ (unitWith fp [one 1 0x100010001]).acceptStatus Coord.zero (one 1 0x100010001) = 0 := by decide +kernel

/-- R167: the rows for 0 times infinity, a NaN, both infinities, one, exact cancellation, negative zeros only, and a rounded sum. -/
theorem test_ksum_rows :
    ksum 0 [none] = (0x7FC00000, flInvalid ||| flNan) ∧ ksum 0 [some (.nan false)] = (0x7FC00000, flNan)
    ∧ ksum 0x7F800000 [some (.inf true)] = (0x7FC00000, flInvalid ||| flNan) ∧ ksum 0 [some (.inf true)] = (0xFF800000, 0)
    ∧ ksum 0x3F800000 [some (.fin true 1 0)] = (0, 0) ∧ ksum 0x80000000 [some (.fin true 0 0)] = (0x80000000, 0)
    ∧ (ksum 0x3F800000 [some (.fin false 1 (-24)), some (.fin false 1 (-24))]).1 = 0x3F800001 := by decide +kernel

/-- The array at work on a command, with FP32 contexts. -/
def working (x : MCmd) : State :=
  unitWith (fun c => { c with running := some (Coord.zero, false, 1), ctx := c.ctx.set 0 { FmtCtx.reset with atype := 2, btype := 2 } }) [x]

theorem witness_MatrixBlockStep :
    let z := cmdOf 3 4 0x10001 1 .running
    let m := cmdOf 0 1 0x100010001 1 .running
    ((working z).cluster Coord.zero).current = some z ∧ z.op = 4 ∧ (working z).paused z.vf = false
    ∧ (working z).cmdLive Coord.zero z = true ∧ (∃ r ∈ z.segs 0, r = (0x0, 1))
    ∧ ((working m).cluster Coord.zero).current = some m ∧ m.op = 1 ∧ m.kbs ≠ 0 := by decide +kernel

/-- What `mxRead` needs to go on: places of all pieces, the ingress of other dies, and no refusal. -/
theorem mxRead_goes_on {s s' : State} {u : Coord} {x : MCmd} {pa pb : List (Nat × Nat)} {la lb : List Place}
    (h1 : s.mxPlaces x x.a pa = .ok la) (h2 : s.mxPlaces x x.b pb = .ok lb)
    (h3 : s.crossAll u x.strand x.vf false ((la ++ lb).map (·.addrs)).flatten = (s', true))
    (h4 : firstRefused s'.mem u.clusterKey ((la ++ lb).map (·.addrs)).flatten = none) :
    ∃ s1 ba bb, ∀ k, s.mxRead u x pa pb k = k s1 ba bb := by
  refine ⟨?s1, ?ba, ?bb, fun k => ?_⟩
  rotate_right
  · simp only [State.mxRead, h1, h2, h3, h4]
    rfl

/-- One product of FP32 numbers. -/
def oneProduct : MCmd := cmdOf 0 1 0x100010001 1 .running

/-- MatrixBlockStep: the operands of that command are read. -/
theorem witness_operand_read :
    let f := ((working oneProduct).cluster Coord.zero).ctx.getD oneProduct.ctx FmtCtx.reset
    ∃ s1 ba bb, ∀ k, (working oneProduct).mxRead Coord.zero oneProduct (oneProduct.piecesA f (oneProduct.stepRows 0))
      (oneProduct.piecesB f (oneProduct.stepCols 0)) k = k s1 ba bb :=
  mxRead_goes_on (s' := working oneProduct) (la := (List.range 16).map fun m => localPlace 0 (64 * m) 64)
    (lb := [localPlace 0 0x400 1024]) (by decide +kernel) (by decide +kernel) (by decide +kernel) (by decide +kernel)

/-- A place in memory of a die is at home there. -/
theorem homeHere_of {d : BitVec 3} {pl : Place} (h : (pl.addrs.all fun a => homeDie a == some d.toNat) = true) : HomeHere d pl := by
  intro a ha e he
  have := List.all_eq_true.1 h a ha
  rw [he] at this
  simpa using this

/-- A unit that drains a command through an epilogue program of two words. -/
def draining (x : MCmd) (w : BitVec 16) : State :=
  unitWith (fun c => { c with epiI := (Sparse.set [] 0 w).set 1 0xF000 }) [x]

/-- MatrixDrain: an illegal word; one store with a further output behind it, and with none. -/
theorem witness_drain_element :
    let x := cmdOf 2 3 0x20001 2 .draining
    let y := cmdOf 2 3 0x10001 1 .draining
    let s := draining x 0xD000
    let r := x.elementRun Coord.zero (s.cluster Coord.zero)
    (draining x 1).argCmd = some x ∧ x.phase = .draining ∧ (draining x 1).paused x.vf = false
    ∧ (draining x 1).cmdLive Coord.zero x = true
    ∧ (x.elementRun Coord.zero ((draining x 1).cluster Coord.zero)).illegal = true
    ∧ r.illegal = false ∧ s.mem.wf = true ∧ x.elementTarget.die = Coord.zero.die ∧ r.stores ≠ []
    ∧ (∀ w ∈ r.stores, w.1 + w.2.length ≤ 65536 ∧ firstRefused s.mem Coord.zero.clusterKey (writeAddrs x.elementTarget w) = none)
    ∧ x.nextLive x.dm (x.dn + 1) = some (0, 1) ∧ y.nextLive y.dm (y.dn + 1) = none := by decide +kernel

/-- MatrixDrain: a finished command whose status is written at 0x42 of local memory. -/
theorem witness_command_complete :
    let x := cmdOf 2 3 0x10001 1 .finished
    let s := unitWith id [x]
    (s.argCmd = some x ∧ x.phase = .finished ∧ x.asked = none ∧ x.stage = 0 ∧ s.arg.flag = false
      ∧ sgKind x.sync.seg ≠ 5 ∧ sgKind x.recPtr.seg ≠ 5 ∧ s.mem.wf = true ∧ x.status ≠ 0x0023 ∧ x.sync.p = 0 ∧ x.statistic = false
      ∧ (x.recPtr.add 2).p.toNat % 2 = 0
      ∧ s.engPlace x.sender x.vf none (x.recPtr.add 2) 2 rightW = .ok (localPlace 0 0x42 2)
      ∧ firstRefused s.mem Coord.zero.clusterKey (locals 0x42 2) = none)
    ∧ HomeHere s.arg.c.die (localPlace 0 0x42 2) := by
  refine ⟨by decide +kernel, homeHere_of (by decide +kernel)⟩

theorem witness_EpilogueResult :
    let x := (State.reset.cluster State.reset.unit).epi
    ([.emul 0 1 2, .eadd 0 1 2, .escl 0 1 63, .ebias 7 1 0, .etab 0 1 2, .eclmp 0 1 7, .ecvt 0 1 6, .emax 0 1 2, .emin 0 1 2,
      .eabsmax 0 1, .esel 0 1 2] : List Instr).all (fun i => (epilogueResult x [] i).isSome) = true
    ∧ ([.enop, .eflag 0 1 2, .eflag 6 1 2, .estore 1 0, .estore 1 6, .eskip 63] : List Instr).all
        (fun i => (epilogueOther x i).isSome) = true
    ∧ (epilogueOther { x with e := x.e.set 1 0x7FC00000 } (.eabsmax 0 1)).isSome = true := by decide +kernel

/-! ### Copies -/

/-- Slot 15 at work for slot 0, whose sg0 is local memory, with `g1` = 64; the chain entry at 64 names itself. -/
def chaining : State :=
  { (withLocal 0 id).setSlot (Coord.zero.at 15) { Slot.reset with g := Slot.reset.g.set 1 64 } with
    cur := Coord.zero.at 15, mem := Memory.reset.store [(localAddr 0 72, 64)] 0 }

/-- The same with an entry that ends its chain. -/
def chainOfOne : State := { chaining with mem := Memory.reset }

/-- ChainAppendAndAdvance: another slot, and slot 15. -/
theorem witness_copy_slots :
    (State.reset.cur.slot ≠ 15 ∧ TrapsHere 0x02 State.reset)
    ∧ (chaining.cur.slot = 15 ∧ Quiet chaining ∧ chaining.me.cappPos = none
      ∧ (chaining.core chaining.cur).inFlight + 64 ≤ 1024) := by unfold TrapsHere Quiet; decide +kernel

/-- ChainAppendAndAdvance: the longest chain that one `capp` takes. -/
theorem witness_chain_of_64 :
    IsChain chaining (chaining.rg 1) (List.replicate 64 64) (List.replicate 64 (localPlace 0 64 64)) := by
  refine ⟨by simp, by simp, by decide +kernel, fun j q pl hq hp => ?_⟩
  rw [List.getElem?_replicate] at hq hp
  split at hq
  · rename_i hj
    rw [if_pos hj] at hp
    cases hq; cases hp
    refine ⟨by decide, by decide, by decide +kernel, by decide +kernel, by decide +kernel, accepted_at_home (by decide +kernel), by decide +kernel, fun h => ?_⟩
    have h2 : (List.replicate 64 (64 : Dword)).getD (j + 1) 0 = 64 := by
      rw [List.getD_eq_getElem?_getD, List.getElem?_replicate, if_pos (by omega)]; rfl
    rw [h2]
    decide +kernel
  · cases hq

/-- ChainAppendAndAdvance: a chain of one entry. -/
theorem witness_chain_of_one : IsChain chainOfOne (chainOfOne.rg 1) [64] [localPlace 0 64 64] := by
  refine ⟨by decide, by decide, by decide +kernel, fun j q pl hq hp => ?_⟩
  cases j with
  | zero =>
    cases hq; cases hp
    refine ⟨by decide, by decide, by decide +kernel, by decide +kernel, by decide +kernel, accepted_at_home (by decide +kernel), by decide +kernel, fun _ => ?_⟩
    decide +kernel
  | succ j => simp at hq

/-- An entry that copies 16 bytes from local 0x100 to local 0x200; `op` 5 folds 16 bytes and has no destination. -/
def entryOf (op : Dword) (phase : CopyPhase) : CopyEntry :=
  { num := 1, entry := { p := 0x40, seg := localSeg 0 }, ctrl := op, src := { p := 0x100, seg := localSeg 0 }
    dst := { p := 0x200, seg := localSeg 0 }, stamp := { p := 0, seg := 0 }, shape := 0x100000010, strides := 0, opf := 0
    strand := 0, vf := 0, origin := 0, status := 0, truncated := false, phase := phase, opened := false, row := 0, col := 0
    flags := 0, table := presetE4M3, tnan := 0, mx := 0, sm := 0, cands := [], skipped := 0, pf := 0, held := false
    asked := none, got := [], data := none, stage := 0 }

/-- Context 0 of core 0 with an entry, and an event about it. -/
def engineWith (e : CopyEntry) : State :=
  let s := State.reset.modCore Coord.zero fun k => k.setCtx 0 { entries := [e], advanced := 1 }
  { s with arg := { EvArg.at Coord.zero with n := 0, v := 1 } }

/-- CopyEngine: an eligible entry, one with `serial` and `gate`, and a moved entry. -/
theorem witness_entries :
    let e := entryOf 1 .queued
    let g := { entryOf 0xC001 .queued with opened := true }
    let m := entryOf 1 .moved
    (((engineWith e).core Coord.zero).ctx 0).entries.find? (·.phase == .queued) = some e
    ∧ (engineWith e).entry Coord.zero 0 e.num = some e ∧ e.num ≤ (((engineWith e).core Coord.zero).ctx 0).advanced
    ∧ (engineWith e).paused e.vf = false ∧ e.serial = false ∧ e.gate = false
    ∧ (engineWith e).startStatus Coord.zero e = 0
    ∧ ((engineWith e).die 0).strandLive e.strand = true ∧ e.op ≠ 6
    ∧ g.serial = true ∧ (((engineWith g).core Coord.zero).ctx 0).entries.head? = some g ∧ g.gate = true ∧ g.opened = true
    ∧ (((engineWith m).core Coord.zero).ctx 0).entries = m :: [] ∧ m.phase = .moved ∧ (engineWith m).arg.flag = false
    ∧ m.asked = none ∧ m.stage = 0 ∧ m.held = false ∧ sgKind m.entry.seg ≠ 5 ∧ sgKind m.stamp.seg ≠ 5 ∧ m.op ≠ 5 ∧ m.stamp.p = 0
    ∧ (m.entry.add 2).p.toNat % 2 = 0
    ∧ (engineWith m).engPlace Coord.zero m.vf none (m.entry.add 2) 2 rightW = .ok (localPlace 0 0x42 2)
    ∧ firstRefused (engineWith m).mem Coord.zero.clusterKey (locals 0x42 2) = none := by decide +kernel

/-- CopyEngine: a moved selacc entry whose record may be written, and one whose record page-faults with the fault queue enabled. -/
theorem witness_selacc_records :
    let m := { entryOf 5 .moved with stamp := { p := 0x80, seg := localSeg 0 } }
    let f := { m with stamp := { p := 0, seg := BitVec.ofNat 128 ((4 * 2 ^ 60 + 15 * 2 ^ 56 + 2 ^ 48 - 1) * 2 ^ 64) } }
    let s := engineWith m
    let q := (engineWith f).modVf 0 fun v => { v with fqsize := 16 }
    (m.op = 5 ∧ finalStatus s Coord.zero m = 0 ∧ m.asked = none ∧ m.stage = 0 ∧ m.held = false ∧ sgKind m.stamp.seg ≠ 5
      ∧ s.engPlace Coord.zero m.vf none m.stamp m.recordBytes.length rightW = .ok (localPlace 0 0x80 m.recordBytes.length))
    ∧ (finalStatus q Coord.zero f = 0 ∧ f.pf < 2 ∧ q.fqOn f.vf = true ∧ sgKind f.stamp.seg ≠ 5
      ∧ q.engPlace Coord.zero f.vf none f.stamp f.recordBytes.length rightW = .error (.page false 0)) := by decide +kernel

/-- CopyEngine: a packet with a destination, and one without. -/
theorem witness_packets :
    let e := entryOf 1 .running
    let f := { entryOf 5 .running with dst := { p := 0, seg := localSeg 0 } }
    let s := engineWith e
    (s.arg.flag = false ∧ s.mem.wf = true ∧ s.nextPacket s.arg.c = some (0, e) ∧ s.entry Coord.zero 0 e.num = some e
      ∧ (s.die 0).strandLive e.strand = true ∧ e.got = [] ∧ e.data = none
      ∧ s.engBytes Coord.zero e.vf (some (copyKey Coord.zero 0 e.num)) e.src e.packet.srcs rightR = .ok (localPlace 0 0x100 16)
      ∧ firstRefused s.mem Coord.zero.clusterKey (locals 0x100 16) = none ∧ e.packet.dst = some 0
      ∧ (sourceRead s Coord.zero 0 e (localPlace 0 0x100 16)).engPlace Coord.zero e.vf (some (copyKey Coord.zero 0 e.num)) (e.dst.add 0)
          e.packet.n rightW = .ok (localPlace 0 0x200 16)
      ∧ firstRefused s.mem Coord.zero.clusterKey (locals 0x200 16) = none)
    ∧ f.packet.dst = none
    ∧ HomeHere s.arg.c.die (localPlace 0 0x100 16) ∧ HomeHere s.arg.c.die (localPlace 0 0x200 16) := by
  refine ⟨by decide +kernel, by decide +kernel, homeHere_of (by decide +kernel), homeHere_of (by decide +kernel)⟩


/-- R198, R199: a packet of a copy writes the source bytes; one of a fill repeats its pattern. -/
theorem test_copy_and_fill :
    let s (op : Dword) : State := { engineWith { entryOf op .running with opf := 0x0807060504030201 } with
      mem := Memory.reset.store [(localAddr 0 0x101, 0x5A)] 0 }
    (after .copyPacket (s 1) fun t => t.mem.byte (localAddr 0 0x201) == 0x5A && t.mem.byte (localAddr 0 0x202) == 0) = true
    ∧ (after .copyPacket (s 2) fun t => t.mem.byte (localAddr 0 0x201) == 2 && t.mem.byte (localAddr 0 0x20F) == 8) = true := by
  decide +kernel

/-! ### Mailboxes, waits, knots, the loom and packets -/

/-- Core 0 after a change. -/
def core0 (f : Core → Core) : State := State.reset.modCore Coord.zero f

/-- MailboxResult: a full mailbox, one whose fill is on its way, and an empty one. -/
theorem witness_MailboxResult :
    let s := core0 fun k => { k with mb := (k.mb.set 7 { Mailbox.reset with full := true }).set 6 { Mailbox.reset with coming := true } }
    ((s.core s.cur).mb.get (7 : BitVec 3).toFin).full = true ∧ ((s.core s.cur).mb.get (0 : BitVec 3).toFin).full = false
    ∧ ((s.core s.cur).mb.get (6 : BitVec 3).toFin).coming = true ∧ ((s.core s.cur).mb.get (0 : BitVec 3).toFin).coming = false
    ∧ Quiet s := by unfold Quiet; decide +kernel

/-- A slot that waits for an event. -/
def waiting (h : Hold) (s : State) : State := s.modSlot Coord.zero fun x => { x with hold := some h }

/-- WaitResult: a timeline at its value and below it, for the instruction and for the event. -/
theorem witness_waittl :
    let s := g12 0 1
    ((s.rg 1).toNat ≤ (s.core s.cur).tl.get (7 : BitVec 3).toFin ∧ (s.core s.cur).tl.get (7 : BitVec 3).toFin < (s.rg 2).toNat)
    ∧ ((waiting (.waittl 7 0) State.reset).slot State.reset.arg.c).hold = some (.waittl 7 0)
    ∧ (0 : Dword).toNat ≤ (State.reset.core State.reset.arg.c).tl.get (7 : BitVec 3).toFin
    ∧ ((waiting (.waittl 7 1) State.reset).slot State.reset.arg.c).hold = some (.waittl 7 1)
    ∧ (State.reset.core State.reset.arg.c).tl.get (7 : BitVec 3).toFin < (1 : Dword).toNat := by decide +kernel

/-- Core 0 with counter 15 at 5 and waiters for it; g1 is 0, g2 is 5 and g3 is 6. -/
def counting (w : List (Nat × Coord × Word)) : State :=
  (((core0 fun k => { k with lc := k.lc.set 15 5, lcWait := w }).wg 2 5).wg 3 6)

/-- WaitResult: nothing expected; the expected value reached; not reached; another waiter before it; and the event. -/
theorem witness_waitlc :
    let s := counting []
    let other : Coord := Coord.zero.at 3
    (∀ w ∈ (s.core s.cur).lcWait, w.2.1 ≠ s.cur) ∧ (s.rg 1).setWidth 32 = 0#32 ∧ (s.rg 2).setWidth 32 ≠ 0#32
    ∧ (∀ w ∈ (s.core s.cur).lcWait, w.1 ≠ (15 : BitVec 4).toNat)
    ∧ ((s.rg 2).setWidth 32).toNat ≤ ((s.core s.cur).lc.get (15 : BitVec 4).toFin).toNat
    ∧ (s.core s.cur).lcReady 15 = none ∧ ((s.core s.cur).lc.get (15 : BitVec 4).toFin).toNat < ((s.rg 3).setWidth 32).toNat
    ∧ ((counting [(15, other, 6)]).core s.cur).lcReady 15 = none
    ∧ (∃ w ∈ ((counting [(15, other, 6)]).core s.cur).lcWait, w.1 = (15 : BitVec 4).toNat)
    ∧ ((counting [(15, other, 5)]).core Coord.zero).lcReady 15 = some (other, 5) := by decide +kernel

/-- WaitResult: `waitm` of a line seen before and of a new one, and its event. -/
theorem witness_waitm :
    let line := localAddr 0 0 / 128
    let s := withLocal 0 fun x => { x with watch := some (line, 0) }
    plainLocal.kindOf (plainLocal.rg 1) ≠ 6 ∧ plainLocal.dataPlace plainLocal.cur (plainLocal.rg 1) 1 rightR = .ok (localPlace 0 0 1)
    ∧ s.me.watch = some ((localPlace 0 0 1).addrs.headD 0 / 128, s.mem.vers.get ((localPlace 0 0 1).addrs.headD 0 / 128) 0)
    ∧ plainLocal.me.watch ≠ some ((localPlace 0 0 1).addrs.headD 0 / 128, 0)
    ∧ ((waiting .waitm s).slot s.arg.c).hold = some .waitm ∧ ((waiting .waitm s).slot s.arg.c).watch = some (line, 0) := by
  decide +kernel

/-- Slot 0 with a segment of peer 5 in sg0, which the peer table names. -/
def peering (f : Slot → Slot) : State :=
  let s := me fun x => f { x with sg := x.sg.set 0 (BitVec.ofNat 128 ((5 * 2 ^ 60 + 15 * 2 ^ 56 + 2 ^ 48 - 1) * 2 ^ 64)), g := x.g.set 1 0x0028000000000000 }
  ({ s with dev := { s.dev with peers := Sparse.set [] 5 0x8000040000000000 } }).modVf 0 fun v => { v with domain := v.domain.set 0 32 }

def peerPlace5 : Place := { addrs := [], peer := some (5, 0), policy := 0, xcl := false, pages := [] }

/-- WaitResult: `waitm` of a peer's line, watched already and not yet. -/
theorem witness_waitm_peer :
    let s := peering fun x => { x with watch := some (peerLine 5 0, 0) }
    let q := peering id
    (∃ pl, s.dataPlace s.cur (s.rg 1) 1 rightR = .ok pl ∧ pl.peer = some (5, 0))
    ∧ s.kindOf (s.rg 1) ≠ 6 ∧ Quiet s ∧ s.me.watch.map (·.1) = some (peerLine 5 0) ∧ s.peerLost 5 = false
    ∧ (∃ pl, q.dataPlace q.cur (q.rg 1) 1 rightR = .ok pl ∧ pl.peer = some (5, 0))
    ∧ q.me.watch.map (·.1) ≠ some (peerLine 5 0) := by
  unfold Quiet
  exact ⟨⟨peerPlace5, by decide +kernel, rfl⟩, by decide +kernel, by decide +kernel, by decide +kernel, by decide +kernel,
    ⟨peerPlace5, by decide +kernel, rfl⟩, by decide +kernel⟩

/-- WaitResult: the sync word's generation is 0; a wait for 0 passes and one for 1 does not; and the event for each. -/
theorem witness_swwait :
    let s := withLocal 0 fun x => x.wg 2 1
    (Quiet s ∧ (s.rg 1).toNat % 16 = 0 ∧ s.kindOf (s.rg 1) ≠ 6 ∧ Granted s (s.rg 1) 16 rightR (localPlace 0 0 16)
      ∧ (BitVec.ofNat 16 (s.mem.readNat (localAddr 0 0 + 8) 2) - (s.rg 1).setWidth 16).toNat < 0x8000
      ∧ 0x8000 ≤ (BitVec.ofNat 16 (s.mem.readNat (localAddr 0 0 + 8) 2) - (s.rg 2).setWidth 16).toNat)
    ∧ ((waiting (.swwait 0 0x8001) s).slot s.arg.c).hold = some (.swwait 0 0x8001)
    ∧ (BitVec.ofNat 16 (s.mem.readNat 8 2) - 0x8001).toNat < 0x8000
    ∧ ((waiting (.swwait 0 0x8000) s).slot s.arg.c).hold = some (.swwait 0 0x8000)
    ∧ 0x8000 ≤ (BitVec.ofNat 16 (s.mem.readNat 8 2) - 0x8000).toNat := by
  unfold Quiet
  exact ⟨⟨by decide +kernel, by decide +kernel, by decide +kernel, granted_of (by decide +kernel), by decide +kernel⟩,
    by decide +kernel⟩

/-- Knot `n` of die 0 for VF 0 with core 0 of cluster 0 as a member. -/
def knotted (n need count : Nat) (f : Slot → Slot) : State :=
  let k : Knot := { Knot.reset with
    word := BitVec.ofNat 64 (2 ^ 63 + 2 ^ 40 + need), count := count, rows := Sparse.set [] 0 1, inFlight := [Coord.zero] }
  ({ me f with arg := { EvArg.at Coord.zero with n := n } }).setKnot 0 n k

/-- KnotAndLoomResult: a non-member, a member whose phase is open, and one that has not arrived; the waits and the release. -/
theorem witness_knots :
    let s := knotted 39 2 0 fun x => { x with knotArrived := 1 <<< 39 }
    let q := knotted 39 2 0 id
    let d := knotted 39 2 0 fun x => { x with knotArrived := 1 <<< 39, knotA := 1 <<< 39 }
    (State.reset.knotMember State.reset.cur 39 = false ∧ TrapsHere 0x06 State.reset)
    ∧ (s.knotMember s.cur 39 = true ∧ s.phaseOpen s.cur 39 = true)
    ∧ (q.knotMember q.cur 39 = true ∧ q.phaseOpen q.cur 39 = false ∧ Quiet q ∧ q.me.knotArrived.getLsbD 39 = false)
    ∧ (d.me.knotArrived.getLsbD 39 = true ∧ d.phaseOpen d.cur 39 = false)
    ∧ ((waiting (.knot 39 true) d).slot d.arg.c).hold = some (.knot 39 true)
    ∧ (waiting (.knot 39 true) d).phaseOpen d.arg.c 39 = false := by unfold TrapsHere Quiet; decide +kernel

/-- KnotAndLoomResult: an arrival that is not the last, the last of a die's knot, one at a device knot, and the flip of that. -/
theorem witness_knot_events :
    let a := knotted 31 2 0 id
    let b := knotted 31 2 1 id
    let c := knotted 32 1 0 id
    let d := knotted 32 1 1 id
    ((a.knot 0 31).inFlight.contains a.arg.c = true ∧ (a.knot 0 31).enabled = true ∧ (a.knot 0 31).count + 1 < (a.knot 0 31).need)
    ∧ (b.arg.n < 32 ∧ (b.knot 0 31).need ≤ (b.knot 0 31).count + 1)
    ∧ (32 ≤ c.arg.n ∧ (c.knot 0 32).inFlight.contains c.arg.c = true ∧ (c.knot 0 32).enabled = true)
    ∧ d.deviceReady d.arg.c.die d.arg.n = true ∧ (knotted 39 1 0 id).arg.n ≤ 39 := by decide +kernel

/-- KnotAndLoomResult: term 15 over counter 15, whose count has reached its threshold. -/
theorem witness_loom :
    let s := State.reset.modCluster Coord.zero fun c =>
      { c with ct := c.ct.set 15 0x8000000100000001, term := c.term.set 15 0x8000000000008000 }
    (s.cluster s.arg.c).termHigh ((s.cluster s.arg.c).term.get 15) = true
    ∧ ∀ j : Fin 16, j ≠ 15 → ((s.cluster s.arg.c).term.get j).getLsbD 63 = false := by decide +kernel

/-- Slot 0 with a host segment in sg0. -/
def hosted : State := me fun x => { x with sg := x.sg.set 0 (BitVec.ofNat 128 ((6 * 2 ^ 60 + 15 * 2 ^ 56 + 2 ^ 48 - 1) * 2 ^ 64)) }

/-- Slot 0 with die memory in sg0, of policy 11; an arm needs such memory. -/
def stacked : State := me fun x => { x with
  sg := x.sg.set 0 (BitVec.ofNat 128 ((7 * 2 ^ 60 + 15 * 2 ^ 56 + 3 * 2 ^ 54 + 2 ^ 32) * 2 ^ 64)), g := x.g.set 2 0x100000000 }

/-- SyncOperationIsPosted: each operation; a host record, a record that is not waited for, and one that is. -/
theorem witness_SyncOperationIsPosted :
    (syncForm plainLocal (.swadd 1 2) = some (0, 16, .swadd 0) ∧ syncForm plainLocal (.swexp 1 2) = some (0, 16, .swexp 0)
      ∧ syncForm stacked (.swexp 1 2) = some (0, 128, .arm) ∧ syncForm plainLocal (.jadd 3 1 2) = some (0, 128, .jadd 0 0 0))
    ∧ ((0 : Dword).toNat % 16 = 0 ∧ hosted.kindOf 0 = 6 ∧ TrapsHere 0x06 hosted)
    ∧ (plainLocal.kindOf 0 ≠ 6 ∧ plainLocal.dataPlace plainLocal.cur 0 16 13 = .ok (localPlace 0 0 16)
      ∧ (localPlace 0 0 16).addrs ≠ [] ∧ (localPlace 0 0 16).waited = false
      ∧ plainLocal.pump plainLocal.cur = plainLocal)
    ∧ (stacked.kindOf 0 = 7 ∧ ∃ pl, stacked.dataPlace stacked.cur 0 128 13 = .ok pl ∧ pl.peer = none ∧ pl.addrs ≠ [] ∧ pl.waited = true
      ∧ Quiet stacked ∧ stacked.mem.wf = true
      ∧ stacked.crossAll stacked.cur stacked.me.strand stacked.me.vf true pl.addrs = (stacked, true) ∧ firstRefused stacked.mem stacked.cur.clusterKey pl.addrs = none) := by
  refine ⟨⟨rfl, rfl, rfl, rfl⟩, ?_, by decide +kernel, by decide +kernel,
    { addrs := (List.range 128).map (stackAddr 0 0 + ·), peer := none, policy := 3, xcl := false, pages := [] }, ?_⟩
  · unfold TrapsHere; decide +kernel
  · unfold Quiet; decide +kernel

/-- A packet of slot 0 of core 0 for local address 0, behind one of slot 1. -/
def packetOf (op : PacketOp) (xcl : Bool) (slot : BitVec 4) : Packet :=
  { coord := Coord.zero.at slot, vf := 0, strand := 0, ptr := 0, route := .here (localAddr 0 0), op := op, policy := 0, pf := 0
    held := false, expires := none, task := .present, sent := false
    hdr := { id := 0, carried := 0, members := [], vf := 0, registers := false }, pages := [], stale := false, xcluster := xcl, completes := none
    launch := none }

def sending (op : PacketOp) (xcl : Bool) (m : Memory) : State :=
  { State.reset with port := [packetOf (.swadd 1) false 1, packetOf op xcl 0], mem := m, arg := EvArg.at Coord.zero }

/-- PacketPerforms: the event of each operation, with a packet of another slot before it. -/
theorem witness_packet_events :
    ((packetOf (.store [(localAddr 0 0, 1)] 0) false 0).op.event false = .storePerform
      ∧ (packetOf (.vatomic 0 4 [(localAddr 0 0, 1)]) false 0).op.event false = .atomicPacketPerform
      ∧ (PacketOp.flags 1).event false = .atomicPacketPerform ∧ (PacketOp.swadd 1).event false = .swaddPerform
      ∧ (PacketOp.swexp 1).event false = .swexpPerform ∧ PacketOp.arm.event false = .joinArm
      ∧ (PacketOp.mail 0).event false = .storePerform ∧ (PacketOp.ship 0).event false = .storePerform
      ∧ (PacketOp.cut 9).event false = .storePerform ∧ (PacketOp.jadd 1 0 0).event false = .jaddPerform ∧ (PacketOp.store [] 0).event true = .xclusterAccess)
    ∧ (∀ q ∈ [packetOf (.swadd 1) false 1], q.coord ≠ Coord.zero)
    ∧ (packetOf (.swadd 1) false 0).route = .here (localAddr 0 0)
    ∧ (∀ op ∈ [PacketOp.store [(localAddr 0 0, 1)] 0, .flags 1, .swadd 1, .swexp 1, .arm, .jadd 1 0 0, .mail 3, .ship 1, .cut 9],
        homeRefused (sending op false Memory.reset).mem 0 0 (packetOf op false 0).addrs (packetOf op false 0).op.escapeOf.1
          (packetOf op false 0).op.escapeOf.2 = none)
    ∧ homeRefused (sending (.swadd 1) false (Memory.reset.setTag (localAddr 0 0) 3)).mem 0 0 (packetOf (.swadd 1) false 0).addrs
        (packetOf (.swadd 1) false 0).op.escapeOf.1 (packetOf (.swadd 1) false 0).op.escapeOf.2 = some (0x09, 0) := by
  refine ⟨⟨rfl, rfl, rfl, rfl, rfl, rfl, rfl, rfl, rfl, rfl, rfl⟩, by decide +kernel, by decide +kernel, by decide +kernel, by decide +kernel⟩

/-- PacketPerforms: the home of the packet is on its own die. -/
theorem witness_packet_home : ∀ d, homeDie (localAddr 0 0) = some d → d = Coord.zero.die.toNat := by
  intro d h
  rw [show homeDie (localAddr 0 0) = some 0 from by decide +kernel] at h
  exact (Option.some.inj h).symm

/-- A join record at local address 0 with party 15. -/
def joinMemory : Memory := Memory.reset.store (at' (localAddr 0 0x18) (leBytes 8 0x80000000)) 0

/-- PacketPerforms: a record that can be armed, one to which an unregistered `jadd` comes, and one armed with party 15. -/
theorem witness_joins :
    let s := sending .arm false joinMemory
    let q := s.modDie 0 fun d => { d with joins := [{ addr := localAddr 0 0, parties := [(15, 0)] }] }
    let a := localAddr 0 0
    ((s.die (joinDie a)).joins.length < 1024 ∧ joinParties s.mem a ≠ []
      ∧ ∀ j ∈ joinParties s.mem a, (s.mem.dword (a + 0x20 + 4 * j)).getLsbD 31 = false)
    ∧ (fld (s.mem.dword (a + 0x18)) 32 2 = 0#2 ∧ (s.joinOf a).isSome = false)
    ∧ ((q.joinOf a).isSome = true ∧ (q.mem.dword (a + 8)).getLsbD (32 + 15) = false ∧ 15 ∈ joinParties q.mem a
      ∧ (q.mem.dword (a + 0x18)).getLsbD 15 = false) := by decide +kernel

/-! ### Events of slots, replies, registers, the host and power -/

/-- Slot 3 of core 0 issued at cycle 1; the core is at cycle 16. -/
def later16 : State :=
  ((core0 fun k => { k with cycle := 16 }).setSlot (Coord.zero.at 3) { Slot.reset with lastIssue := some 1 })

/-- SlotEvents: `yield` after its 16 cycles, and before them with the other slot gone. -/
theorem witness_yield :
    (((waiting (.yield 0 0xFFFF) later16).slot Coord.zero).hold = some (.yield 0 0xFFFF) ∧ 0 + 16 ≤ (later16.core Coord.zero).cycle)
    ∧ ∀ i : BitVec 4, (8 : BitVec 16).getLsbD i.toNat = true → ∃ l, (later16.slot (Coord.zero.at i)).lastIssue = some l ∧ 0 < l := by
  refine ⟨by decide +kernel, fun i h => ⟨1, ?_, by decide⟩⟩
  have h3 : i = 3 := by revert i; decide
  subst h3
  decide +kernel

/-- SlotEvents: a `ralign` that is due with a peer missing, and one whose peers are all held. -/
theorem witness_ralign :
    let s := waiting (.ralign 1 0) ((aligning false).modCore Coord.zero fun k => { k with cycle := 1 })
    let q := waiting (.ralign 1 0) (aligning true)
    ((s.slot s.arg.c).hold = some (.ralign 1 0) ∧ s.alignedAll s.arg.c = false ∧ 0 + (1 : BitVec 15).toNat ≤ (s.core s.arg.c).cycle)
    ∧ (q.slot q.arg.c).hold = some (.ralign 1 0) ∧ q.alignedAll q.arg.c = true
      ∧ q.inStep q.arg.c ≠ [] ∧ ∀ w ∈ q.inStep q.arg.c, (q.slot w).lastIssue.isSome := by decide +kernel

/-- SlotEvents: `halt` with its latch; wakes of a page-faulted slot and of another; `exit`; `invt`. -/
theorem witness_returns :
    let h := (waiting .halt State.reset).modMe fun x => { x with wakeLatch := true }
    let p := (waiting .pageFault State.reset).modMe fun x => { x with live := true }
    let e := waiting .exiting State.reset
    let i := waiting .invt { State.reset with tcache := [usedPage] }
    ((h.slot h.arg.c).hold = some .halt ∧ (h.slot h.arg.c).wakeLatch = true)
    ∧ (p.arg.peer = none ∧ NothingHeld p p.arg.c p.arg.vf ∧ (p.slot p.arg.c).live = true ∧ (p.slot p.arg.c).vf = p.arg.vf
      ∧ (p.slot p.arg.c).hold = some .pageFault)
    ∧ (NothingHeld h h.arg.c h.arg.vf ∧ (h.slot h.arg.c).hold ≠ some .pageFault)
    ∧ ((e.slot e.arg.c).hold = some .exiting ∧ ∀ q ∈ e.port, q.coord ≠ e.arg.c)
    ∧ (i.slot i.arg.c).hold = some .invt ∧ (∀ e ∈ i.tcache, e.vf = (i.slot i.arg.c).vf → e.stale = false)
      ∧ ∀ p ∈ i.port, p.vf = (i.slot i.arg.c).vf → p.stale = false := by
  unfold NothingHeld; decide +kernel

/-- SlotEvents: a wake from a device that the peer table does not hold. -/
theorem witness_stale_wake :
    let q : PeerReq := { source := 5, sourceInc := 0, targetInc := 0, sender := 0, pf := 0, policy := 0, va := 0, op := .fetch
                         hdr := { id := 0, carried := 1, members := [], vf := 0, registers := false } }
    { State.reset with arg := { EvArg.at Coord.zero with peer := some q } }.staleRequest q = true := by decide +kernel

/-- SlotEvents: slot 15 alone is queued for slot 13. -/
theorem witness_service :
    let s := State.reset.setSlot (Coord.zero.at 15) { Slot.reset with hold := some (.service 1 0) }
    ((s.core s.arg.c).serving = none ∧ (s.slot (s.arg.c.at 15)).hold = some (.service 1 0))
    ∧ ∀ j : BitVec 4, j.toNat < (15 : BitVec 4).toNat → ∀ x y, (s.slot (s.arg.c.at j)).hold ≠ some (.service x y) := by
  refine ⟨by decide +kernel, fun j hj x y => ?_⟩
  have h : ((State.reset.setSlot (Coord.zero.at 15) { Slot.reset with hold := some (.service 1 0) }).slot (Coord.zero.at j)).hold = none := by
    revert j; decide +kernel
  show ((State.reset.setSlot (Coord.zero.at 15) { Slot.reset with hold := some (.service 1 0) }).slot (Coord.zero.at j)).hold ≠ _
  rw [h]
  nofun

/-- An answer to slot 0. -/
def answered (h : Hold) (r : Reply) (inc : Byte) : State :=
  { waiting h State.reset with arg := { EvArg.at Coord.zero with reply := r, inc := inc } }

/-- ReplyEvents: another incarnation; data, a refusal, a loss and a page fault for a load. -/
theorem witness_replies :
    let l : Hold := .load (.ld 1 2 6 0 0) 8 5
    (answered l .lost 1).arg.inc ≠ (answered l .lost 1).dev.incarn
    ∧ (let s := answered l (.data [1, 2]) 0
       s.arg.inc = s.dev.incarn ∧ (s.slot s.arg.c).hold = some l ∧ s.arg.reply = .data [1, 2] ∧ plainAccess (.ld 1 2 6 0 0))
    ∧ (let s := answered l (.refused 9 8) 0
       s.arg.reply = .refused 9 8 ∧ s.routed s.arg.c 0x0A = false ∧ (s.slot s.arg.c).status.getLsbD 2 = false)
    ∧ (let s := answered l .lost 0
       s.arg.reply = .lost ∧ s.waitingFor 5 = [s.arg.c] ∧ s.savedFor 5 = [] ∧ (∀ q ∈ s.port, q.goesTo 5 = false)
         ∧ s.copiesFor 5 = [] ∧ s.commandsFor 5 = [] ∧ s.routed s.arg.c 0x0B = false ∧ (s.slot s.arg.c).status.getLsbD 2 = false)
    ∧ (answered l .faulted 0).arg.reply = .faulted := by
  refine ⟨by decide +kernel, ⟨by decide +kernel, by decide +kernel, by decide +kernel, trivial⟩, by decide +kernel, by decide +kernel,
    by decide +kernel⟩

/-- ReplyEvents: every kind of waited access, and two behind a prefix. -/
theorem witness_reply_kinds :
    (∀ i ∈ [Instr.ld 1 2 6 0 0, .ldk 1 2 0 0, .vld 1 2 0 0, .st 1 2 6 0 0, .vst 1 2 0 0, .zline 1, .swadd 1 2, .swexp 1 2, .jadd 3 1 2,
        .aadd 1 2 3 2 0, .cas 1 2 3 0 0, .dtload 0 1, .fetchBlockDelivery, .waitm 1, .swwait 1 2,
        withPrefix (some (1, 0x50610000)) (.ld 3 1 0 0 0), withPrefix (some (1, 0x54628FFF)) (.st 3 2 4 1 0x7FF)],
      ((answered (.load i 8 5) (.data [1]) 0).slot Coord.zero).hold = some (.load i 8 5))
    ∧ (prefixFits none (.ld 1 2 6 0 0) ∧ prefixFits none (.ldk 1 2 0 0) ∧ prefixFits none (.vld 1 2 0 0) ∧ prefixFits none (.st 1 2 6 0 0)
      ∧ prefixFits (some (1, 0x50610000)) (.ld 3 1 0 0 0) ∧ prefixFits (some (1, 0x54628FFF)) (.st 3 2 4 1 0x7FF))
    ∧ (storeForm State.reset none (.st 1 2 6 0 0)).isSome = true ∧ (storeForm State.reset none (.vst 1 2 0 0)).isSome = true
    ∧ atomicDest (.aadd 1 2 3 2 0) = some (1, 2) ∧ atomicDest (.cas 1 2 3 0 0) = some (1, 0) := by
  refine ⟨by decide +kernel, ?_, by decide +kernel⟩
  unfold prefixFits; decide +kernel

/-- Slot 0 waits for an answer of peer 5 at its byte 0. -/
def asking (i : Instr) (b : List Byte) : State :=
  { waiting (.load i 0x0028000000000000 5) (peering id) with arg := { EvArg.at Coord.zero with reply := .data b } }

/-- ReplyEvents: a block, a `waitm`, and a `swwait` whose generation has come and has not, with g2 = 0 and 0x8000. -/
theorem witness_peer_answers :
    let f := State.modMe { asking .fetchBlockDelivery [0] with cur := Coord.zero } fun y => { y with hold := none }
    let q := (asking (.swwait 1 2) [0]).modMe fun x => x.wg 2 0x8000
    f.resolve f.cur f.me.vf none (f.me.segOf 0x0028000000000000) [(fld (0x0028000000000000 : Dword) 0 60, 4)] rightX 0x0028000000000000
        = .ok peerPlace5
    ∧ State.dataPlace (asking (.waitm 1) [0]) Coord.zero 0x0028000000000000 1 rightR = .ok peerPlace5
    ∧ (BitVec.ofNat 16 (leNat ((List.drop 8 [(0 : Byte)]).take 2)) - (((asking (.swwait 1 2) [0]).slot Coord.zero).rg 2).setWidth 16).toNat < 0x8000
    ∧ 0x8000 ≤ (BitVec.ofNat 16 (leNat ((List.drop 8 [(0 : Byte)]).take 2)) - ((q.slot Coord.zero).rg 2).setWidth 16).toNat
    ∧ q.dataPlace Coord.zero 0x0028000000000000 16 rightR = .ok peerPlace5 ∧ q.peerLost 5 = false ∧ q.port = [] := by
  decide +kernel

/-- ReplyEvents: an `ldf` waiter for a full word behind a `ste` waiter for the same. -/
theorem witness_full_empty_waiters :
    let word := localAddr 0 0 / 8
    let w : FeWaiter := { word := word, coord := Coord.zero, isLdf := true }
    let other : FeWaiter := { word := word, coord := Coord.zero.at 1, isLdf := false }
    let h : Hold := .fullEmpty (.ldf 1 2 2 0) (localAddr 0 0)
    let s : State := { waiting h State.reset with
      feq := [other, w], mem := Memory.reset.setFull (localAddr 0 0) true, arg := { EvArg.at Coord.zero with n := word } }
    s.feq = [other] ++ w :: [] ∧ (∀ x ∈ [other], x.word ≠ s.arg.n ∨ x.isLdf = false) ∧ w.word = s.arg.n ∧ w.isLdf = true
    ∧ s.mem.isFull (s.arg.n * 8) = true ∧ localAddr 0 0 / 8 = s.arg.n ∧ (s.slot w.coord).hold = some h
    ∧ firstRefused s.mem w.coord.clusterKey ((List.range 8).map (localAddr 0 0 + ·)) = none := by decide +kernel

/-- ReplyEvents: a packet at a peer, with nothing recorded and with a record. -/
theorem witness_posted_fault :
    let p : Packet := { packetOf (.swadd 1) false 0 with route := .peer 5 0, sent := true }
    let s : State := { State.reset with port := [packetOf (.swadd 2) false 0, p], arg := { EvArg.at Coord.zero with v := 5 } }
    let q : State := s.modMe fun x => { x with rfault := 1 <<< 63 }
    s.arg.inc = s.dev.incarn ∧ s.port = [packetOf (.swadd 2) false 0] ++ p :: []
    ∧ (packetOf (.swadd 2) false 0).sent = false ∧ p.coord = s.arg.c ∧ p.route = .peer (fld s.arg.v 0 9) 0 ∧ p.sent = true
    ∧ p.task = .present ∧ p.completes = none
    ∧ (s.slot s.arg.c).rfault.getLsbD 63 = false ∧ (q.slot q.arg.c).rfault.getLsbD 63 = true := by decide +kernel

/-- VF 0 after a change. -/
def vf0 (f : Vf → Vf) : State := State.reset.modVf 0 f

/-- ReplyEvents: a record of four dwords and a queue of 16; and a saved atomic or store whose answer comes, or that is refused. -/
theorem witness_records :
    let s := vf0 fun x => { x with faults := [{ dwords := [1, 2, 3, 4] }], fqbase := 0x1000, fqsize := 16 }
    let h : Hold := .load (.aadd 1 2 3 2 0) 8 5
    let r : Saved := { slot := { Slot.reset with hold := some h }, held := [], kept := none }
    let q : State := { vf0 (fun x => { x with saved := Sparse.set [] 0 r }) with
      arg := { EvArg.at Coord.zero with reply := .data [7] } }
    let idle : Saved := { slot := Slot.reset, held := [], kept := none }
    let two : State := { vf0 (fun x => { x with displaced := [(0, Sparse.set [] 0 idle), (1, Sparse.set [] 0 r)] }) with
      arg := { EvArg.at Coord.zero with reply := .data [7] } }
    let st : Saved := { slot := { Slot.reset with hold := some (.load (.st 1 2 6 0 0) 8 5) }, held := [], kept := none }
    let u : State := { vf0 (fun x => { x with saved := Sparse.set [] 0 st }) with
      arg := { EvArg.at Coord.zero with reply := .refused 6 0 } }
    (s.mem.wf = true ∧ (s.vf s.arg.vf).faults = { dwords := [1, 2, 3, 4] } :: [] ∧ s.fqOn s.arg.vf = true
      ∧ (16 : Nat) = (s.vf s.arg.vf).fqsize.toNat ∧ physBase (s.vf s.arg.vf).fqbase = 0x1000
      ∧ s.mem.readNat 0x1000 8 - s.mem.readNat 0x1008 8 < 16
      ∧ Unpoisoned s.mem 0x1000 8 ∧ Unpoisoned s.mem (0x1000 + 128 + 32 * (0 % 16)) (8 * 4))
    ∧ q.arg.vf = 0 ∧ Sparse.find? (q.vf 0).saved q.arg.c.key = some r
    ∧ (q.vf 0).standings = [] ++ .saved :: [] ∧ (two.vf 0).standings = [.displaced 0] ++ .displaced 1 :: [.saved]
    ∧ Sparse.find? ((two.vf 0).records (.displaced 1)) two.arg.c.key = some r
    ∧ Sparse.find? ((two.vf 0).records (.displaced 0)) two.arg.c.key = some idle ∧ two.awaits idle.slot = none
    ∧ r.slot.hold = some h ∧ atomicDest (.aadd 1 2 3 2 0) = some (1, 2) ∧ q.arg.reply = .data [7] ∧ q.arg.inc = q.dev.incarn
    ∧ u.arg.vf = 0 ∧ u.arg.inc = u.dev.incarn ∧ Sparse.find? (u.vf 0).saved u.arg.c.key = some st
    ∧ u.arg.reply = .refused 6 0 := by unfold Unpoisoned; decide +kernel

/-- RegisterWriteEvents: what its clauses ask of the state and of the event. -/
theorem witness_RegisterWriteEvents :
    let s : State := { State.reset with arg := { EvArg.at Coord.zero with n := 0x30 } }
    s.receiving s.arg.c = false ∧ (s.cluster s.arg.c).sending = false ∧ (s.vfSlots s.arg.vf).isEmpty = true
    ∧ s.ringEmpty s.arg.vf 0 = true ∧ s.ringEmpty s.arg.vf 1 = true ∧ s.arg.n = 0x30 ∧ s.port = []
    ∧ ({ EvArg.at Coord.zero with n := 0x48 } : EvArg).n = 0x48 ∧ ({ EvArg.at Coord.zero with n := 3 } : EvArg).n < 4
    ∧ s.dev.recovery = false ∧ ((peering id).peerEntry 5).getLsbD 63 = true
    ∧ fld ((peering id).peerEntry 5) 42 12 &&& ~~~(peering id).dev.portsDown ≠ 0#12
    ∧ fld (0xC : Dword) 2 2 = 3#2 ∧ fld (0x4 : Dword) 2 2 ≠ fld (s.cluster s.arg.c).bankmode 2 2
    ∧ bankAddr s.arg.c.clusterKey (1 * 2 ^ 17) ≤ bankAddr 0 (2 ^ 18 - 1)
    ∧ bankAddr 0 (2 ^ 18 - 1) < bankAddr s.arg.c.clusterKey (1 * 2 ^ 17) + 2 ^ 17 := by decide +kernel

/-- A request of the host. -/
def hostRequest (q : HostOp) : State := { State.reset with arg := { EvArg.at Coord.zero with host := some q } }

/-- HostAndPowerEvents: pre-emption, saving and resumption of a VF; a doorbell; a device held for recovery; a flip of a page and a
retry. -/
theorem witness_vf_and_host_lines :
    let c := vf0 fun x => { x with ctxarea := 0x8000000000001000 }
    let p := vf0 fun x => { x with preempt := 1 }
    let r := vf0 fun x => { x with preempt := 2 }
    ((State.reset.vf 0).ctxarea.getLsbD 63 = false ∧ State.reset.paused 0 = false ∧ State.reset.dev.recovery = false)
    ∧ ((c.vf 0).ctxarea.getLsbD 63 = true ∧ c.paused 0 = false)
    ∧ ((p.vf 0).preempt.getLsbD 0 = true ∧ p.enginesAsk 0 = false ∧ p.vfSlots 0 = [] ∧ p.coresOf 0 = [] ∧ p.clustersOf 0 = [])
    ∧ (r.arg.flag = false ∧ (r.vf 0).preempt.getLsbD 1 = true ∧ (r.vf 0).saved = [] ∧ (r.vf 0).savedCores = [] ∧ (r.vf 0).savedClusters = [])
    ∧ r.dev.recovery = false ∧ fld (2 : Dword) 0 2 ≠ 0#2 ∧ fld (0 : Dword) 0 2 = 0#2 ∧ (HostOp.write 0 []).extent = some (0, 0) ∧ State.reset.port = [] ∧ State.reset.mem.hostBias.Nodup ∧ 0 ∉ State.reset.mem.hostBias
    ∧ ({ State.reset with dev := { Device.reset with recovery := true } } : State).dev.recovery = true
    ∧ 7 ∈ ({ State.reset with dev := { Device.reset with backInv := [7] } } : State).dev.backInv := by decide +kernel

/-- HostAndPowerEvents: a host write, read and AtomicOp, and reads of a register. -/
theorem witness_host_requests :
    let refused (q : HostOp) (a n : Nat) : Option (BitVec 8 × Nat) :=
      let s := hostRequest q
      let addrs := (List.range n).map (a + ·)
      firstRefused (if a / 4096 ∈ s.mem.hostBias then s.mem
        else (addrs.map (· / 128)).eraseDups.foldl (fun m l => m.invalidate l) s.mem) 513 addrs
    ((hostRequest (.write 0 [1])).arg.host = some (.write 0 [1]) ∧ (HostOp.write 0 [1]).extent = some (0, 1)
      ∧ (hostRequest (.write 0 [1])).arg.flag = false ∧ (hostRequest (.write 0 [1])).dev.recovery = false
      ∧ physOk 0 = true ∧ physOk (0 + 1 - 1) = true ∧ refused (.write 0 [1]) 0 1 = none)
    ∧ ((HostOp.read 0 8).extent = some (0, 8) ∧ physOk (0 + 8 - 1) = true ∧ refused (.read 0 8) 0 8 = none)
    ∧ ((HostOp.atomic 0 1 32 5 0).extent = some (0, 4) ∧ physOk (0 + 4 - 1) = true ∧ refused (.atomic 0 1 32 5 0) 0 4 = none
      ∧ 0 % (32 / 8) = 0)
    ∧ (hostRequest (.readReg 0 0x020 8)).arg.host = some (.readReg 0 0x020 8)
    ∧ (hostRequest (.readReg 0 0x021 4)).arg.host = some (.readReg 0 0x021 4) := by decide +kernel

/-- R150, R364: an AtomicOp of the host adds to memory; R366: a doorbell register reads zero and a misaligned read all ones. -/
theorem test_host_requests :
    (after .inboundHostRequest (hostRequest (.atomic 0 1 32 5 0)) fun t => t.mem.readNat 0 4 == 5) = true
    ∧ (after .inboundHostRequest (hostRequest (.readReg 0 0x040 8)) fun t => t.out == [.hostAnswer (List.replicate 8 0)]) = true
    ∧ (after .inboundHostRequest (hostRequest (.readReg 0 0x041 4)) fun t => t.out == [.hostAnswer (List.replicate 4 0xFF)]) = true := by
  decide +kernel

/-- HostAndPowerEvents: an idle device with the least and the largest tolerance, a card, a start, an error, a dead cluster. -/
theorem witness_power :
    let t : State := vf0 fun x => { x with sqsize := x.sqsize.set 0 16, ltol := 999 }
    let m : State := { State.reset with dev := { Device.reset with m14 := true } }
    let b : State := { State.reset with arg := { EvArg.at Coord.zero with v := 0x1FE, n := 5 } }
    let e : State := { State.reset with arg := { EvArg.at Coord.zero with ecc := some (.word 8) } }
    let i : State := { State.reset with arg := { EvArg.at Coord.zero with ecc := some (.instructionBlock Coord.zero 8) } }
    let d : State := { State.reset with mem := { Memory.reset with dirty := Sparse.set [] 3 0 } }
    let o : State := { State.reset with mem := { Memory.reset with owner := Sparse.set [] 3 0 } }
    (State.reset.idle = true ∧ 500000 ≤ State.reset.tolerance ∧ ∀ e ∈ State.reset.dev.peers, e.2.getLsbD 63 = false)
    ∧ (t.idle = true ∧ t.tolerance < 1000) ∧ m.dev.m14 = true ∧ (b.dev.failed ≠ 3 ∧ b.dev.bootLog = [] ∧ fld b.arg.v 1 8 = 0xFF#8 ∧ fld b.arg.v 16 4 = 0#4)
    ∧ ({ State.reset with dev := { Device.reset with failed := 3 } } : State).dev.failed = 3
    ∧ (e.arg.ecc = some (.word 8) ∧ 8 < hostBase) ∧ i.arg.ecc = some (.instructionBlock Coord.zero 8)
    ∧ (3 * 128 < hostBase ∧ Sparse.find? d.mem.owner 3 = none ∧ Sparse.find? d.mem.dirty 3 = some d.arg.c.clusterKey)
    ∧ d.caches d.arg.c.clusterKey = true
    ∧ (State.reset.modCluster Coord.zero fun c => { c with bankmode := 0x55555555 }).caches Coord.zero.clusterKey = false
    ∧ (Sparse.find? o.mem.owner 3 = some o.arg.c.clusterKey ∧ Sparse.find? o.mem.dirty 3 = none)
    ∧ Sparse.find? State.reset.mem.dirty 3 ≠ some State.reset.arg.c.clusterKey := by decide +kernel

/-! ## Tasks, queues and strands: states that meet the hypotheses -/

/-- A live crew of one core on a cluster. -/
def crewOn (c : Nat) : Crew :=
  { launch := 7, index := c, cluster := BitVec.ofNat 6 c, cores := [0], started := true, retired := false }

/-- A launch of crews of one core, with `slots` slots a core and task queue 0, and with crews of the given clusters. -/
def launchOn (slots : Nat) (clusters : List Nat) : Launch :=
  { id := 7, vf := 0, packet := (Vector.replicate 16 0).set 3 (BitVec.ofNat 64 (2 ^ 44 + slots * 2 ^ 40)), segs := (Vector.replicate 8 0).set 0 (localSeg 0)
    skeins := [], supervisor := false, pending := [], order := 1, crews := clusters.map crewOn }

/-- Die 0 after a change. -/
def die0 (f : Die → Die) : State := State.reset.modDie 0 f

/-- Slot 0 runs a task of a launch with that many slots a core. -/
def helping (slots : Nat) : State :=
  (die0 fun x => { x with launches := [launchOn slots [0]] }).modSlot Coord.zero fun x => { x with live := true, launch := some 7 }

/-- HelperResult: another slot; no helper slot and one; a join with nothing to wait for and with a live helper. -/
theorem witness_HelperResult :
    let o : State := { State.reset with cur := Coord.zero.at 3 }
    let s := helping 2
    let j := (helping 2).setSlot (Coord.zero.at 1) { Slot.reset with live := true, g := Slot.reset.g }
    let w := j.modMe fun x => x.wg 2 0x7FF
    let v := (helping 2).modVf 0 fun x => { x with saved := Sparse.set [] (Coord.zero.at 1).key { slot := Slot.reset, held := [], kept := none } }
    (o.cur.slot ≠ 0 ∧ TrapsHere 0x02 o) ∧ ((helping 1).cur.slot = 0 ∧ (helping 1).freeHelper = none)
    ∧ (s.cur.slot = 0 ∧ s.freeHelper = some 1 ∧ Quiet s)
    ∧ (∀ i : BitVec 4, 1 ≤ i.toNat → i.toNat ≤ 10 → (s.rg 2).getLsbD i.toNat = true →
        (s.slot (s.cur.at i)).live = false ∧ Sparse.find? (s.vf s.me.vf).saved (s.cur.at i).key = none)
    ∧ Sparse.find? (v.vf v.me.vf).saved (v.cur.at 1).key ≠ none
    ∧ ((1 : BitVec 4).toNat = 1 ∧ (w.rg 2).getLsbD 1 = true ∧ (w.slot (w.cur.at 1)).live = true ∧ Quiet w) := by
  refine ⟨?_, by decide +kernel, ?_, ?_, by decide +kernel, ?_⟩
  · unfold TrapsHere; decide +kernel
  · unfold Quiet; decide +kernel
  · intro i; revert i; decide +kernel
  · unfold Quiet; decide +kernel

/-- An entry of queue 0. -/
def queued (p : Dword) (cls : BitVec 2) (hint : BitVec 16) : QEntry :=
  { ptr := p, strand := 0, cls := cls, stage := 0, hint := hint, expiry := none, launch := some 7, vf := 0, queue := 0, seq := 0 }

/-- Queue 0 is enabled for VF 0, is levellable, and holds entries. -/
def queueOf (cap : Nat) (l : List QEntry) (x : Die) : Die :=
  x.setQueue 0 { cfg := BitVec.ofNat 64 (2 ^ 63 + 2 ^ 53 + 2 ^ 40 + cap), entries := l }

/-- Slot 0 with a local segment; queue 0 with entries. -/
def queueing (cap : Nat) (l : List QEntry) : State := plainLocal.modDie 0 (queueOf cap l)

/-- TaskQueueResult: `enq` and `tspawn` to a queue that is not enabled, to one with room, and to a full one. -/
theorem witness_enqueue :
    let s := queueing 1 []
    let pl := localPlace 0 0 32
    let n := State.reset
    (((n.die n.cur.die).queue 0).enabled = false ∧ TrapsHere 0x06 n)
    ∧ (0 = fldN (s.rg 1) 0 6 ∧ 0 = fldN s.me.crew 0 6 ∧ s.mem.wf = true ∧ Quiet s ∧ ((s.die s.cur.die).queue 0).enabled = true
      ∧ ((s.die s.cur.die).queue 0).vf = s.me.vf ∧ (s.rg 2).toNat % 32 = 0 ∧ Granted s (s.rg 2) 32 rightR pl
      ∧ fldN (descDword s pl 3) 48 16 ≤ 15 ∧ s.queueFull s.cur.die 0 = false ∧ s.me.elems = [])
    ∧ ((afterLoad s pl).dataPlace s.cur (pcPlus (s.rg 2) 16) 4 rightW = .ok (localPlace 0 16 4)
      ∧ (afterLoad s pl).dataPlace s.cur (pcPlus (s.rg 2) 16) 16 rightW = .ok (localPlace 0 16 16)
      ∧ (localPlace 0 16 4).peer = none ∧ (localPlace 0 16 4).addrs ≠ [] ∧ (localPlace 0 16 4).waited = false
      ∧ (localPlace 0 16 4).xcl = false
      ∧ homeRefused s.mem s.cur.clusterKey (localPlace 0 16 16).policy (localPlace 0 16 16).addrs 0 0 = none)
    ∧ HomeHere s.cur.die (localPlace 0 16 4) ∧ HomeHere s.cur.die (localPlace 0 16 16)
    ∧ (queueing 1 [queued 32 0 0xFFFF]).queueFull 0 0 = true := by
  refine ⟨?_, ?_, by decide +kernel, homeHere_of (by decide +kernel), homeHere_of (by decide +kernel), by decide +kernel⟩
  · unfold TrapsHere; decide +kernel
  · unfold Quiet
    exact ⟨by decide +kernel, by decide +kernel, by decide +kernel, by decide +kernel, by decide +kernel, by decide +kernel,
      by decide +kernel, granted_of (by decide +kernel), by decide +kernel⟩

/-- TaskQueueResult: `deq` of an empty queue, and of one with an entry of higher class behind one of lower class. -/
theorem witness_dequeue :
    let e := queued 32 2 0xFFFF
    let x := queued 64 1 0xFFFF
    let s := queueing 4 [x, e, e]
    ((s.die s.cur.die).queue 0).enabled = true ∧ ((s.die s.cur.die).queue 0).vf = s.me.vf ∧ 0 = fldN (s.rg 1) 0 6
    ∧ queueEntries (queueing 4 []) Coord.zero.die 0 = [] ∧ queueEntries s s.cur.die 0 = [x] ++ e :: [e] ∧ e.rank < x.rank
    ∧ e.rank ≤ e.rank ∧ (s.die s.cur.die).strandLive e.strand = true := by decide +kernel

/-- A launch with a live crew on each of the given clusters, and queue 0 with entries. -/
def tasking (clusters : List Nat) (l : List QEntry) : State :=
  { (die0 fun x => { queueOf 4 l x with launches := [launchOn 1 clusters] }) with arg := EvArg.at (Coord.zero.at 11) }

/-- TaskQueueResult: a prefetch and a dispatch; queues that are ready for an apportioning. -/
theorem witness_dispatch :
    let e := queued 32 0 0xFFFF
    let s := tasking [0] [e]
    let p := s.modCore Coord.zero fun k => { k with prefetch := [e] }
    ((s.core s.arg.c).prefetch = [] ∧ (s.bestFor s.arg.c).2 = some e ∧ (s.bestFor s.arg.c).1 = s)
    ∧ ((p.slot p.arg.c).live = false ∧ p.arg.c.slot = 11 ∧ (p.nextPrefetched p.arg.c).2 = some e
      ∧ (p.nextPrefetched p.arg.c).1.fit p.arg.c e = some (launchOn 1 [0], crewOn 0))
    ∧ (let u := (p.nextPrefetched p.arg.c).1.startTask p.arg.c e (launchOn 1 [0]) (crewOn 0)
       u.dataPlace p.arg.c e.ptr 16 rightR = .ok (localPlace 0 32 16)
         ∧ u.crossAll p.arg.c e.strand 0 false (localPlace 0 32 16).addrs = (u, true)
         ∧ firstRefused (p.nextPrefetched p.arg.c).1.mem p.arg.c.clusterKey (localPlace 0 32 16).addrs = none)
    ∧ (s.readyQueues s.arg.c = [0] ∧ (landingSlots s s.arg.c)[0]? = some (Coord.zero.at 11)
      ∧ (landingOwners s s.arg.c)[0]? = some 0 ∧ ((s.die s.arg.c.die).displaced.any fun x => x.1 == (Coord.zero.at 11).key) = false) := by
  decide +kernel

/-- An entry of class 1 in queue 5, for crew 0. -/
def urgent : QEntry := { queued 32 1 0 with queue := 5 }

/-- Queue 5 has an entry of class 1, and its one landing slot runs a task of class 0. -/
def crowded : State :=
  let s := ((tasking [0] []).modDie 0 fun x => x.setQueue 5 { x.queue 0 with entries := [urgent] }).modVf 0 fun v => { v with
    ctxarea := 0x8000000000001000 }
  { s.setSlot (Coord.zero.at 11) { Slot.reset with live := true, qown := 5 } with arg := { EvArg.at Coord.zero with n := 5 } }

/-- TaskQueueResult: the task of core 0's slot 11 gives way. -/
theorem witness_pre_emption :
    let e := urgent
    let s := crowded
    let own := s.ownedBy s.arg.c.die s.arg.n
    ((s.die s.arg.c.die).queue s.arg.n).enabled = true ∧ (s.firstEntry s.arg.c.die s.arg.n fun _ => true).2 = some e
    ∧ (s.firstEntry s.arg.c.die s.arg.n fun _ => true).1 = s ∧ own ≠ []
    ∧ (∀ x ∈ own, (s.slot x).live = true ∧ (s.slot x).cls.toNat < e.cls.toNat)
    ∧ s.giveWay (own.filter fun w => s.takes w e && (s.vf (s.slot w).vf).ctxarea.getLsbD 63
) = some (Coord.zero.at 11)
    ∧ ((s.saveSlot (Coord.zero.at 11) false).modDie s.arg.c.die fun x => { x with
        displaced := x.displaced ++ [((Coord.zero.at 11).key, s.arg.n)] }).fit (Coord.zero.at 11) e = some (launchOn 1 [0], crewOn 0)
    ∧ (Coord.zero.at 11).die = s.arg.c.die := by decide +kernel

/-- A record of slot 11 as it was saved over memory that reads 0. -/
def savedRecord : Saved := { slot := { Slot.reset with cls := 1 }, held := List.replicate 128 0, kept := none }

/-- TaskQueueResult: a displaced task whose record is as it was written; and one with the trap of a refused access. -/
theorem witness_resumption :
    let s : State := { (die0 fun x => { x with displaced := [((Coord.zero.at 11).key, 0)] }).modVf 0 (fun v => { v with
      displaced := [(0, Sparse.set [] (Coord.zero.at 11).key savedRecord)] }) with arg := EvArg.at (Coord.zero.at 11) }
    (s.die s.arg.c.die).displaced.reverse.find? (·.1 == s.arg.c.key) = some (s.arg.c.key, 0) ∧ (s.slot s.arg.c).live = false
    ∧ s.owns 0 s.arg.c = true ∧ Sparse.find? ((s.vf 0).records (.displaced 0)) s.arg.c.key = some savedRecord
    ∧ savedRecord.kept = none ∧ (s.vf 0).standings = [.displaced 0, .saved]
    ∧ Sparse.find? ((s.vf 0).records .saved) s.arg.c.key = none
    ∧ (displacedFrom s s.arg.c).length - 1 = 0 ∧ s.displacedLast s.arg.c = some (0, .displaced 0, savedRecord)
    ∧ savedRecord.slot.incomplete = false ∧ s.paused 0 = false
    ∧ savedRecord.slot.pend = none ∧ ({ savedRecord.slot with pend := some (0x0A, 8) } : Slot).pend = some (0x0A, 8)
    ∧ s.routed s.arg.c 0x0A = false
    ∧ (savedRecord.slot.ofRecord (s.mem.read (recordAddr (s.vf 0).ctxarea s.arg.c) 2688)).status.getLsbD 2 = false
    ∧ (s.mem.read (recordAddr (s.vf 0).ctxarea s.arg.c) 2688).drop 0xA00 = savedRecord.held
    ∧ (s.die s.arg.c.die).strandLive
        (savedRecord.slot.ofRecord (s.mem.read (recordAddr (s.vf 0).ctxarea s.arg.c) 2688)).strand = true := by decide +kernel

/-- TaskQueueResult: of two displaced tasks of VF 0 that wait for slot 11, the second resumes. -/
theorem witness_resumption_of_the_last :
    let k := (Coord.zero.at 11).key
    let first : Saved := { savedRecord with slot := { savedRecord.slot with cls := 0 }, kept := some [] }
    let s : State := { (die0 fun x => { x with displaced := [(k, 0), (k, 0)] }).modVf 0 (fun v => { v with
      displaced := [(0, Sparse.set [] k first), (1, Sparse.set [] k savedRecord)] }) with arg := EvArg.at (Coord.zero.at 11) }
    (s.die s.arg.c.die).displaced.reverse.find? (·.1 == s.arg.c.key) = some (s.arg.c.key, 0)
    ∧ (displacedFrom s s.arg.c).length - 1 = 1 ∧ s.displacedLast s.arg.c = some (0, .displaced 1, savedRecord) := by decide +kernel

/-- TaskQueueResult: a cluster with two entries more than its neighbour, and one with one more. -/
theorem witness_levelling :
    let s := tasking [0, 1] [queued 32 0 0, queued 64 0 0]
    let q := tasking [0, 1] [queued 32 0 0]
    (s.neighbour s.arg.c = some (1, 0) ∧ 0 + 1 < (s.hinted s.arg.c.die s.arg.c.cluster).length)
    ∧ q.neighbour q.arg.c = some (1, 0) ∧ (q.hinted q.arg.c.die q.arg.c.cluster).length ≤ 0 + 1 := by decide +kernel

/-- Entry 5 of die 0's strand table. -/
def stranded (e : StrandEntry) (s : State) : State := s.modDie 0 fun x => { x with strands := Sparse.set [] 5 e }

/-- A live strand of VF 0. -/
def strand9 : StrandEntry := { StrandEntry.reset with state := .live, id := 9, expiry := 100 }

/-- StrandResult: `cut` of strand 0, of one that the die does not know, past a packet that is on its way to peer 5, behind one that waits
here for one through the peer path, and of a live one. -/
theorem witness_cut :
    let s := stranded strand9 (me fun x => x.wg 1 9)
    let o : State := { s with port := [{ packetOf (.swadd 1) false 0 with route := .peer 5 0, sent := true }] }
    let b : State := { s with
      port := [{ packetOf (.swadd 1) false 0 with route := .peer s.dev.devno 0, sent := true }, packetOf (.swadd 1) false 0] }
    (o.drain o.cur = o ∧ ¬ AccessWaitsHere o ∧ (o.rg 1).setWidth 24 = 9#24)
    ∧ (b.drain b.cur = b ∧ b.pump b.cur = b ∧ AccessWaitsHere b)
    ∧ (TrapsHere 0x06 State.reset ∧ (State.reset.rg 1).setWidth 24 = 0#24)
    ∧ (((me fun x => x.wg 1 9).rg 1).setWidth 24 ≠ 0#24 ∧ Quiet s
      ∧ (((me fun x => x.wg 1 9).die 0).strandOf 9) = none)
    ∧ ((s.rg 1).setWidth 24 = 9#24 ∧ (s.die s.cur.die).strandOf 9 = some (5, strand9) ∧ strand9.isLive = true
      ∧ strand9.vf = s.me.vf ∧ strandAt s s.cur.die 5 = strand9
      ∧ StrandsListed (s.die s.cur.die)) := by unfold TrapsHere Quiet StrandsListed AccessWaitsHere; decide +kernel

/-- Slot 0 with a list of members in local memory. -/
def plying (w : List Word) : State :=
  let bytes := w.flatMap fun x => (List.range 4).map fun j => x.extractLsb' (8 * j) 8
  stranded strand9 { plainLocal with mem := Memory.reset.store ((locals 0 16).zip bytes) 0 }

/-- StrandResult: a bad list, a list without a live member, and a list with one. -/
theorem witness_ply :
    let b := plying [0x80000000]
    let n := plying [0x80000008]
    let s := plying [0x80000009, 0x80000008]
    let w (s : State) : List Word := plyWords ((locals 0 16).map s.mem.byte)
    (Quiet s ∧ (s.rg 1).toNat % 16 = 0 ∧ Granted s (s.rg 1) 16 rightR (localPlace 0 0 16) ∧ plyBad (w b) = true)
    ∧ (plyBad (w n) = false ∧ (w n) = [0x80000008] ∧ ((n.die n.cur.die).strandOf 8) = none)
    ∧ plyBad (w s) = false ∧ (w s) = [0x80000009, 0x80000008] ∧ (s.die s.cur.die).strandOf 9 = some (5, strand9)
    ∧ (s.die s.cur.die).freeStrand 8192 = some 0 ∧ s.freePly s.cur.die = some 0x800000 := by
  unfold Quiet
  exact ⟨⟨by decide +kernel, by decide +kernel, granted_of (by decide +kernel), by decide +kernel⟩, by decide +kernel⟩

/-- Die 0's strand table with an event about it. -/
def strandEvent (e : StrandEntry) (now : Nat) (a : EvArg) : State :=
  { stranded e State.reset with clock := Vector.replicate 8 now, arg := a }

/-- StrandResult: expiry, the freeing of an entry, an arriving cut, and packets that enter a die. -/
theorem witness_strand_events :
    let five : EvArg := { EvArg.at Coord.zero with n := 5 }
    let nine : EvArg := { EvArg.at Coord.zero with n := 9 }
    let x := strandEvent strand9 100 five
    let f := strandEvent { strand9 with state := .ended false } 1000100 five
    let c := strandEvent strand9 0 nine
    let k : State := { x with agenda := [.event .cutArrival { EvArg.dieVf 0 0 with n := 9 }] }
    let o := strandEvent { strand9 with vf := 1 } 0 nine
    let h (n : Nat) : EvArg := { EvArg.at Coord.zero with hdr := { id := 9, carried := n, members := [], vf := 0, registers := true } }
    ((strandAt x x.arg.c.die x.arg.n).isLive = true ∧ (x.die x.arg.c.die).expiryOf (strandAt x x.arg.c.die x.arg.n) ≤ x.now x.arg.c.die
      ∧ StrandsListed (x.die x.arg.c.die) ∧ x.cutPending x.arg.c.die strand9 = false)
    ∧ (k.cutPending k.arg.c.die strand9 = true ∧ (k.die k.arg.c.die).strandOf strand9.id = some (k.arg.n, strand9))
    ∧ ((strandAt f f.arg.c.die f.arg.n).state = .ended false ∧ (strandAt f f.arg.c.die f.arg.n).expiry + 1000000 ≤ f.now f.arg.c.die)
    ∧ (c.arg.peer = none ∧ StrandsListed (c.die c.arg.c.die) ∧ (c.die c.arg.c.die).strandOf (BitVec.ofNat 24 c.arg.n) = some (5, strand9) ∧ strandAt c c.arg.c.die 5 = strand9
      ∧ strand9.vf = c.arg.vf)
    ∧ (o.arg.peer = none ∧ (o.die o.arg.c.die).strandOf (BitVec.ofNat 24 o.arg.n) = some (5, { strand9 with vf := 1 }) ∧ 1 ≠ o.arg.vf)
    ∧ ((h 0).hdr.members = [] ∧ (h 0).hdr.id ≠ 0 ∧ (h 0).hdr.carried = 0
      ∧ (Sparse.get (State.reset.die 0).ann ((h 0).hdr.vf * 16 + 6) 0).toNat < 2 ^ 64 - 1)
    ∧ ((h 1).hdr.carried ≠ 0 ∧ (h 1).hdr.registers = true ∧ (State.reset.die 0).strandOf (h 1).hdr.id = none
      ∧ (State.reset.die 0).freeStrand 8192 = some 0)
    ∧ ((strandEvent strand9 0 (h 1)).die 0).strandOf (h 1).hdr.id = some (5, strand9) := by
  unfold StrandsListed; decide +kernel

/-- StrandResult: a held packet whose carried expiry has come, behind another slot's packet. -/
theorem witness_held_packet :
    let p : Packet := { packetOf (.swadd 1) false 0 with held := true, strand := 9, expires := some 200 }
    let q : Packet := { packetOf (.swadd 2) false 0 with coord := Coord.zero.at 1 }
    let s := strandEvent strand9 200 (EvArg.at Coord.zero)
    let h : HeldPeer := { die := 0, source := 5, sender := 0, id := 9, vf := 0, expires := some 200, dropped := false }
    let k : State := { s with heldPeers := [{ h with die := 1 }, h], arg := { s.arg with flag := true } }
    (k.arg.flag = true ∧ k.heldPeers = [{ h with die := 1 }] ++ h :: [] ∧ h.die = k.arg.c.die ∧ k.overdueHere h = true
      ∧ ∀ x ∈ [{ h with die := 1 }], x.die = k.arg.c.die → k.overdueHere x = false)
    ∧ s.arg.flag = false ∧ (∃ r : Route, r = .peer 5 0 ∧ { p with route := r }.held = true ∧ { p with route := r }.expires = some 200)
    ∧ p.route = .here (localAddr 0 0) ∧ (∀ x ∈ [q], x.coord = s.arg.c → s.overdue x = false) ∧ p.coord = s.arg.c ∧ p.held = true ∧ p.expires = some 200
    ∧ 200 ≤ s.now s.arg.c.die ∧ p.completes = none
    ∧ (Sparse.get (s.die s.arg.c.die).ann (p.vf * 16 + 6) 0).toNat < 2 ^ 64 - 1 := by
  refine ⟨by decide +kernel, by decide +kernel, ⟨_, rfl, rfl, rfl⟩, by decide +kernel⟩

/-! ## Skeins and launches: states that meet the hypotheses -/

/-- A skein with a share in cluster 0's partition of die 0. -/
def skeinOf (st : SkState) : Skein :=
  { name := 3, made := 1, back := 0, size := 1, banks := false, matrixDies := false, shares := [(0, 0, 0)], lastAttach := 0, prevAttach := 0
    pinned := false, state := st, placed := 0, attached := [] }

/-- Die 0's directory of VF 0 holds the skein, whose placement 0 has its data, and slot 0 runs a task of a launch that names it first. -/
def skeining (l : List Skein) : State :=
  (({ plainLocal with arg := { EvArg.at Coord.zero with v := 3 } }.modVf 0 fun x => { x with
    restored := [((3, 1), 0)] }).modDie 0 fun x => { x with
    dirs := Sparse.set [] 0 l, launches := [{ launchOn 1 [0] with skeins := [(3, 1)] }] }).modMe fun x => { x.wg 1 3 with launch := some 7 }

/-- SkeinAndLaunchResult: `skfind` and `skflush` of a name that the launch does not list, of one that the directory lacks, and
of a resident skein; the end of a `skflush`; an eviction and a restore. -/
theorem witness_skeins :
    let s := skeining [skeinOf .resident]
    let q := s.modMe fun x => { x with hold := some (.skflush 3) }
    let coming : Skein := { skeinOf .resident with placed := 5 }
    let c := (skeining [coming]).modMe fun x => { x with hold := some (.skflush 3) }
    let u := s.modVf 0 fun x => { x with wroteBack := [((3, 1), 0)] }
    let e := (skeining [skeinOf .evicted]).modMe fun x => { x with hold := some (.skflush 3) }
    (State.reset.skeinIndex (State.reset.rg 1) = none ∧ TrapsHere 0x06 State.reset)
    ∧ ((skeining []).skeinIndex ((skeining []).rg 1) = some (0, 1) ∧ ((skeining []).die 0).skein? 0 ((skeining []).rg 1) = none)
    ∧ (s.skeinIndex (s.rg 1) = some (0, 1) ∧ (s.die s.cur.die).skein? s.me.vf (s.rg 1) = some (skeinOf .resident)
      ∧ (skeinOf .resident).reachable s.cur = some (0, 0, 0) ∧ (0 ≤ 7))
    ∧ ((q.slot q.arg.c).hold = some (.skflush 3) ∧ (∀ p ∈ q.port, p.coord ≠ q.arg.c) 
      ∧ (q.die q.arg.c.die).skein? (q.slot q.arg.c).vf 3 = some (skeinOf .resident) ∧ q.restoring (q.slot q.arg.c).vf (skeinOf .resident) = false)
    ∧ ((e.slot e.arg.c).hold = some (.skflush 3) ∧ (e.die e.arg.c.die).skein? (e.slot e.arg.c).vf 3 = some (skeinOf .evicted))
    ∧ (s.die s.arg.c.die).skein? s.arg.vf s.arg.v = some (skeinOf .resident) ∧ (skeinOf .resident).pinned = false
    ∧ (skeinOf .resident).attached = [] ∧ s.restoring s.arg.vf (skeinOf .resident) = false
    ∧ (s.evictedElsewhere s.arg.vf (skeinOf .resident) = false ∧ u.evictedElsewhere u.arg.vf (skeinOf .resident) = true)
    ∧ c.restoring 0 coming = true ∧ (c.slot c.arg.c).hold = some (.skflush 3) ∧ (c.die 0).skein? 0 3 = some coming ∧ c.skeinIndex (c.rg 1) = some (0, 1) ∧ coming.reachable c.cur = some (0, 0, 0)
    ∧ bit c.me.status 2 = false ∧ c.routed c.cur 0x10 = false := by
  unfold TrapsHere; decide +kernel

/-- A dword in memory. -/
def putD (m : Memory) (a : Nat) (v : Dword) : Memory := m.store ((List.range 8).map fun j => (a + j, v.extractLsb' (8 * j) 8)) 0

/-- VF 0 has a launch queue of 16 entries at 0x20000 that holds one packet, which gives these dwords. -/
def launching (p : List (Nat × Dword)) : State :=
  let m := p.foldl (fun m x => putD m (0x20080 + 8 * x.1) x.2) (putD Memory.reset 0x20000 1)
  { (vf0 fun x => { x with lqbase := 0x20000, lqsize := 16 }) with mem := m, arg := EvArg.at Coord.zero }

/-- SkeinAndLaunchResult: `skrel` and `skpin` with a disabled queue and with room. -/
theorem witness_directory_packets :
    let s := launching []
    State.reset.lqFull State.reset.me.vf = true ∧ Quiet State.reset
    ∧ (Quiet s ∧ s.lqFull s.me.vf = false ∧ (s.vf s.me.vf).portQ = [] ∧ s.mem.wf = true
      ∧ Unpoisoned s.mem (s.lqEntry s.me.vf (s.lqTail s.me.vf)) 256 ∧ Unpoisoned s.mem (physBase (s.vf s.me.vf).lqbase) 8) := by
  unfold Quiet Unpoisoned; decide +kernel

/-- SkeinAndLaunchResult: a pin packet and a stage map at the head of the queue. -/
theorem witness_maps :
    let attached : Skein := { skeinOf .resident with attached := [(7, true)] }
    let p := (launching [(3, 0x8000), (8, 0x2000000000000000), (9, 3)]).modDie 0 fun x => { x with dirs := Sparse.set [] 0 [skeinOf .resident] }
    let r := (launching [(3, 0x8000), (8, 0x1000000000000000), (9, 3)]).modDie 0 fun x => { x with dirs := Sparse.set [] 0 [attached] }
    let m := launching [(3, 0x8000), (8, 0)]
    (p.mem.wf = true ∧ p.nextMap p.arg.c.die p.arg.vf = some (0, p.packetAt 0x20080) ∧ fldN ((p.packetAt 0x20080).get 8) 60 4 = 2
      ∧ (p.die p.arg.c.die).skein? p.arg.vf ((p.packetAt 0x20080).get 9) = some (skeinOf .resident))
    ∧ (m.mem.wf = true ∧ m.nextMap m.arg.c.die m.arg.vf = some (0, m.packetAt 0x20080) ∧ fldN ((m.packetAt 0x20080).get 8) 60 4 = 0
      ∧ Unpoisoned m.mem (physBase (m.vf m.arg.vf).lqbase + 16 + 8 * m.arg.c.die.toNat) 8)
    ∧ (fldN ((r.packetAt 0x20080).get 8) 60 4 = 1 ∧ (r.die r.arg.c.die).skein? r.arg.vf ((r.packetAt 0x20080).get 9) = some attached
      ∧ attached.attached ≠ [] ∧ attached.state ≠ .evicted) := by
  unfold Unpoisoned; decide +kernel

/-- SkeinAndLaunchResult: the port has a packet of the device itself; and a ring's packet. -/
theorem witness_launch_port :
    let s := (launching []).modVf 0 fun x => { x with portQ := [Vector.replicate 16 0] }
    let r : State := { (launching []).modVf 0 fun x => { x with sqsize := x.sqsize.set 0 16, sqbase := x.sqbase.set 0 0x30000 } with
      mem := putD (launching []).mem 0x30090 1 }
    (s.mem.wf = true ∧ s.lqFull s.arg.vf = false ∧ s.paused s.arg.vf = false ∧ (s.vf s.arg.vf).portQ = Vector.replicate 16 0 :: []
      ∧ Unpoisoned s.mem (s.lqEntry s.arg.vf (s.lqTail s.arg.vf)) 256 ∧ Unpoisoned s.mem (physBase (s.vf s.arg.vf).lqbase) 8)
    ∧ (r.mem.wf = true ∧ r.lqFull r.arg.vf = false ∧ r.paused r.arg.vf = false ∧ (r.vf r.arg.vf).portQ = []
      ∧ r.readyRing r.arg.vf = some (0, 0x30080)
      ∧ 0x30008 = physBase ((r.vf r.arg.vf).sqbase.getD 0 0) + 8 ∧ Unpoisoned r.mem 0x30008 8
      ∧ Unpoisoned r.mem (r.lqEntry r.arg.vf (r.lqTail r.arg.vf)) 256
      ∧ (r.lqEntry r.arg.vf (r.lqTail r.arg.vf) + 256 ≤ 0x30008
        ∧ physBase (r.vf r.arg.vf).lqbase + 8 ≤ r.lqEntry r.arg.vf (r.lqTail r.arg.vf))) := by unfold Unpoisoned; decide +kernel

/-- The same queue with page 0 of VF 0 mapped, and a packet of 50 crews of one core with one slot. -/
def distributing : State :=
  let s := launching [(2, 1), (3, 0x0032110000000000)]
  let t (m : Memory) (i : Nat) (v : Dword) : Memory := putD m (0x10000 + 0x1000 * i) v
  { s.modVf 0 fun x => { x with vmroot := 0x10000 } with
    mem := t (t (t s.mem 0 0x8000000000011000) 1 0x8000000000012000) 2 0xF900000000200000 }

/-- SkeinAndLaunchResult: a KiB of a share in die 0's stack, with its backing copy at VA 0 in page 0, and without one. -/
theorem witness_share_copies :
    distributing.mem.wf = true ∧ stackAddr 0 0 % 1024 = 0 ∧ stackAddr 0 0 + 1024 ≤ hostBase
    ∧ distributing.backingAddr Coord.zero 0 0 rightW = some 0x200000 ∧ distributing.backingAddr Coord.zero 0 0 rightR = some 0x200000
    ∧ 0x200000 % 1024 = 0 ∧ State.reset.backingAddr Coord.zero 0 0 rightW = none ∧ State.reset.backingAddr Coord.zero 0 0 rightR = none
    ∧ wordRefused distributing.mem Coord.zero.clusterKey (stackAddr 0 0) = false
    ∧ wordRefused distributing.mem Coord.zero.clusterKey 0x200000 = false := by decide +kernel

/-- SkeinAndLaunchResult: such a packet is distributed over every cluster. -/
theorem witness_distribution :
    let s := distributing
    let p := s.packetAt (s.lqEntry s.arg.vf 0)
    ringSizeOk (s.vf s.arg.vf).lqsize = true ∧ 0 = s.lqPassed s.arg.vf s.arg.c.die ∧ 0 < s.lqTail s.arg.vf ∧ pkFlag p 7 = false
    ∧ pkFieldsOk p = true ∧ s.readTables s.arg.c.die s.arg.vf p = some (Vector.replicate 8 0, [])
    ∧ s.packetStrand s.arg.c.die s.arg.vf p = (s, true) ∧ s.allRestored s.arg.c.die s.arg.vf [] = true
    ∧ s.candidates s.arg.c.die s.arg.vf p [] ≠ [] ∧ pkCrews p = 50 := by decide +kernel

/-- That packet's skein list is empty, so nothing is to be placed. -/
theorem witness_no_skein (s : State) : s.skeinList 0 0 1 [] [] = .go s := rfl

/-- SkeinAndLaunchResult: a crew that has not started, and a launch whose notice comes. -/
theorem witness_crew_start :
    let k : Crew := { crewOn 0 with cores := [], started := false }
    let l : Launch := { launchOn 1 [] with crews := [k] }
    let s : State := { (die0 fun x => { x with launches := [l] }) with arg := { EvArg.at Coord.zero with v := 7 } }
    (s.die s.arg.c.die).nextCrew s.arg.c.cluster = some (l, k) ∧ (s.die s.arg.c.die).strandLive l.strandOf = true
    ∧ s.paused l.vf = false ∧ k.cluster = s.arg.c.cluster ∧ l.coresOf = 1
    ∧ (((List.range 8).map (BitVec.ofNat 3)).filter fun core => s.coreFree { s.arg.c with core := core } l.slotsOf).length = 8
    ∧ (s.die 0).launch? s.arg.vf s.arg.v = some l ∧ s.port = [] ∧ s.loose = []
    ∧ (let x : Loose := { coord := Coord.zero, dev := 5, vf := 0, launch := some 7, stores := true }
       x.stores = true ∧ x.launch = some s.arg.v ∧ x.vf = s.arg.vf ∧ x.coord.die = s.arg.c.die)
    ∧ (let p : Packet := { packetOf (.swadd 1) false 0 with launch := some 7 }
       p.launch = some s.arg.v ∧ p.vf = s.arg.vf ∧ p.coord.die = s.arg.c.die) := by decide +kernel

/-! ## Rings, messages, peers and publication: states that meet the hypotheses -/

/-- A receiving ring of two slots of 256 bytes in bank 8 whose sender is cluster 0 of the paired die. -/
def ringWord : Dword := BitVec.ofNat 64 (2 ^ 63 + 8 * 2 ^ 44 + 2 ^ 34)

/-- Cluster 0 of die 0 after a change, with a local segment, g1 at 0 and g2 at 16. -/
def ringing (f : Cluster → Cluster) : State := (plainLocal.modMe fun x => x.wg 2 16).modCluster Coord.zero f

/-- ShuttleResult: `shsend` with no ring, with too many bytes, with no permit, with one, and while a store of the slot waits at peer 5. -/
theorem witness_shsend :
    let on (n : Nat) : State := ringing fun c => { c with shtxEn := true, permits := n }
    let pl := localPlace 0 0 16
    let o : State := { on 1 with port := [{ packetOf (.swadd 1) false 0 with route := .peer 5 0 }] }
    ((State.reset.cluster State.reset.cur).shtxEn = false ∧ TrapsHere 0x06 State.reset)
    ∧ (((on 0).cluster (on 0).cur).shtxEn = true ∧ ((on 0).cluster (on 0).cur).shtxVf.toNat = (on 0).me.vf
      ∧ fldN ((on 0).rg 1) 0 17 = 0 ∧ TrapsHere 0x05 (on 0))
    ∧ (fld ((on 1).rg 2) 17 14 = 0#14 ∧ fldN ((on 1).rg 2) 0 17 = 16
      ∧ 16 ≤ 256 * (((on 1).cluster (on 1).cur).shtxSize.toNat + 1) - 16 ∧ ((on 1).rg 1).toNat % 64 = 0 ∧ (on 1).kindOf ((on 1).rg 1) = 1
      ∧ (on 1).enginePlace (on 1).cur (on 1).me.vf none ((on 1).rptr ((on 1).rg 1)) 16 rightR = .ok pl)
    ∧ (((on 0).cluster (on 0).cur).permits = 0 ∧ ((on 1).cluster (on 1).cur).permits ≠ 0 ∧ Quiet (on 1))
    ∧ (o.drain o.cur).outstanding o.cur = true := by
  unfold TrapsHere Quiet; decide +kernel

/-- ShuttleResult: `shpermit` without a ring, of nothing and of a slot; `shrecv` of a wrong kind, with nothing full, with a full slot. -/
theorem witness_shpermit_shrecv :
    let on (n : Nat) : State := ringing fun c => { c with shrx := ringWord, full := n }
    let k : State := State.reset.modCluster Coord.zero fun c => { c with shrx := ringWord }
    (rxEn ((State.reset.cluster State.reset.cur).shrx) = false ∧ TrapsHere 0x06 State.reset)
    ∧ (rxEn ((on 0).cluster (on 0).cur).shrx = true ∧ rxVf ((on 0).cluster (on 0).cur).shrx = (on 0).me.vf
      ∧ min (fldN ((on 0).rg 1) 0 7) (rxSlots ((on 0).cluster (on 0).cur).shrx - 0 - 0) = 0
      ∧ min (fldN ((on 0).rg 2) 0 7) (rxSlots ((on 0).cluster (on 0).cur).shrx - 0 - 0) = 2)
    ∧ (rxEn (k.cluster k.cur).shrx = true ∧ k.kindOf (k.rg 1) ≠ 1 ∧ TrapsHere 0x06 k)
    ∧ (((on 0).rg 1).toNat % 64 = 0 ∧ (on 0).kindOf ((on 0).rg 1) = 1
      ∧ (on 0).dataPlace (on 0).cur ((on 0).rg 1) (rxSize ((on 0).cluster (on 0).cur).shrx - 16) rightW = .ok (localPlace 0 0 240))
    ∧ ((on 0).cluster (on 0).cur).full ≤ ((on 0).cluster (on 0).cur).taking.length
    ∧ ((on 1).cluster (on 1).cur).taking.length < ((on 1).cluster (on 1).cur).full
    ∧ (on 1).dataPlace (on 1).cur ((on 1).rg 1) (rxSize ((on 1).cluster (on 1).cur).shrx - 16) rightW = .ok (localPlace 0 0 240) := by
  unfold TrapsHere; decide +kernel

/-- A send of 16 bytes from local memory. -/
def sendOf (started trailed : Bool) (moved : Nat) (status : Byte) : Send :=
  { src := { p := 0, seg := localSeg 0 }, srcAddr := localAddr 0 0, count := 16, head := 0, held := false, strand := 0, core := 0
    slot := 0, seq := 0, num := 1, vf := 0, waits := false, cut := false, started := started, moved := moved, status := status, trailed := trailed }

/-- Cluster 0 of die 0 with that send, and a ring at cluster 0 of die 4. -/
def shuttling (x : Send) : State :=
  let s := (ringing fun c => { c with shtxEn := true, sends := [x] }).modCluster { Coord.zero with die := 4 } fun c =>
    { c with shrx := ringWord, resv := 1 }
  { s with arg := EvArg.at Coord.zero }

/-- ShuttleResult: grants that count and that go back; a send that is dropped, accepted, stopped while it is held, copied, trailed and completed. -/
theorem witness_sends :
    let g : Grant := { permits := 1, size := 0, source := 0 }
    let w (en : Bool) : State := ringing fun c => { c with shtxEn := en, grants := [g] }
    let d : State := ringing fun c => { c with sends := [sendOf false false 0 0] }
    let a := shuttling (sendOf false false 0 0)
    let h := shuttling { sendOf false false 0 0 with held := true, cut := true }
    let p := shuttling (sendOf true false 0 0)
    let t := shuttling (sendOf true false 16 0)
    let e := shuttling (sendOf true false 0 9)
    let c := shuttling (sendOf true true 16 0)
    let ok (s : State) (l : Bool) : Bool := (s.cross 0 (sendTarget s Coord.zero).die true 0 0 l).2
    (((w true).cluster Coord.zero).grants = [g] ∧ ((w true).cluster Coord.zero).shtxEn = true
      ∧ g.source = ((w true).cluster Coord.zero).shtxTarget ∧ ((w false).cluster Coord.zero).shtxEn = false)
    ∧ ((d.cluster Coord.zero).sends = [sendOf false false 0 0] ∧ rxEn (d.cluster (sendTarget d Coord.zero)).shrx = false)
    ∧ ((a.cluster a.arg.c).sends = [sendOf false false 0 0] ∧ rxEn (a.cluster (sendTarget a a.arg.c)).shrx = true
      ∧ rxVf (a.cluster (sendTarget a a.arg.c)).shrx = 0 ∧ rxPeer (a.cluster (sendTarget a a.arg.c)).shrx = a.arg.c.cluster
      ∧ (a.die 0).strandLive 0 = true ∧ ok a true = true)
    ∧ ((h.cluster h.arg.c).sends = [{ sendOf false false 0 0 with held := true, cut := true }] ∧ (sendOf false false 0 0).started = false
      ∧ rxEn (h.cluster (sendTarget h h.arg.c)).shrx = true ∧ rxVf (h.cluster (sendTarget h h.arg.c)).shrx = 0
      ∧ rxPeer (h.cluster (sendTarget h h.arg.c)).shrx = h.arg.c.cluster)
    ∧ ((p.cluster p.arg.c).sends = [sendOf true false 0 0] ∧ ok p false = true ∧ p.mem.wf = true
      ∧ firstRefused p.mem p.arg.c.clusterKey (addrsFrom (localAddr 0 0 + 0) (min 256 16)) = none
      ∧ firstRefused p.mem (sendTarget p p.arg.c).clusterKey (addrsFrom (landingAddr p (sendTarget p p.arg.c) 0 + 0) 16) = none)
    ∧ ((t.cluster t.arg.c).sends = [sendOf true false 16 0] ∧ (t.die 0).strandLive 0 = true ∧ ok t false = true ∧ (16 < 2 ^ 17))
    ∧ (e.cluster e.arg.c).sends = [sendOf true false 0 9] ∧ (c.cluster c.arg.c).sends = [sendOf true true 16 0] := by decide +kernel

/-- ShuttleResult: slot 0 copies landing slot 0 to the start of local memory. -/
theorem witness_landing_copy :
    let s : State := { (ringing fun c => { c with shrx := ringWord, full := 1, taking := [Coord.zero] }).modMe fun x => { x with
      hold := some (.shrecv 1 2 0 [localAddr 0 0]) } with arg := EvArg.at Coord.zero }
    (s.cluster s.arg.c).taking.contains s.arg.c = true ∧ (s.slot s.arg.c).hold = some (.shrecv 1 2 0 [localAddr 0 0])
    ∧ 0 = min (fldN (s.mem.dword (trailerAddr s s.arg.c 0)) 0 17) (rxSize (s.cluster s.arg.c).shrx - 16) ∧ s.mem.wf = true
    ∧ firstRefused s.mem s.arg.c.clusterKey (addrsFrom (landingAddr s s.arg.c 0) 0) = none
    ∧ firstRefused s.mem s.arg.c.clusterKey (([localAddr 0 0] : List Nat).take 0) = none := by decide +kernel

/-- A message of slot 0 with its handler 0. -/
def messageOf (vf : Nat) : Message := { dwords := List.replicate 8 0, sender := Coord.zero.bits 0, strand := 0, vf := vf, inc := 0, num := 4 }

/-- The message on its way to core 0, whose slot 3 runs a task of VF 0, from slot 0, which waits. -/
def messaging (vf : Nat) : State :=
  let s := (State.reset.setSlot (Coord.zero.at 3) { Slot.reset with live := true }).modMe fun x => { x with hold := some (.message 0 4) }
  { s with msgs := [(Coord.zero.at 14, messageOf vf)], arg := EvArg.at (Coord.zero.at 14) }

/-- MessageAndPeerResult: `amsg` in slot 14, to a core that does not exist, and to core 0; its acceptance and its refusal; a start. -/
theorem witness_messages :
    let o : State := { State.reset with cur := Coord.zero.at 14 }
    let n := me fun x => x.wg 1 (63 <<< 7)
    let s := plainLocal
    let a := messaging 0
    let r := messaging 1
    let h : State := { (core0 fun k => { k with amq := [messageOf 0] }) with arg := EvArg.at Coord.zero }
    ((o.cur.slot = 14) ∧ TrapsHere 0x06 o) ∧ (n.cur.slot ≠ 14 ∧ (Coord.ofBits (n.rg 1)).ok = false ∧ TrapsHere 0x05 n)
    ∧ ((Coord.ofBits (s.rg 1)).ok = true ∧ fld (s.rg 1) 16 9 = s.dev.devno ∧ (Coord.ofBits (s.rg 1)).die = s.cur.die
      ∧ (s.rg 2).toNat % 64 = 0 ∧ Quiet s ∧ Granted s (s.rg 2) 64 rightR (localPlace 0 0 64)
      ∧ fld (recordDword ((locals 0 64).map s.mem.byte) 0) 8 56 = 0#56)
    ∧ (a.arg.flag = false ∧ a.msgs = [] ++ (Coord.zero.at 14, messageOf 0) :: [] ∧ fld (messageOf 0).sender 16 9 = a.dev.devno
      ∧ Coord.zero = Coord.ofBits (messageOf 0).sender ∧ (a.slot Coord.zero).hold = some (.message 0 4)
      ∧ a.coreVf (Coord.zero.at 14) = some 0 ∧ (a.core (Coord.zero.at 14)).amq.length < 16)
    ∧ (r.coreVf (Coord.zero.at 14) = some 0 ∧ 0 ≠ (messageOf 1).vf ∧ (r.slot Coord.zero).status.getLsbD 2 = false
      ∧ r.routed Coord.zero 0x0A = false)
    ∧ (h.core (h.arg.c.at 14)).amq = messageOf 0 :: [] ∧ (h.slot (h.arg.c.at 14)).live = false ∧ h.paused 0 = false
    ∧ (h.die 0).strandLive 0 = true ∧ (messageOf 0).dwords.length = 8 := by
  unfold TrapsHere Quiet
  exact ⟨by decide +kernel, by decide +kernel, ⟨by decide +kernel, by decide +kernel, by decide +kernel, by decide +kernel,
    by decide +kernel, granted_of (by decide +kernel), by decide +kernel⟩, by decide +kernel⟩

/-- A read of 8 bytes at VA 0 by device 5. -/
def readRequest (inc : Byte) : PeerReq :=
  { source := 5, sourceInc := 0, targetInc := inc, sender := 0, pf := 0, policy := 0, va := 0, op := .read 8
    hdr := { id := 0, carried := 0, members := [], vf := 0, registers := false } }

/-- The peer table names device 5 at port 0. -/
def peered (s : State) : State :=
  { s with dev := { s.dev with peers := Sparse.set [] 5 (BitVec.ofNat 64 (2 ^ 63 + 2 ^ 42)) } }

/-- MessageAndPeerResult: requests of a stale incarnation and of this one; a device that is lost; a port that is down. -/
theorem witness_peers :
    let q : State := { peered distributing with arg := { EvArg.at Coord.zero with peer := some (readRequest 0) } }
    let pl : Place := { addrs := (List.range 8).map (0x200000 + ·), peer := none, policy := 0, xcl := false, pages := [(false, 0, 8)] }
    let l : State := { waiting (.load (.ld 1 2 6 0 0) 8 5) (peered State.reset) with arg := { EvArg.at Coord.zero with n := 5 } }
    (((readRequest 1).targetInc ≠ q.dev.incarn)
      ∧ q.arg.peer = some (readRequest 0) ∧ (readRequest 0).targetInc = q.dev.incarn ∧ (q.peerEntry 5).getLsbD 63 = true
      ∧ (q.peerEntry 5).getLsbD 62 = false ∧ fld (q.peerEntry 5) 54 8 = (readRequest 0).sourceInc
      ∧ q.peerPlace q.arg.c (readRequest 0) rightR (0, 8) = .ok pl
      ∧ q.heldPeers = [] ∧ q.ingress q.arg.c.die (readRequest 0).hdr = (q, true)
      ∧ (q.ingressAll q.arg.c (readRequest 0).hdr pl.addrs).2 = true
      ∧ homeRefused q.mem peerAgent (readRequest 0).policy pl.addrs 0 0 = none)
    ∧ (l.arg.inc = l.dev.incarn ∧ l.waitsFor 5 = true ∧ l.waitingFor 5 = [Coord.zero] ∧ l.savedFor 5 = [] ∧ l.copiesFor 5 = [] ∧ l.commandsFor 5 = []
      ∧ (l.slot Coord.zero).hold = some (.load (.ld 1 2 6 0 0) 8 5) ∧ (l.slot Coord.zero).status.getLsbD 2 = false
      ∧ l.routed Coord.zero 0x0B = false ∧ l.port = [])
    ∧ State.reset.waitsFor (BitVec.ofNat 9 5) = false
    ∧ (let s := peered State.reset
       s.arg.n < 12 ∧ (s.peerEntry 5).getLsbD (42 + s.arg.n) = true
       ∧ fld (s.peerEntry 5) 42 12 &&& ~~~(s.dev.portsDown ||| (1#12 <<< s.arg.n)) = 0#12) := by decide +kernel

/-- A walk of slot 0 over an object at 64 in local memory. -/
def walkOf (stack : List Dword) (walked : Bool) : Walk :=
  { coord := Coord.zero, vf := 0, root := 64, slotPtr := 0, num := 1, stack := stack, spilled := 0
    todo := [], waits := [], visits := 0, marked := [(localAddr 0 64, 0)], walked := walked, suspended := false, task := .present, pf := 0, pfAt := none, held := false }

/-- Slot 0 waits for that walk; the object is a header and one field. -/
def publishing (w : Walk) : State :=
  let s := (plainLocal.modMe fun x => { x with hold := some .walk }).modCluster Coord.zero fun c => { c with walk := some w }
  { s with
    mem := Memory.reset.store ((List.range 8).map fun j => (localAddr 0 64 + j, ((0x18000000000 : Dword)).extractLsb' (8 * j) 8)) 2
    arg := EvArg.at Coord.zero }

/-- PublicationResult: `pub` to a pointer that is not aligned and to one that is; a visit; the root store. -/
theorem witness_PublicationResult :
    let u := me fun x => x.wg 2 1
    let s := plainLocal
    let w := walkOf [64] true
    let v := publishing w
    let addrs := [localAddr 0 64, localAddr 0 72]
    let r := publishing (walkOf [] true)
    ((u.rg 2).toNat % 8 ≠ 0 ∧ TrapsHere 0x04 u)
    ∧ ((s.rg 2).toNat % 8 = 0 ∧ s.dataPlace s.cur (s.rg 2) 8 rightW = .ok (localPlace 0 0 8) ∧ Quiet s
      ∧ (s.cluster s.cur).walk = none ∧ (s.cluster s.cur).walkQ = [])
    ∧ ((v.cluster v.arg.c).walk = some w ∧ w.coord.clusterKey = v.arg.c.clusterKey ∧ (v.slot w.coord).hold = some .walk
      ∧ w.stack = 64 :: [] ∧ v.mem.wf = true ∧ v.walkCheck w 64 = .ok (localAddr 0 64, 0x18000000000)
      ∧ collect (fun i => v.walkAddr w 64 (ptrAdd 64 (BitVec.ofNat 60 (8 * i)))) (List.range (2 * headerSize 0x18000000000)) = .ok addrs
      ∧ v.visitCross w 64 = (v, true) ∧ addrs.Nodup ∧ (∀ x ∈ addrs, x % 8 = 0 ∧ v.mem.tag x ≠ 3) ∧ ∀ x ∈ addrs.tail, v.mem.tag x ≠ 1)
    ∧ ((r.cluster r.arg.c).walk = some (walkOf [] true) ∧ (r.slot Coord.zero).hold = some .walk
      ∧ r.dataPlace Coord.zero 0 8 rightW = .ok (localPlace 0 0 8) ∧ r.pump Coord.zero = r
      ∧ (r.cluster Coord.zero).walkQ = []) := by unfold TrapsHere Quiet; decide +kernel

/-- PublicationResult: the same object with a field that names a second one, through a segment of policy 11. -/
def naming : State :=
  let s := (withLocal 3 fun x => { x with hold := some .walk }).modCluster Coord.zero fun c => { c with walk := some (walkOf [64] true) }
  let put (m : Memory) (a : Nat) (v : Dword) (tag : BitVec 2) : Memory :=
    m.store ((List.range 8).map fun j => (localAddr 0 a + j, v.extractLsb' (8 * j) 8)) tag
  { s with
    mem := put (put (put Memory.reset 64 0x18000000000 2) 72 128 1) 128 0x10000000000 2
    arg := EvArg.at Coord.zero }

theorem witness_visit_with_a_field :
    let s := naming
    let w := walkOf [64] true
    let v : Dword := 128 ||| (1#64 <<< 60)
    s.walkCheck w 64 = .ok (localAddr 0 64, 0x18000000000) ∧ s.visitCross w 64 = (s, true)
    ∧ (s.mem.tag (localAddr 0 72) = 1 ∧ sgPolicy ((s.slot w.coord).segOf (s.mem.dword (localAddr 0 72))) = 3
      ∧ fld (s.mem.dword (localAddr 0 72)) 0 60 ≠ 0#60)
    ∧ s.mem.dword (localAddr 0 72) ||| (1#64 <<< 60) = v ∧ s.walkCheck w (s.mem.dword (localAddr 0 72)) = .ok (localAddr 0 128, 0x10000000000)
    ∧ s.arenaKilled w.coord 0x10000000000 = false ∧ localAddr 0 128 % 8 = 0
    ∧ (match s.visit w 64 with
      | .ok (s1, a, l) => decide (a = localAddr 0 64 ∧ l = [v] ∧ s1.headerCross w v = (s1, true)
          ∧ s1.walkCheck w v = .ok (localAddr 0 128, 0x10000000000) ∧ s1.arenaKilled w.coord 0x10000000000 = false)
      | .error _ => false) = true
    ∧ headerState 0x10000000000 = 0#2 := by decide +kernel

/-- PublicationResult: the object on the stack belongs to an arena that has been killed since, and (`r`) it is another than the root. -/
theorem witness_killed_arena :
    let kill (s : State) : State := s.modDie 0 fun x => { x with killed := [0] }
    let w := walkOf [64] true
    let s := kill (publishing w)
    let r := kill (publishing { w with root := 256 })
    (∀ m ∈ w.marked, m.1 = localAddr 0 64 → ((publishing w).die w.coord.die).killed.contains m.2 = false)
    ∧ (s.cluster s.arg.c).walk = some w ∧ w.coord.clusterKey = s.arg.c.clusterKey ∧ w.suspended = false ∧ w.held = false
    ∧ (s.slot w.coord).hold = some .walk ∧ w.todo = [] ∧ w.stack = [64] ∧ s.walkAddr w 64 64 = .ok (localAddr 0 64)
    ∧ (localAddr 0 64, 0) ∈ w.marked ∧ (s.die w.coord.die).killed.contains 0 = true
    ∧ r.walkAddr { w with root := 256 } 64 64 = .ok (localAddr 0 64) ∧ (r.slot w.coord).hold = some .walk := by decide +kernel

/-! ## Decoding and stepping: states that meet the hypotheses -/

/-- DecodeOfEncode and EncodeOfDecode: the least and the largest operands of one form, a pair, and an epilogue word. -/
theorem witness_encode :
    ((Instr.addi 0 0 0).wf = true ∧ encodeWord (.addi 0 0 0) = some 0x20000000)
    ∧ ((Instr.addi 31 31 0xFFFF).wf = true ∧ encodeWord (.addi 31 31 0xFFFF) = some 0x23FFFFFF)
    ∧ ((Instr.ximm 0x3FFFFFE 0x20000000).wf = true ∧ encodeWord (.ximm 0x3FFFFFE 0x20000000) = some 0xFFFFFFFE)
    ∧ (Instr.eend).wf = true ∧ encodeEpi .eend = some 0xF000 ∧ decodeEpi 0xF000 = some .eend
    ∧ decodeWord 0x23FFFFFF = some (.addi 31 31 0xFFFF) := by decide +kernel

/-- The state in which slot 0 issues the words that `withFetchWord` places. -/
def issuing (nbits w : Nat) : State := (State.reset.withFetchWord nbits w).ticked.issued Coord.zero 0

/-- StepRunsTheDecodedInstruction: an `addi`, a pair, and an illegal word issue; an event and an epilogue word come first. -/
theorem witness_StepRunsTheDecodedInstruction :
    let pl (a : Nat) := localPlace 0 a 4
    let bytes (w : Nat) (a : Nat) : List Byte := (locals a 4).map (issuing 64 w).mem.byte
    let fetches (w a : Nat) (p : Dword) : Bool := let u := issuing 64 w
      (match u.resolve u.cur u.me.vf none (u.me.segOf p) [(fld p 0 60, 4)] rightX p with | .ok q => q = pl a | .error _ => false)
      && ((u.cluster u.cur).icache.find? fun e => e.1 == (pl a).addrs.headD 0 / 32).isSome
      && (firstRefused u.mem u.cur.clusterKey (pl a).addrs).isNone
    let s := State.reset.withFetchWord 64 0x20A5004000000000
    let e : State := { State.reset with agenda := [.event .nop (EvArg.at Coord.zero)] }
    let p := State.reset.withFetchWord 16 0xF000
    (s.ticked.due = [] ∧ s.agenda = [] ∧ s.dev.recovery = false ∧ s.ticked.pick s.focus = some 0
      ∧ (s.slot (s.focus.at 0)).fw = false ∧ (s.slot (s.focus.at 0)).starting = none ∧ (issuing 64 0x20A50040).me.frame = none
      ∧ (issuing 64 0x20A50040).me.pc = 0)
    ∧ (fetches 0x20A50040 0 0 = true ∧ decode (bytes 0x20A50040 0) = .ok (.addi 5 5 0x0040, []))
    ∧ (fetches 0x20A50040FC000001 0 0 = true ∧ fetches 0x20A50040FC000001 4 4 = true
      ∧ decode (bytes 0x20A50040FC000001 0 ++ bytes 0x20A50040FC000001 4) = .ok (.ximm 1 0x20A50040, []))
    ∧ (fetches 0 0 0 = true ∧ decode (bytes 0 0) = .error (.illegal 0))
    ∧ (e.ticked.due = [] ∧ e.agenda = .event .nop (EvArg.at Coord.zero) :: [])
    ∧ (p.ticked.due = [] ∧ p.agenda = .epilogue Coord.zero :: [] ∧ (p.cluster Coord.zero).epi.ended = false
      ∧ decodeEpi ((p.cluster Coord.zero).epiI.get (p.cluster Coord.zero).epi.pc 0xF000) = some .eend) := by decide +kernel

/-- MemoryKeepsItsForm: reset memory has the form, and a step from it answers a next state. -/
theorem witness_MemoryKeepsItsForm :
    State.reset.mem.wf = true ∧ (match step (State.reset.withFetchWord 32 0x48000000) with | .next t => t.mem.wf | _ => false) = true := by
  decide +kernel

end Sys2Proof.Tests
end

section
/-! PROOF. `nop` (R88): its word, and that it is the advance of the slot and nothing else. -/
namespace Sys2Proof.Machine

/-- The word that R88 gives reads as `nop`: major opcode 0x12 with all operand bits zero. -/
theorem decodeWord_nop : decodeWord 0x48000000 = some .nop := rfl

/-- `nop` only moves the current slot past its own four bytes (R64). -/
theorem exec_nop (s : State) : exec .nop s = .next (s.advance 4) := rfl

/-- Settles O57: `nop` is the advance alone, and the advance changes nothing but the slot's place. -/
theorem nopChangesNothing : Obligations.NopChangesNothing :=
  ⟨decodeWord_nop, fun s => ⟨s.advance 4, exec_nop s, passed_advance s 4⟩⟩

end Sys2Proof.Machine
end

section
/-! PROOF. `rndk` (R340): its six rounds as one map on the pair (x, k), iterated, and what the instruction writes. -/
namespace Sys2Proof.Machine

/-- A write of gD through the state, then the advance (R64, R65): nothing else changes. -/
theorem wroteG_wg_advance (s : State) (d : BitVec 5) (v : Dword) (n : Nat) : WroteG n d v s ((s.wg d v).advance n) := by
  simpa using wroteG_wg s d v n

/-- `n` rounds of a keyed mix `f` with the key schedule `g`. Over variables `f` and `g` the recursion unfolds cheaply; unfolding
`rndRounds` itself makes the kernel compare `k` with `k` plus a 64-bit constant, where it recurses too deep. -/
def keyedRounds {α κ : Type} (f : α → κ → α) (g : κ → κ) : Nat → α → κ → α
  | 0, x, _ => x
  | n + 1, x, k => keyedRounds f g n (f x k) (g k)

/-- Keyed rounds are the iterates of one map on the pair of value and key. -/
theorem keyedRounds_eq_iterate {α κ : Type} (f : α → κ → α) (g : κ → κ) (n : Nat) (x : α) (k : κ) :
    keyedRounds f g n x k = ((fun p : α × κ => (f p.1 p.2, g p.2))^[n] (x, k)).1 := by
  induction n generalizing x k with
  | zero => rfl
  | succ n ih => rw [keyedRounds, ih, Function.iterate_succ_apply]

/-- The rounds of the model are keyed rounds of R340's mix and key step. -/
theorem rndRounds_eq_keyedRounds : rndRounds = keyedRounds rndRound (· + 0x9E3779B97F4A7C15#64) := by
  delta rndRounds keyedRounds; rfl

/-- The loop body of R340 on its two variables: the round on x, and the step of k. -/
def rndStep (p : Dword × Dword) : Dword × Dword := (rndRound p.1 p.2, p.2 + 0x9E3779B97F4A7C15#64)

/-- The rounds of the model are the first component of the iterated loop body. -/
theorem rndRounds_eq_iterate (n : Nat) (x k : Dword) : rndRounds n x k = (rndStep^[n] (x, k)).1 := by
  rw [rndRounds_eq_keyedRounds]; exact keyedRounds_eq_iterate _ _ n x k

/-- The keyed hash as R340 writes it: the loop body folded over the six values of i, then the last mix of x. -/
theorem rnd_eq_foldl (k x : Dword) :
    rnd k x = (let p := (List.range 6).foldl (fun p _ => rndStep p) (x, k); p.1 ^^^ (p.1 >>> 33)) := by
  simp only [rnd, rndRounds_eq_iterate, List.foldl_const, List.length_range]

/-- `rndk` completes at once: it writes the hash of gB under gA to gD and advances. -/
theorem exec_rndk (d a b : BitVec 5) (s : State) :
    exec (.rndk d a b) s = .next ((s.wg d (rnd (s.rg a) (s.rg b))).advance 4) := rfl

/-- Settles O14: the hash that `rndk` writes is the fold of R340's loop body, and a write with the advance is all it does. -/
theorem keyedHashResult : Obligations.KeyedHashResult := by
  intro d a b s
  refine ⟨_, exec_rndk d a b s, ?_⟩
  rw [rnd_eq_foldl]
  exact wroteG_wg_advance s d _ 4

end Sys2Proof.Machine
end
